-- ==== Sys2Proof/Word.lean ====
section
/-! DEFINITION. The bit-vector types of the model: what the two links carry, and nothing else. -/

namespace Sys2Proof

/-- One byte of a link. -/
abbrev Byte := BitVec 8

/-- The 16-bit tag the cell controller gives a packet (spec 00, "Tags"). -/
abbrev Tag := BitVec 16

/-- A setpoint frame's number, a 16-bit count (R131). -/
abbrev FrameNo := BitVec 16

/-- A set of the eight auxiliary lines: line n at the weight 2 to the power n (R178). -/
abbrev Lines := BitVec 8

end Sys2Proof
end

