-- ==== Sys2Proof/Config.lean ====
section
/-! DEFINITION. The capacities and fixed bytes of the part. The spec leaves no result open, so no free value stands here. -/

namespace Sys2Proof.Config

/-- Places of the intake queue (R164). -/
def intakeCap : Nat := 64
/-- Records the lookahead window holds at most (R69). -/
def windowCap : Nat := 24
/-- Records the execution queue holds at most (R104). -/
def queueCap : Nat := 32
/-- Actions the pending action list, and a record, hold at most (R1, R7). -/
def actionCap : Nat := 4
/-- Places of the response queue (R173). -/
def responseCap : Nat := 16
/-- Tags the mark report queue holds at most (R176). -/
def markCap : Nat := 8
/-- Payload bytes of a packet at most (Table 10.1). -/
def payloadCap : Nat := 48
/-- First sync byte of every packet and frame (12.1, Table 12.5). -/
def sync1 : Byte := 0xA5
/-- Second sync byte of a motion link packet (12.1). -/
def packetSync2 : Byte := 0x3C
/-- Second sync byte of a setpoint frame (Table 12.5). -/
def setpointSync2 : Byte := 0xC3
/-- Second sync byte of a return frame (Table 12.5). -/
def returnSync2 : Byte := 0x5A
/-- Bytes of a return frame after its sync pair (R179). -/
def returnBody : Nat := 21
/-- One full turn, in centidegrees (Table 0.3). -/
def turn : Nat := 36000
/-- Half a turn, in centidegrees. -/
def halfTurn : Nat := 18000

end Sys2Proof.Config
end

