-- ==== Sys2Proof/Syntax.lean ====
section
/-! DEFINITION. The commands of the block: one constructor for each row of spec/opcode_table.json. -/

namespace Sys2Proof

/-- The fourteen fields of the setup record, in the order of Table 9.2 (R146). -/
structure Setup where
  /-- 1, frame period T, ms -/
  period : Nat
  /-- 2, planned acceleration A, mm/s² -/
  accel : Nat
  /-- 3, fault-stop deceleration E, mm/s² -/
  stopDecel : Nat
  /-- 4, travel speed, mm/s -/
  travelSpeed : Nat
  /-- 5, Z air speed, mm/s -/
  zAirSpeed : Nat
  /-- 6, X max, µm -/
  xMax : Nat
  /-- 7, Y max, µm -/
  yMax : Nat
  /-- 8, Z max, µm -/
  zMax : Nat
  /-- 9, table-top Z, µm -/
  tableTop : Nat
  /-- 10, Z cut, µm -/
  zCut : Nat
  /-- 11, clearance, µm -/
  clearance : Nat
  /-- 12, PACE high mark -/
  paceHigh : Nat
  /-- 13, PACE low mark -/
  paceLow : Nat
  /-- 14, drop-on-fault mask -/
  dropMask : Lines
  deriving DecidableEq, Repr

/-- A command: an input of the part, or an event of its own, one for each row of the table. -/
inductive Instr where
  /-- R162: bytes that arrive on the forward lane, the last of a stream packet among them. -/
  | streamPacketArrival (lane : List Byte)
  /-- R160: bytes that arrive on the forward lane, the last of a packet of an unknown kind among them. -/
  | unknownKind (lane : List Byte)
  /-- R161: bytes that arrive on the forward lane and make the Link Receiver drop a packet. -/
  | badPacketDrop (lane : List Byte)
  /-- R5: the Planner takes a BLOCK. -/
  | block
  /-- R8: the Planner takes a CONTOUR. -/
  | contour
  /-- R10: the Planner takes a CUT. -/
  | cut
  /-- R12: the Planner takes a CLOSE. -/
  | close
  /-- R15: the Planner takes a BLOCK-END. -/
  | blockEnd
  /-- R16: the Planner takes a MARK. -/
  | mark
  /-- R16: the Planner takes an AUX. -/
  | aux
  /-- R36: the Planner takes a TABLE-OPEN. -/
  | tableOpen
  /-- R38: the Planner takes a TABLE-DATA. -/
  | tableData
  /-- R40: the Planner takes a TABLE-CLOSE. -/
  | tableClose
  /-- R44: the waiting blade table commits. -/
  | bladeTableCommit
  /-- R78: records due for release are released as room appears. -/
  | release
  /-- R146: a SETUP packet. -/
  | setup (tag : Tag) (fields : Setup)
  /-- R169: a QUERY STATUS; its table id byte is ignored (R178). -/
  | queryStatus (tag : Tag) (tableId : Byte)
  /-- R170: a QUERY POSITION; its table id byte is ignored (R178). -/
  | queryPosition (tag : Tag) (tableId : Byte)
  /-- R50: a QUERY TABLE. -/
  | queryTable (tag : Tag) (tableId : Byte)
  /-- R170: a QUERY SETUP; its table id byte is ignored (R178). -/
  | querySetup (tag : Tag) (tableId : Byte)
  /-- R96: an OVERRIDE. -/
  | override (tag : Tag) (requested : Byte)
  /-- R126: a HALT. -/
  | halt (tag : Tag)
  /-- R128: a RESUME. -/
  | resume (tag : Tag)
  /-- R156: an ABORT. -/
  | abort (tag : Tag)
  /-- R153: a CLEAR-FAULT. -/
  | clearFault (tag : Tag)
  /-- R171: an EVENT-MASK. -/
  | eventMask (tag : Tag) (enables : Byte)
  /-- R107: one frame period. -/
  | frame
  /-- R137: the third miss raises DRIVE-LINK. -/
  | driveLink
  /-- R100: the Load Governor's evaluation. -/
  | governorEvaluation
  /-- R102: the jam count at 8 raises BLADE-JAM. -/
  | bladeJam
  /-- R116: the lock timer's expiry. -/
  | lockTimeout
  /-- R122: the trim timer's expiry. -/
  | trimTimeout
  /-- R124: the dwell timer's expiry. -/
  | dwellTimeout
  /-- R124: the end of a standoff retract. -/
  | standoff
  /-- R126: the Executor enters HOLD under a halt request. -/
  | holdEntry
  /-- R157: the end of an abort stop. -/
  | abortStopEnd
  /-- R130: the end of a fault deceleration. -/
  | stopped
  /-- R155: the end of the RECOVER retract. -/
  | recoverRetractEnd
  /-- R136: bytes that arrive on the incoming drive lane. -/
  | returnFrame (lane : List Byte)
  /-- R152: the STOP input becomes asserted. -/
  | stopAsserted
  /-- R152: the STOP input becomes released. -/
  | stopReleased
  /-- R158: the RESET input becomes asserted. -/
  | reset
  /-- R177: the return lane is idle, or a packet on it has ended, and the arbiter chooses. -/
  | returnLaneChoice
  /-- R179: the incoming drive lane falls idle within a return frame. -/
  | partialFrameDiscard
  /-- R158: the RESET input is released. -/
  | resetReleased
  /-- R169: a QUERY whose item names none of the four. -/
  | queryItemRange (tag : Tag) (item : Byte) (tableId : Byte)
  deriving DecidableEq, Repr

end Sys2Proof
end

