-- ==== Sys2Proof/WellFormed.lean ====
section
/-! DEFINITION. Which commands can come from outside as they are written. A command that fails its check still has a
meaning (exec is total); the check says that its operands fit the packet or lane they stand for. -/

namespace Sys2Proof

/-- Each field fits the width Table 12.2 gives it in the SETUP payload. -/
def Setup.fits (r : Setup) : Bool :=
  decide (r.period < 2 ^ 8) && decide (r.accel < 2 ^ 16) && decide (r.stopDecel < 2 ^ 16) &&
  decide (r.travelSpeed < 2 ^ 16) && decide (r.zAirSpeed < 2 ^ 16) && decide (r.xMax < 2 ^ 32) &&
  decide (r.yMax < 2 ^ 32) && decide (r.zMax < 2 ^ 32) && decide (r.tableTop < 2 ^ 32) &&
  decide (r.zCut < 2 ^ 32) && decide (r.clearance < 2 ^ 16) && decide (r.paceHigh < 2 ^ 8) &&
  decide (r.paceLow < 2 ^ 8)

/-- A command is well formed when its operands fit what it stands for: a SETUP's fields their widths, a lane command
at least one byte, and a QUERY of no item an item code that names none of the four (Table 12.6). -/
def Instr.wellFormed : Instr → Bool
  | .streamPacketArrival lane => !lane.isEmpty
  | .unknownKind lane => !lane.isEmpty
  | .badPacketDrop lane => !lane.isEmpty
  | .returnFrame lane => !lane.isEmpty
  | .setup _ fields => fields.fits
  | .queryItemRange _ item _ => decide (item = 0) || decide (4 < item.toNat)
  | .block => true
  | .contour => true
  | .cut => true
  | .close => true
  | .blockEnd => true
  | .mark => true
  | .aux => true
  | .tableOpen => true
  | .tableData => true
  | .tableClose => true
  | .bladeTableCommit => true
  | .release => true
  | .queryStatus _ _ => true
  | .queryPosition _ _ => true
  | .queryTable _ _ => true
  | .querySetup _ _ => true
  | .override _ _ => true
  | .halt _ => true
  | .resume _ => true
  | .abort _ => true
  | .clearFault _ => true
  | .eventMask _ _ => true
  | .frame => true
  | .driveLink => true
  | .governorEvaluation => true
  | .bladeJam => true
  | .lockTimeout => true
  | .trimTimeout => true
  | .dwellTimeout => true
  | .standoff => true
  | .holdEntry => true
  | .abortStopEnd => true
  | .stopped => true
  | .recoverRetractEnd => true
  | .stopAsserted => true
  | .stopReleased => true
  | .reset => true
  | .returnLaneChoice => true
  | .partialFrameDiscard => true
  | .resetReleased => true

end Sys2Proof
end

