-- ==== Sys2Proof/Decode.lean ====
section
/-! DEFINITION. The command that a word spells by the table's bits. No row of spec/opcode_table.json gives bits (its
"fields" are all empty): the part takes its commands as packets, frames and lines, and their bytes are decoded where
the links are modelled (Machine/Operands.lean, Machine/Link.lean, Machine/Drive.lean). So no word spells a command. -/

namespace Sys2Proof

/-- The command that the low `nbits` bits of `w` spell: none, since no row of the table gives bits (log 6). -/
def decodeTableWord (_nbits _w : Nat) : Option Instr := none

end Sys2Proof
end

