-- ==== Sys2Proof/Machine/State.lean ====
section
/-! DEFINITION. The state of the part: every piece of state the spec names, block by block (Table 0.2), as plain data. -/

namespace Sys2Proof.Machine

/-- Why the model stops. Both stand only for states that the laws of the spec rule out (log 19): safe. -/
inductive Fault where
  /-- Raised by FRAME and by the taking of a CUT or CLOSE when the active blade table is absent although work
  that reads it is held, which R31 and R33 rule out. Safe: no state the part reaches stops here. -/
  | bladeTableAbsent
  /-- Raised by the taking of a CUT or CONTOUR when a class of the candidate set has no density entry, or the zone
  table is absent, which R26, R32 and R33 rule out. Safe: no state the part reaches stops here. -/
  | classUnresolved
  deriving DecidableEq, Repr

/-- Why a command has no meaning. -/
inductive Refusal where
  /-- Raised by `exec` for a row that is not modelled yet; no row is. Safe. -/
  | notModelled (mnemonic : String)
  deriving DecidableEq, Repr

/-! ## Link Receiver -/

/-- A packet as it arrived: kind, tag and payload; the length is the payload's (R164). -/
structure Packet where
  kind : Byte
  tag : Tag
  payload : List Byte
  deriving DecidableEq, Repr

/-- Reception state of the forward lane (R159). -/
inductive Reception where
  /-- HUNT; `kept` says that the byte kept is the first sync byte. -/
  | hunt (kept : Bool)
  /-- LENGTH: the next byte is the length. -/
  | length
  /-- BODY: the length byte, the bytes stored so far, and how many are still expected. -/
  | body (len : Byte) (got : List Byte) (left : Nat)
  deriving DecidableEq, Repr

/-- State of the Link Receiver. -/
structure LinkReceiver where
  rx : Reception
  intake : List Packet
  /-- PACE output: true is ASSERTED (R166). -/
  pace : Bool
  deriving DecidableEq, Repr

/-! ## Table Store -/

/-- A density entry (Table 2.1). -/
structure DensityEntry where
  feedCap : Nat
  pitchTarget : Nat
  pitchMax : Nat
  plunge : Nat
  ceiling : Nat
  deriving DecidableEq, Repr

/-- A zone entry (Table 2.2): the default class of entry 0, or a rectangle. -/
inductive ZoneEntry where
  | dflt (cls : Nat)
  | rect (xLo yLo xHi yHi : Int) (cls : Nat)
  deriving DecidableEq, Repr

/-- The blade entry (Table 2.3). -/
structure BladeEntry where
  fMin : Nat
  fMax : Nat
  fPlunge : Nat
  blend : Nat
  swivel : Nat
  swivelRate : Nat
  airRate : Nat
  lead : Nat
  trimInterval : Nat
  trimGrace : Nat
  lockTimeout : Nat
  trimTimeout : Nat
  dwellTimeout : Nat
  deriving DecidableEq, Repr

/-- The staged entries of a load, under its table id, in ascending order of index (R35). -/
inductive Staged where
  | density (entries : List (Nat × DensityEntry))
  | zone (entries : List (Nat × ZoneEntry))
  | blade (entries : List (Nat × BladeEntry))
  deriving DecidableEq, Repr

/-- The first failure of a load (R35). -/
inductive LoadFailure where
  | badIndex (index : Nat)
  | badField (index field : Nat)
  deriving DecidableEq, Repr

/-- An open load: the open flag is the load's presence, the failed flag that of its first failure (R35). -/
structure Load where
  staged : Staged
  failure : Option LoadFailure
  deriving DecidableEq, Repr

/-- The waiting blade table: what the close staged, and the close's tag (R35, R43). -/
structure WaitingBlade where
  entry : Option BladeEntry
  tag : Tag
  deriving DecidableEq, Repr

/-- State of the Table Store (R20, R35). The tables are lists in strictly ascending order of index. -/
structure TableStore where
  density : List (Nat × DensityEntry)
  zone : List (Nat × ZoneEntry)
  blade : Option BladeEntry
  load : Option Load
  waiting : Option WaitingBlade
  deriving DecidableEq, Repr

/-! ## Step records -/

/-- An action (R7, R16); an AUX keeps its packet's tag, which an ACTIONS record may take (R18). -/
inductive Action where
  | mark (tag : Tag)
  | aux (tag : Tag) (mask values : Lines)
  deriving DecidableEq, Repr

/-- The class snapshot of a CUT record (R29). -/
structure Snapshot where
  cls : Nat
  feedCap : Nat
  pitchTarget : Nat
  pitchMax : Nat
  plunge : Nat
  ceiling : Nat
  deriving DecidableEq, Repr

/-- The fields of a CUT record (Table 1.3). -/
structure CutRecord where
  x0 : Int
  y0 : Int
  x1 : Int
  y1 : Int
  len : Nat
  heading : Nat
  snap : Snapshot
  cap : Nat
  entry : Nat
  exit : Nat
  deriving DecidableEq, Repr

/-- Junction class of a PIVOT (R57). -/
inductive PivotClass where
  | swivel
  | lift
  deriving DecidableEq, Repr

/-- The fields of a PIVOT record (R57). -/
structure PivotRecord where
  cls : PivotClass
  rotation : Int
  trim : Bool
  forced : Bool
  plunge : Option Nat
  deriving DecidableEq, Repr

/-- Kind and further fields of a step record (Table 1.3). -/
inductive Body where
  | blockStart (top clear : Nat) (dry : Bool) (blockTag : Tag)
  | travel (x y : Int) (heading : Option Nat)
  | enter (x y : Int) (heading : Option Nat) (plunge : Nat)
  | cut (c : CutRecord)
  | pivot (p : PivotRecord)
  | leave (retract : Nat) (trim : Bool)
  | actions
  | blockDone (blockTag : Tag)
  deriving DecidableEq, Repr

/-- A step record (R7). -/
structure Record where
  tag : Tag
  actions : List Action
  body : Body
  deriving DecidableEq, Repr

/-! ## Planner -/

/-- Stream state (R1). -/
inductive StreamState where
  | noBlock
  | inBlock
  | inContour
  deriving DecidableEq, Repr

/-- Block geometry of the stream context (R1). -/
structure PlannedBlock where
  ox : Int
  oy : Int
  top : Nat
  clear : Nat
  dry : Bool
  tag : Tag
  deriving DecidableEq, Repr

/-- Contour record (R1): the plunge speed of its ENTER, and, once a CUT has been made in it, the plunge speed of the
last CUT's snapshot (R12). Its TRAVEL and ENTER are the window's records marked `ofOpenContour`. -/
structure ContourRecord where
  plunge : Nat
  cutPlunge : Option Nat
  deriving DecidableEq, Repr

/-- Previous-CUT memory (R70). -/
inductive PrevCut where
  | none
  | contourStart
  | inWindow (heading cap : Nat)
  | fixed (heading cap exit : Nat)
  deriving DecidableEq, Repr

/-- A record in the lookahead window, with the junction speed kept beside a CUT (R69) and the mark of the open
contour's TRAVEL and ENTER while their headings are to be filled (R8, R11). -/
structure WindowEntry where
  record : Record
  junction : Nat
  ofOpenContour : Bool
  deriving DecidableEq, Repr

/-- State of the Planner. -/
structure Planner where
  stream : StreamState
  block : Option PlannedBlock
  prev : Option (Int × Int)
  contour : Option ContourRecord
  plannedHeading : Option Nat
  actions : List Action
  memory : PrevCut
  trimDist : Nat
  window : List WindowEntry
  /-- Release point: the place in the window, from 0, of the record it names (R69). -/
  releasePoint : Option Nat
  /-- Boundary speed b of the run (R71). -/
  boundary : Nat
  deriving DecidableEq, Repr

/-! ## Executor -/

/-- Retract purpose (Table 7.4). -/
inductive Purpose where
  | leave
  | lift
  | standoff
  | abort
  | recover
  deriving DecidableEq, Repr

/-- Executor state (Table 7.1, R105). -/
inductive ExecState where
  | idle
  | travel
  | spinup
  | plunge
  | cut
  | swivel
  | retract (purpose : Purpose)
  | rotate
  | trim
  | dwell
  | standoff (fromHold : Bool)
  | hold (fromStandoff : Bool)
  | stopping
  | stopped
  deriving DecidableEq, Repr

/-- X, Y, Z and heading (R105). -/
structure Position where
  x : Int
  y : Int
  z : Nat
  heading : Nat
  deriving DecidableEq, Repr

/-- The current record with its progress (R105): distance done s, speed v, length L, the point a TRAVEL began at, the
rotation still to be made, and whether its work is complete. -/
structure Current where
  record : Record
  dist : Nat
  speed : Nat
  len : Nat
  startX : Int
  startY : Int
  turn : Int
  complete : Bool
  deriving DecidableEq, Repr

/-- The executing block (R105). -/
structure ExecBlock where
  top : Nat
  clear : Nat
  dry : Bool
  deriving DecidableEq, Repr

/-- A timer (R108). -/
inductive Timer where
  | stopped
  | running (elapsed timeout : Nat)
  deriving DecidableEq, Repr

/-- The re-entry point (R124). -/
structure Reentry where
  x : Int
  y : Int
  heading : Nat
  plunge : Nat
  deriving DecidableEq, Repr

/-- A vertical move in progress (R113). -/
structure ZMove where
  target : Nat
  speed : Nat
  deriving DecidableEq, Repr

/-- State of the Executor (R104, R105). -/
structure Executor where
  state : ExecState
  position : Option Position
  current : Option Current
  currentTag : Tag
  block : Option ExecBlock
  heldPlunge : Option Nat
  lockTimer : Timer
  trimTimer : Timer
  dwellTimer : Timer
  spinupFrame : Option FrameNo
  trimFrame : Option FrameNo
  haltRequest : Bool
  reentry : Option Reentry
  queue : List Record
  /-- The vertical move of the step in progress. -/
  zMove : Option ZMove
  /-- The move of the step in progress is complete, and its record is not. -/
  stepDone : Bool
  /-- A spin-up or plunge in progress is that of a re-entry (R125). -/
  reentering : Bool
  /-- A dwell expiry has been taken whose retract begins in the next frame (R124). -/
  standoffPending : Bool
  /-- The standoff retract in progress was begun in HOLD (R124, R127). -/
  beganInHold : Bool
  deriving DecidableEq, Repr

/-! ## Load Governor -/

/-- State of the Load Governor (R96, R98). -/
structure Governor where
  operator : Nat
  override : Nat
  evalCount : Nat
  jamCount : Nat
  /-- An evaluation that has fallen due, with the ceiling it reads (R99). -/
  evalDue : Option Nat
  /-- The jam count has just reached 8 (R102). -/
  jamDue : Bool
  deriving DecidableEq, Repr

/-! ## Drive Link Port -/

/-- Held return values (R131). -/
structure Held where
  x : Nat
  y : Nat
  z : Nat
  heading : Nat
  /-- weights 1 X, 2 Y, 4 Z, 8 heading, 16 oscillator (Table 12.4) -/
  ready : BitVec 5
  alarm : Bool
  lock : Bool
  trimDone : Bool
  load : Nat
  echo : FrameNo
  deriving DecidableEq, Repr

/-- Reception state of the incoming drive lane (R179). -/
inductive DriveReception where
  | hunt (kept : Bool)
  | body (got : List Byte) (left : Nat)
  deriving DecidableEq, Repr

/-- State of the Drive Link Port (R131). -/
structure Port where
  sending : Bool
  frameNo : FrameNo
  held : Held
  received : Bool
  missed : Nat
  trimRequest : Bool
  lines : Lines
  dropMask : Lines
  rx : DriveReception
  /-- A setpoint frame has been sent since SETUP (R137). -/
  sentAny : Bool
  /-- A third miss has been counted and DRIVE-LINK is not yet raised (R137). -/
  linkDue : Bool
  /-- The bytes of the last setpoint frame on the outgoing lane. -/
  outLane : List Byte
  deriving DecidableEq, Repr

/-! ## Part Controller -/

/-- Part state (Table 9.1). -/
inductive PartState where
  | unconfigured
  | parked
  | running
  | fault
  | recovering
  deriving DecidableEq, Repr

/-- Fault codes (Table 9.3). -/
inductive FaultCode where
  | program
  | intakeOverrun
  | linkCrc
  | driveLink
  | drive
  | lockTimeout
  | trimTimeout
  | bladeJam
  | stop
  deriving DecidableEq, Repr

/-- The fault record (R149). -/
structure FaultRecord where
  cause : Option FaultCode
  tag : Tag
  position : Option Position
  further : Nat
  deriving DecidableEq, Repr

/-- State of the Part Controller (R144), with the levels of its two inputs (R152, R158). -/
structure Part where
  state : PartState
  setup : Option Setup
  record : FaultRecord
  abortFlag : Bool
  stopInput : Bool
  inReset : Bool
  deriving DecidableEq, Repr

/-! ## Report Unit -/

/-- Refusal reasons (Table 11.3). -/
inductive Reason where
  | notConfigured
  | state
  | range
  | sequence
  | limit
  | noTable
  | loadOpen
  | noLoad
  | loadFailed
  | count
  | crc
  | inconsistent
  | blockOpen
  | stopped
  deriving DecidableEq, Repr

/-- Result of a response, with the reason of a refusal (R172). -/
inductive Result where
  | accepted
  | refused (reason : Reason)
  | unknown
  deriving DecidableEq, Repr

/-- A response (R172). -/
structure Response where
  kind : Byte
  tag : Tag
  result : Result
  data : List Byte
  deriving DecidableEq, Repr

/-- A place of the response queue that is not empty (R173). -/
inductive Place where
  | reserved
  | held (r : Response)
  deriving DecidableEq, Repr

/-- Reason of a LINK event (Table 11.4). -/
inductive LinkReason where
  | badPacket
  | responseFull
  deriving DecidableEq, Repr

/-- Pending flags and the data of each source's latest occurrence (R175); a code datum 0 is `none`. -/
structure Events where
  fault : Bool
  faultCode : Option FaultCode
  faultTag : Tag
  blockDone : Bool
  blockDoneTag : Tag
  standoff : Bool
  standoffTag : Tag
  standoffX : Int
  standoffY : Int
  trimForced : Bool
  trimForcedTag : Tag
  governor : Bool
  governorValue : Nat
  link : Bool
  linkReason : Option LinkReason
  deriving DecidableEq, Repr

/-- State of the Report Unit. -/
structure Report where
  /-- enable of source n at bit n − 1 (R178) -/
  enables : BitVec 7
  responses : List Place
  events : Events
  marks : List Tag
  lost : Bool
  /-- The bytes of the packet on the return lane; none when the lane is idle (R177). -/
  lane : Option (List Byte)
  deriving DecidableEq, Repr

/-! ## The whole part -/

/-- State of the part, and the queue of the commands that wait. -/
structure State where
  link : LinkReceiver
  tables : TableStore
  planner : Planner
  executor : Executor
  /-- Kept frequency of the Stroke Unit, Hz (R89). -/
  keptFreq : Nat
  governor : Governor
  port : Port
  part : Part
  report : Report
  pending : List Instr
  deriving DecidableEq, Repr

/-- The stream context, window and memory in the condition of R1 and R87, with trim distance `d`. -/
def Planner.cleared (d : Nat) : Planner where
  stream := .noBlock
  block := none
  prev := none
  contour := none
  plannedHeading := none
  actions := []
  memory := .none
  trimDist := d
  window := []
  releasePoint := none
  boundary := 0

/-- The part right after reset (R158, Table 9.4): every field at the value its block's rule gives. -/
def State.reset : State where
  link := { rx := .hunt false, intake := [], pace := false }
  tables := { density := [], zone := [], blade := none, load := none, waiting := none }
  planner := Planner.cleared 0
  executor :=
    { state := .idle, position := none, current := none, currentTag := 0, block := none, heldPlunge := none,
      lockTimer := .stopped, trimTimer := .stopped, dwellTimer := .stopped, spinupFrame := none, trimFrame := none,
      haltRequest := false, reentry := none, queue := [], zMove := none, stepDone := false, reentering := false,
      standoffPending := false, beganInHold := false }
  keptFreq := 0
  governor := { operator := 100, override := 100, evalCount := 0, jamCount := 0, evalDue := none, jamDue := false }
  port :=
    { sending := false, frameNo := 0,
      held := { x := 0, y := 0, z := 0, heading := 0, ready := 0, alarm := false, lock := false, trimDone := false,
                load := 0, echo := 0 },
      received := false, missed := 0, trimRequest := false, lines := 0, dropMask := 0, rx := .hunt false,
      sentAny := false, linkDue := false, outLane := [] }
  part :=
    { state := .unconfigured, setup := none,
      record := { cause := none, tag := 0, position := none, further := 0 },
      abortFlag := false, stopInput := false, inReset := false }
  report :=
    { enables := 127, responses := [],
      events := { fault := false, faultCode := none, faultTag := 0, blockDone := false, blockDoneTag := 0,
                  standoff := false, standoffTag := 0, standoffX := 0, standoffY := 0, trimForced := false,
                  trimForcedTag := 0, governor := false, governorValue := 0, link := false, linkReason := none },
      marks := [], lost := false, lane := none }
  pending := []

end Sys2Proof.Machine
end

