-- ==== Sys2Proof/Machine/Operands.lean ====
section
/-! DEFINITION. Bytes and fields: byte order, the CRC of R48, the payload fields of Table 12.2 and the entry images of
Table 12.3, read and written. -/

namespace Sys2Proof.Machine

/-! ## Byte order (R178): most significant byte first -/

/-- A u8 field. -/
def u8 (n : Nat) : List Byte := [BitVec.ofNat 8 n]

/-- A u16 field. -/
def u16 (n : Nat) : List Byte := [BitVec.ofNat 8 (n / 256), BitVec.ofNat 8 n]

/-- A u32 field. -/
def u32 (n : Nat) : List Byte := u16 (n / 65536) ++ u16 n

/-- An s32 field, two's complement. -/
def s32 (i : Int) : List Byte := u32 (BitVec.ofInt 32 i).toNat

/-- The unsigned number that a run of bytes spells. -/
def beNat (bytes : List Byte) : Nat := bytes.foldl (fun acc b => acc * 256 + b.toNat) 0

/-- The signed number that a 32-bit field spells. -/
def asS32 (n : Nat) : Int := (BitVec.ofNat 32 n).toInt

/-- The unsigned field of `n` bytes at offset `off` of a payload. -/
def fieldU (payload : List Byte) (off n : Nat) : Nat := beNat ((payload.drop off).take n)

/-- The s32 field at offset `off` of a payload. -/
def fieldS (payload : List Byte) (off : Nat) : Int := asS32 (fieldU payload off 4)

/-- A flag byte is set for any value but 0 (R178). -/
def flagByte (n : Nat) : Bool := n != 0

/-- A flag as a byte: clear is 0, and set is sent as 1. R178 calls every value but 0 set and says which is sent for the
trim request alone (0 or 1, Table 12.5); for the lost flag of MARK and the position present of QUERY POSITION the 1 is
the model's (DESIGN CHOICE, log 33). -/
def flagU8 (b : Bool) : List Byte := u8 b.toNat

/-- A tag, or another 16-bit value, as two bytes. -/
def tagBytes (t : Tag) : List Byte := u16 t.toNat

/-! ## The CRC (R48) -/

/-- One presented bit. -/
def crcBit (reg : BitVec 16) (bit : Bool) : BitVec 16 :=
  if reg.msb ^^ bit then (reg <<< 1) ^^^ 0x1021 else reg <<< 1

/-- The low `k` bits of a byte, most significant first. -/
def crcBits : Nat → BitVec 16 → Byte → BitVec 16
  | 0, reg, _ => reg
  | k + 1, reg, b => crcBits k (crcBit reg (b.getLsbD k)) b

/-- The CRC of a sequence of bytes. -/
def crc (bytes : List Byte) : BitVec 16 := bytes.foldl (fun reg b => crcBits 8 reg b) 0xFFFF

/-- The CRC as two bytes. -/
def crcBytes (bytes : List Byte) : List Byte := tagBytes (crc bytes)

/-! ## Packet kinds (Table 12.1) -/

def kindBlock : Byte := 0x01
def kindContour : Byte := 0x02
def kindCut : Byte := 0x03
def kindClose : Byte := 0x04
def kindBlockEnd : Byte := 0x05
def kindMark : Byte := 0x06
def kindAux : Byte := 0x07
def kindTableOpen : Byte := 0x08
def kindTableData : Byte := 0x09
def kindTableClose : Byte := 0x0A
def kindSetup : Byte := 0x10
def kindQuery : Byte := 0x11
def kindOverride : Byte := 0x12
def kindHalt : Byte := 0x13
def kindResume : Byte := 0x14
def kindAbort : Byte := 0x15
def kindClearFault : Byte := 0x16
def kindEventMask : Byte := 0x17
def kindResponse : Byte := 0x20
def kindEvent : Byte := 0x21

/-- The ten stream kinds (Table 10.2). -/
def isStreamKind (k : Byte) : Bool := decide (1 ≤ k.toNat) && decide (k.toNat ≤ 10)

/-- The eight immediate kinds (Table 10.2). -/
def isImmediateKind (k : Byte) : Bool := decide (0x10 ≤ k.toNat) && decide (k.toNat ≤ 0x17)

/-- The kinds that are let through in UNCONFIGURED (R163). -/
def isSetupQueryMask (k : Byte) : Bool := k == kindSetup || k == kindQuery || k == kindEventMask

/-- A payload length that its kind allows (Table 12.1, R160). -/
def lengthFits (k : Byte) (n : Nat) : Bool :=
  if k == kindBlock then n == 13
  else if k == kindContour then n == 8
  else if k == kindCut then n == 10
  else if k == kindAux then n == 2
  else if k == kindTableOpen then n == 1
  else if k == kindTableData then decide (1 ≤ n) && decide (n ≤ Config.payloadCap)
  else if k == kindTableClose then n == 3
  else if k == kindSetup then n == 34
  else if k == kindQuery then n == 2
  else if k == kindOverride then n == 1
  else if k == kindEventMask then n == 1
  else n == 0

/-- The bytes of a packet that the CRC covers: length, kind, tag, payload (R160). -/
def coveredBytes (kind : Byte) (tag : Tag) (payload : List Byte) : List Byte :=
  BitVec.ofNat 8 payload.length :: kind :: (tagBytes tag ++ payload)

/-- A whole packet as it stands on a lane of the motion link (Table 10.1). -/
def packetBytes (kind : Byte) (tag : Tag) (payload : List Byte) : List Byte :=
  [Config.sync1, Config.packetSync2] ++ coveredBytes kind tag payload ++ crcBytes (coveredBytes kind tag payload)

/-! ## SETUP payload (Table 12.2) -/

/-- The setup record as the 34 bytes of the SETUP payload. -/
def setupBytes (r : Setup) : List Byte :=
  u8 r.period ++ u16 r.accel ++ u16 r.stopDecel ++ u16 r.travelSpeed ++ u16 r.zAirSpeed ++ u32 r.xMax ++ u32 r.yMax ++
  u32 r.zMax ++ u32 r.tableTop ++ u32 r.zCut ++ u16 r.clearance ++ u8 r.paceHigh ++ u8 r.paceLow ++ [r.dropMask]

/-- The setup record that a SETUP payload spells. -/
def setupOf (p : List Byte) : Setup where
  period := fieldU p 0 1
  accel := fieldU p 1 2
  stopDecel := fieldU p 3 2
  travelSpeed := fieldU p 5 2
  zAirSpeed := fieldU p 7 2
  xMax := fieldU p 9 4
  yMax := fieldU p 13 4
  zMax := fieldU p 17 4
  tableTop := fieldU p 21 4
  zCut := fieldU p 25 4
  clearance := fieldU p 29 2
  paceHigh := fieldU p 31 1
  paceLow := fieldU p 32 1
  dropMask := BitVec.ofNat 8 (fieldU p 33 1)

/-! ## Entry images (Table 12.3) -/

/-- Reads fields of the given widths in turn; a payload that ends before a field is wholly present gives that field's
number (R38). `no` is the number of the first field of `widths`. -/
def readFields : List Nat → Nat → List Byte → Except Nat (List Nat)
  | [], _, _ => .ok []
  | w :: ws, no, bytes =>
    if bytes.length < w then .error no
    else match readFields ws (no + 1) (bytes.drop w) with
      | .error e => .error e
      | .ok vs => .ok (beNat (bytes.take w) :: vs)

/-- Number, from `no`, of the first check that fails. -/
def firstFailing : Nat → List Bool → Option Nat
  | _, [] => none
  | no, ok :: oks => if ok then firstFailing (no + 1) oks else some no

/-- A number lies in `lo..hi`. -/
def within (lo hi n : Nat) : Bool := decide (lo ≤ n) && decide (n ≤ hi)

/-- A signed number lies in `lo..hi`. -/
def withinInt (lo hi n : Int) : Bool := decide (lo ≤ n) && decide (n ≤ hi)

/-- Coordinates of zone rectangles and block origins reach this far from 0, µm (Table 1.1, Table 2.2). -/
def coordMax : Int := 4000000

/-- Field widths of a density entry. -/
def densityWidths : List Nat := [2, 2, 2, 1, 1]
/-- Field widths of a zone rectangle. -/
def rectWidths : List Nat := [4, 4, 4, 4, 1]
/-- Field widths of the blade entry. -/
def bladeWidths : List Nat := [2, 2, 2, 2, 2, 2, 4, 2, 1, 1, 2, 2, 2]

/-- The ranges of Table 2.1, in field order (R21). -/
def densityChecks (e : DensityEntry) : List Bool :=
  [within 1 500 e.feedCap, within 50 4000 e.pitchTarget, within e.pitchTarget 8000 e.pitchMax, within 1 200 e.plunge,
   within 10 200 e.ceiling]

/-- The ranges of Table 2.2, in field order (R23). -/
def zoneChecks : ZoneEntry → List Bool
  | .dflt cls => [within 0 15 cls]
  | .rect xLo yLo xHi yHi cls =>
    [withinInt (-coordMax) coordMax xLo, withinInt (-coordMax) coordMax yLo, withinInt xLo coordMax xHi,
     withinInt yLo coordMax yHi, within 0 15 cls]

/-- The ranges of Table 2.3, in field order (R30). -/
def bladeChecks (b : BladeEntry) : List Bool :=
  [within 20 400 b.fMin, within b.fMin 400 b.fMax, within b.fMin b.fMax b.fPlunge, within 100 4500 b.blend,
   within b.blend 9000 b.swivel, within 1000 36000 b.swivelRate, within 1000 72000 b.airRate, within 0 20000 b.lead,
   within 1 100 b.trimInterval, within 0 50 b.trimGrace, within 50 2000 b.lockTimeout, within 50 2000 b.trimTimeout,
   within 0 10000 b.dwellTimeout]

/-- The density entry its five field values spell. -/
def densityOf (v : List Nat) : DensityEntry where
  feedCap := v.getD 0 0
  pitchTarget := v.getD 1 0
  pitchMax := v.getD 2 0
  plunge := v.getD 3 0
  ceiling := v.getD 4 0

/-- The zone entry its field values spell, for its index. -/
def zoneOf (index : Nat) (v : List Nat) : ZoneEntry :=
  if index = 0 then .dflt (v.getD 0 0)
  else .rect (asS32 (v.getD 0 0)) (asS32 (v.getD 1 0)) (asS32 (v.getD 2 0)) (asS32 (v.getD 3 0)) (v.getD 4 0)

/-- The blade entry its thirteen field values spell. -/
def bladeOf (v : List Nat) : BladeEntry where
  fMin := v.getD 0 0
  fMax := v.getD 1 0
  fPlunge := v.getD 2 0
  blend := v.getD 3 0
  swivel := v.getD 4 0
  swivelRate := v.getD 5 0
  airRate := v.getD 6 0
  lead := v.getD 7 0
  trimInterval := v.getD 8 0
  trimGrace := v.getD 9 0
  lockTimeout := v.getD 10 0
  trimTimeout := v.getD 11 0
  dwellTimeout := v.getD 12 0

/-- Image of a density entry. -/
def densityImage (index : Nat) (e : DensityEntry) : List Byte :=
  u8 index ++ u16 e.feedCap ++ u16 e.pitchTarget ++ u16 e.pitchMax ++ u8 e.plunge ++ u8 e.ceiling

/-- Image of a zone entry. -/
def zoneImage (index : Nat) : ZoneEntry → List Byte
  | .dflt cls => u8 index ++ u8 cls
  | .rect xLo yLo xHi yHi cls => u8 index ++ s32 xLo ++ s32 yLo ++ s32 xHi ++ s32 yHi ++ u8 cls

/-- Image of the blade entry. -/
def bladeImage (index : Nat) (b : BladeEntry) : List Byte :=
  u8 index ++ u16 b.fMin ++ u16 b.fMax ++ u16 b.fPlunge ++ u16 b.blend ++ u16 b.swivel ++ u16 b.swivelRate ++
  u32 b.airRate ++ u16 b.lead ++ u8 b.trimInterval ++ u8 b.trimGrace ++ u16 b.lockTimeout ++ u16 b.trimTimeout ++
  u16 b.dwellTimeout

end Sys2Proof.Machine
end

