-- ==== Sys2Proof/Machine/Flags.lean ====
section
/-! DEFINITION. The codes of Table 12.6 and the status flags of Table 12.4. -/

namespace Sys2Proof.Machine

def partStateCode : PartState → Nat
  | .unconfigured => 0
  | .parked => 1
  | .running => 2
  | .fault => 3
  | .recovering => 4

def execStateCode : ExecState → Nat
  | .idle => 0
  | .travel => 1
  | .spinup => 2
  | .plunge => 3
  | .cut => 4
  | .swivel => 5
  | .retract _ => 6
  | .rotate => 7
  | .trim => 8
  | .dwell => 9
  | .standoff _ => 10
  | .hold _ => 11
  | .stopping => 12
  | .stopped => 13

/-- The retract purpose, 0 outside RETRACT (R178). -/
def purposeCode : ExecState → Nat
  | .retract .leave => 1
  | .retract .lift => 2
  | .retract .standoff => 3
  | .retract .abort => 4
  | .retract .recover => 5
  | .idle | .travel | .spinup | .plunge | .cut | .swivel | .rotate | .trim | .dwell | .standoff _ | .hold _
  | .stopping | .stopped => 0

def streamStateCode : StreamState → Nat
  | .noBlock => 0
  | .inBlock => 1
  | .inContour => 2

def faultCode : FaultCode → Nat
  | .program => 1
  | .intakeOverrun => 2
  | .linkCrc => 3
  | .driveLink => 4
  | .drive => 5
  | .lockTimeout => 6
  | .trimTimeout => 7
  | .bladeJam => 8
  | .stop => 9

/-- A fault code, or 0 for no cause. -/
def causeCode : Option FaultCode → Nat
  | none => 0
  | some c => faultCode c

def reasonCode : Reason → Nat
  | .notConfigured => 1
  | .state => 2
  | .range => 3
  | .sequence => 4
  | .limit => 5
  | .noTable => 6
  | .loadOpen => 7
  | .noLoad => 8
  | .loadFailed => 9
  | .count => 10
  | .crc => 11
  | .inconsistent => 12
  | .blockOpen => 13
  | .stopped => 14

def resultCode : Result → Nat
  | .accepted => 0
  | .refused _ => 1
  | .unknown => 2

/-- The reason byte of a response, 0 unless REFUSED (Table 12.4). -/
def resultReason : Result → Nat
  | .refused r => reasonCode r
  | .accepted => 0
  | .unknown => 0

def linkReasonCode : Option LinkReason → Nat
  | none => 0
  | some .badPacket => 1
  | some .responseFull => 2

/-- Table ids: DENSITY 1, ZONE 2, BLADE 3. -/
def tableDensity : Byte := 1
def tableZone : Byte := 2
def tableBlade : Byte := 3

/-- QUERY items. -/
def itemStatus : Byte := 1
def itemPosition : Byte := 2
def itemTable : Byte := 3
def itemSetup : Byte := 4

/-- Failure reason, entry index and field number of a failed load, as the close answers them (R41, Table 12.4). -/
def failureBytes : LoadFailure → List Byte
  | .badIndex i => u8 1 ++ u8 i ++ u8 0
  | .badField i f => u8 2 ++ u8 i ++ u8 f

/-- The status flag of R169: reached from HOLD in STANDOFF, or entered from STANDOFF in HOLD. -/
def heldFlag : ExecState → Bool
  | .standoff fromHold => fromHold
  | .hold fromStandoff => fromStandoff
  | .idle | .travel | .spinup | .plunge | .cut | .swivel | .retract _ | .rotate | .trim | .dwell
  | .stopping | .stopped => false

/-- The status flags byte of QUERY STATUS (R169, Table 12.4): abort stop 1, table waiting 2, the hold flag 4, PACE 8,
alarm 16, fault position 32. DESIGN CHOICE (log 38): the bits of weight 64 and 128, which the table does not name, are
sent as 0. -/
def statusFlags (s : State) : Nat :=
  s.part.abortFlag.toNat + 2 * s.tables.waiting.isSome.toNat + 4 * (heldFlag s.executor.state).toNat +
  8 * s.link.pace.toNat + 16 * s.port.held.alarm.toNat + 32 * s.part.record.position.isSome.toNat

end Sys2Proof.Machine
end

