-- ==== Sys2Proof/Machine/Geometry.lean ====
section
/-! DEFINITION. Whole-number geometry: roots, lengths, headings, rotations and per-frame steps. -/

namespace Sys2Proof.Machine

/-- Bits `k − 1` down to 0 of the whole root of `n`, the higher bits being `r`. -/
def isqrtBits : Nat → Nat → Nat → Nat
  | 0, _, r => r
  | k + 1, n, r =>
    if (r + 2 ^ k) * (r + 2 ^ k) ≤ n then isqrtBits k n (r + 2 ^ k) else isqrtBits k n r

/-- The square root of `n`, rounded down. -/
def isqrt (n : Nat) : Nat := isqrtBits (n.log2 / 2 + 1) n 0

/-- The square root of `n`, rounded to the nearest, a half up (R51). -/
def rootNearest (n : Nat) : Nat :=
  if isqrt n * isqrt n + isqrt n < n then isqrt n + 1 else isqrt n

/-- Length of the vector (dx, dy), rounded to the nearest micrometre (R51, R115). -/
def vecLength (dx dy : Int) : Nat := rootNearest (dx.natAbs * dx.natAbs + dy.natAbs * dy.natAbs)

/-- The speed of R74: the largest v with 1000 v² ≤ 1000 u² + 2 A L. -/
def reach (a u len : Nat) : Nat := isqrt ((1000 * u * u + 2 * a * len) / 1000)

/-- A quantity per second as a step per frame: the floor of rate × T / 1000, and at least 1 (spec 00, R109, R113). -/
def perFrame (rate t : Nat) : Nat := max 1 (rate * t / 1000)

/-! ## Heading of a segment (R52)

The direction is formed as a fixed-point number of centidegrees with 96 fractional bits and then rounded. No direction
with whole components up to 4,000,000 lies nearer than 10⁻¹³ cd to a rounding boundary, and the fixed-point error is
below 10⁻²⁰ cd, so the rounding is that of the exact angle (log 9). -/

/-- Fractional bits of a fixed-point number. -/
def fixBits : Nat := 96

/-- 18000 / π with 96 fractional bits. -/
def cdPerRadian : Nat := 453943933064394333596397213281620

/-- `n` further terms of the arctangent series: `odd` is the next divisor, `term` the next odd power, `sq` the square
of the argument, `acc` the sum so far; signs alternate. -/
def atanSeries : Nat → Nat → Nat → Nat → Bool → Nat → Nat
  | 0, _, _, _, _, acc => acc
  | n + 1, odd, term, sq, neg, acc =>
    atanSeries n (odd + 2) (term * sq / 2 ^ fixBits) sq (!neg) (if neg then acc - term / odd else acc + term / odd)

/-- arctan (y / x) in fixed-point centidegrees, for y / x at most 3 / 7. -/
def atanSmall (x y : Nat) : Nat :=
  atanSeries 42 1 (y * 2 ^ fixBits / x) ((y * 2 ^ fixBits / x) * (y * 2 ^ fixBits / x) / 2 ^ fixBits) false 0 *
    cdPerRadian / 2 ^ fixBits

/-- arctan (y / x) in fixed-point centidegrees, for 0 ≤ y ≤ x: directly, or as 4500 cd less the angle from the
diagonal. -/
def atanOctant (x y : Nat) : Nat :=
  if 5 * y ≤ 2 * x then atanSmall x y else 4500 * 2 ^ fixBits - atanSmall (x + y) (x - y)

/-- Direction of (x, y) in the first quadrant, in fixed-point centidegrees. -/
def atanQuadrant (x y : Nat) : Nat :=
  if y ≤ x then atanOctant x y else 9000 * 2 ^ fixBits - atanOctant y x

/-- Direction of (dx, dy), counter-clockwise from +X, in fixed-point centidegrees. -/
def direction (dx dy : Int) : Nat :=
  if 0 < dx ∧ 0 ≤ dy then atanQuadrant dx.toNat dy.toNat
  else if dx ≤ 0 ∧ 0 < dy then 9000 * 2 ^ fixBits + atanQuadrant dy.toNat (-dx).toNat
  else if dx < 0 then 18000 * 2 ^ fixBits + atanQuadrant (-dx).toNat (-dy).toNat
  else 27000 * 2 ^ fixBits + atanQuadrant (-dy).toNat dx.toNat

/-- Heading of the segment (dx, dy): the direction rounded to the nearest centidegree, 36000 taken as 0 (R52). -/
def headingOf (dx dy : Int) : Nat :=
  (direction dx dy + 2 ^ (fixBits - 1)) / 2 ^ fixBits % Config.turn

/-! ## Rotations (R54, R113) -/

/-- The raw change d from `h1` to `h2`, in 0..35999. -/
def rawChange (h1 h2 : Nat) : Nat := (h2 + (Config.turn - h1 % Config.turn)) % Config.turn

/-- The signed rotation of R54: the shorter way, an exact half turn counter-clockwise. -/
def rotationOf (h1 h2 : Nat) : Int :=
  if rawChange h1 h2 ≤ Config.halfTurn then (rawChange h1 h2 : Int)
  else -((Config.turn - rawChange h1 h2 : Nat) : Int)

/-- The heading change Δ of R54. -/
def headingChange (h1 h2 : Nat) : Nat := min (rawChange h1 h2) (Config.turn - rawChange h1 h2)

/-- A heading turned by a signed amount, kept in 0..35999. -/
def turnBy (h : Nat) (r : Int) : Nat := (((h : Int) + r) % (Config.turn : Int)).toNat

/-- One frame's part of the signed turn still to be made (R113): a step toward 0, or all of it. -/
def turnPart (left : Int) (step : Nat) : Int :=
  if left.natAbs ≤ step then left else if 0 < left then (step : Int) else -(step : Int)

/-- One frame of a vertical move (R113): a step toward the target, or to it. -/
def zStep (z target step : Nat) : Nat :=
  if z ≤ target then (if target - z ≤ step then target else z + step)
  else (if z - target ≤ step then target else z - step)

/-- `n / d` rounded to the nearest, a half up, for d above 0 (spec 00). -/
def divNearest (n : Int) (d : Nat) : Int := (2 * n + d) / (2 * d : Int)

/-- The coordinate at distance `dist` of `len` from `a` to `b` (R111). -/
def along (a b : Int) (dist len : Nat) : Int := if len = 0 then b else a + divNearest ((b - a) * dist) len

end Sys2Proof.Machine
end

