-- ==== Sys2Proof/Machine/Ops.lean ====
section
/-! DEFINITION. The named operations every command is built from: updates of one block, responses, events, actions, and
taking a fault. -/

namespace Sys2Proof.Machine

/-! ## One block at a time -/

def State.setLink (s : State) (x : LinkReceiver) : State := { s with link := x }
def State.setTables (s : State) (x : TableStore) : State := { s with tables := x }
def State.setPlanner (s : State) (x : Planner) : State := { s with planner := x }
def State.setExecutor (s : State) (x : Executor) : State := { s with executor := x }
def State.setKeptFreq (s : State) (x : Nat) : State := { s with keptFreq := x }
def State.setGovernor (s : State) (x : Governor) : State := { s with governor := x }
def State.setPort (s : State) (x : Port) : State := { s with port := x }
def State.setPart (s : State) (x : Part) : State := { s with part := x }
def State.setReport (s : State) (x : Report) : State := { s with report := x }
def State.setPending (s : State) (x : List Instr) : State := { s with pending := x }

/-- The part state becomes `p`. -/
def State.setPartState (s : State) (p : PartState) : State := s.setPart { s.part with state := p }

/-- While the RESET input holds the part in reset it takes nothing and sends nothing: only STOP's level and the RESET
input itself are followed (R158, log 24). -/
def unlessReset (s : State) (f : State → State) : State := if s.part.inReset then s else f s

/-! ## Events (R175, R176) -/

def raiseFaultEvent (code : FaultCode) (tag : Tag) (s : State) : State :=
  s.setReport { s.report with
    events := { s.report.events with fault := true, faultCode := some code, faultTag := tag } }

def raiseBlockDone (blockTag : Tag) (s : State) : State :=
  s.setReport { s.report with events := { s.report.events with blockDone := true, blockDoneTag := blockTag } }

def raiseStandoff (tag : Tag) (x y : Int) (s : State) : State :=
  s.setReport { s.report with
    events := { s.report.events with standoff := true, standoffTag := tag, standoffX := x, standoffY := y } }

def raiseTrimForced (tag : Tag) (s : State) : State :=
  s.setReport { s.report with events := { s.report.events with trimForced := true, trimForcedTag := tag } }

def raiseGovernor (value : Nat) (s : State) : State :=
  s.setReport { s.report with events := { s.report.events with governor := true, governorValue := value } }

def raiseLink (reason : LinkReason) (s : State) : State :=
  s.setReport { s.report with events := { s.report.events with link := true, linkReason := some reason } }

/-- A MARK action's tag joins the mark report queue, or is dropped and sets the lost flag (R176). -/
def reportMark (tag : Tag) (s : State) : State :=
  if s.report.marks.length < Config.markCap then s.setReport { s.report with marks := s.report.marks ++ [tag] }
  else s.setReport { s.report with lost := true }

/-! ## Responses (R172 to R174) -/

/-- A response joins the tail of the response queue; with the queue full it is lost and LINK is raised (R174). -/
def postResponse (r : Response) (s : State) : State :=
  if s.report.responses.length < Config.responseCap then
    s.setReport { s.report with responses := s.report.responses ++ [.held r] }
  else raiseLink .responseFull s

/-- The reserved place takes the response it was reserved for (R173). -/
def fillPlace (r : Response) : List Place → List Place
  | [] => []
  | .reserved :: rest => .held r :: rest
  | p :: rest => p :: fillPlace r rest

/-- What an owner answers an immediate packet (R168). -/
inductive Reply where
  | accepted (data : List Byte)
  | refused (reason : Reason) (data : List Byte)
  deriving DecidableEq, Repr

/-- The response that carries a reply. -/
def Reply.response (kind : Byte) (tag : Tag) : Reply → Response
  | .accepted data => ⟨kind, tag, .accepted, data⟩
  | .refused reason data => ⟨kind, tag, .refused reason, data⟩

/-- A place is reserved at the tail (R173). -/
def reservePlace (s : State) : State :=
  s.setReport { s.report with responses := s.report.responses ++ [.reserved] }

/-- The owner hands over its response, which fills the reserved place. -/
def answer (r : Response) (s : State) : State :=
  s.setReport { s.report with responses := fillPlace r s.report.responses }

/-- An immediate packet that has passed the checks of R160 (R163): refused NOT-CONFIGURED by the Link Receiver,
discarded for want of a response place (R174), or handed to its owner, whose response fills the place reserved. -/
def handImmediate (kind : Byte) (tag : Tag) (owner : State → State × Reply) (s : State) : State :=
  if s.part.state = .unconfigured ∧ isSetupQueryMask kind = false then
    postResponse ⟨kind, tag, .refused .notConfigured, []⟩ s
  else if s.report.responses.length < Config.responseCap then
    answer ((owner (reservePlace s)).2.response kind tag) (owner (reservePlace s)).1
  else raiseLink .responseFull s

/-! ## Actions (R17, R140) -/

/-- The lines selected by the mask take the values given for them; the others keep their states. -/
def switchLines (lines mask values : Lines) : Lines := (lines &&& ~~~mask) ||| (values &&& mask)

/-- The Executor performs an action. -/
def performAction (s : State) : Action → State
  | .mark tag => reportMark tag s
  | .aux _ mask values => s.setPort { s.port with lines := switchLines s.port.lines mask values }

/-- A record's actions, in list order. -/
def performActions (s : State) (as : List Action) : State := as.foldl performAction s

/-! ## Reading the Executor -/

/-- The executing block is a dry-run block. -/
def Executor.dry (e : Executor) : Bool :=
  match e.block with
  | some b => b.dry
  | none => false

/-- In material: Z below the executing block's top, in a block that is not a dry-run block (spec 00, R92). -/
def Executor.inMaterial (e : Executor) : Bool :=
  match e.position, e.block with
  | some p, some b => !b.dry && decide (p.z < b.top)
  | _, _ => false

/-- The Executor's speed: that of its current record. -/
def Executor.speed (e : Executor) : Nat :=
  match e.current with
  | some c => c.speed
  | none => 0

/-- A record along which the blade moves in X and Y. -/
def Body.isPath : Body → Bool
  | .travel _ _ _ => true
  | .cut _ => true
  | .blockStart _ _ _ _ => false
  | .enter _ _ _ _ => false
  | .pivot _ => false
  | .leave _ _ => false
  | .actions => false
  | .blockDone _ => false

/-- XY motion is in progress: a TRAVEL or CUT under way at a speed above 0 (R130). -/
def Executor.moving (e : Executor) : Bool :=
  match e.state, e.current with
  | .travel, some c => c.record.body.isPath && !c.complete && decide (0 < c.speed)
  | .cut, some c => c.record.body.isPath && !c.complete && decide (0 < c.speed)
  | .stopping, some c => c.record.body.isPath && !c.complete && decide (0 < c.speed)
  | _, _ => false

/-- The current record is absent or complete. -/
def Executor.free (e : Executor) : Bool :=
  match e.current with
  | some c => c.complete
  | none => true

/-- Whether the Executor has come to rest under a halt request or an abort stop (R126, R129): at once in IDLE, DWELL,
STANDOFF and HOLD; in TRAVEL and CUT at the record's end or, with XY motion still to make, at speed 0; elsewhere, and
in a TRAVEL with only its turn left (log 32), when the current record, or the re-entry in progress, has run to
completion. A retract with purpose STANDOFF, ABORT or RECOVER has an end of its own. -/
def Executor.atRest (e : Executor) : Bool :=
  match e.state with
  | .idle | .dwell | .standoff _ | .hold _ => true
  | .travel | .cut =>
    match e.current with
    | some c => c.complete || (c.record.body.isPath && decide (c.speed = 0) && decide (c.dist < c.len))
    | none => true
  | .plunge => if e.reentering then e.stepDone else e.free
  | .spinup => false
  | .retract .leave | .retract .lift | .rotate | .swivel | .trim => e.free
  | .retract .standoff | .retract .abort | .retract .recover | .stopping | .stopped => false

/-- The current record once work has stopped: one that is complete is current no longer; one part done stays, at
speed 0. -/
def Executor.restedCurrent (e : Executor) : Option Current :=
  match e.current with
  | some c => if c.complete then none else some { c with speed := 0 }
  | none => none

/-! ## Timers (R108) -/

/-- The blade table the readers of Table 2.4 read; its absence is ruled out whenever one of them reads (R31, R33), and
all zeros then stand for it (log 19). -/
def State.blade (s : State) : BladeEntry := s.tables.blade.getD (bladeOf [])

/-- A timer started now. -/
def Timer.start (timeout : Nat) : Timer := .running 0 timeout

/-- Running, with an elapsed time of at least its timeout. -/
def Timer.expired : Timer → Bool
  | .stopped => false
  | .running elapsed timeout => decide (timeout ≤ elapsed)

/-- The end of a frame of T milliseconds. -/
def Timer.tick (t : Nat) : Timer → Timer
  | .stopped => .stopped
  | .running elapsed timeout => .running (elapsed + t) timeout

/-! ## Taking a fault (R148 to R150) -/

/-- The Executor's part of a first cause (R130, R150): every move, turn and wait stops; along a path the deceleration
begins, and without XY motion, or without a position, the Executor is STOPPED at once. The timers stop even where one
of them has expired at the end of this frame and its fault is not yet taken: with another fault taken first, that
expiry is then counted nowhere; the spec leaves this open between R108, R130 and R148 (DEDUCED, log 34). -/
def Executor.faultStop (e : Executor) : Executor :=
  { e with
    state := if e.moving ∧ e.position.isSome = true then .stopping else .stopped
    lockTimer := .stopped
    trimTimer := .stopped
    dwellTimer := .stopped
    haltRequest := false
    reentry := none
    zMove := none
    stepDone := false
    reentering := false
    standoffPending := false
    beganInHold := false }

/-- A first cause is taken (R149, R150): fault record, FAULT event, masked lines off, trim request withdrawn, the fault
stop, the abort flag cleared. The Stroke Unit's kept frequency stays as it is (R93). -/
def enterFault (code : FaultCode) (s : State) : State :=
  raiseFaultEvent code s.executor.currentTag
    { s with
      part := { s.part with
        state := .fault
        record := { cause := some code, tag := s.executor.currentTag, position := s.executor.position, further := 0 }
        abortFlag := false }
      port := { s.port with lines := s.port.lines &&& ~~~s.port.dropMask, trimRequest := false }
      executor := s.executor.faultStop }

/-- A further fault adds one to the count, which stays at 255 (R149). -/
def furtherFault (s : State) : State :=
  s.setPart { s.part with record := { s.part.record with further := min 255 (s.part.record.further + 1) } }

/-- A fault is handed to the Part Controller (R148). In UNCONFIGURED none can arise, and nothing is done. -/
def raiseFault (code : FaultCode) (s : State) : State :=
  match s.part.state with
  | .unconfigured => s
  | .fault => furtherFault s
  | .parked | .running | .recovering => enterFault code s

/-! ## Intake fill and PACE (R164, R166) -/

/-- PACE after a taking, or the emptying of the queue, has brought the fill to `n`. -/
def paceDown (s : State) (n : Nat) : Bool :=
  match s.part.setup with
  | some r => s.link.pace && decide (r.paceLow < n)
  | none => s.link.pace

/-- PACE after an arrival has brought the fill to `n`. -/
def paceUp (s : State) (n : Nat) : Bool :=
  match s.part.setup with
  | some r => s.link.pace || decide (n = r.paceHigh)
  | none => s.link.pace

/-- The intake queue is emptied, and PACE follows its fill. -/
def emptyIntake (s : State) : State := s.setLink { s.link with intake := [], pace := paceDown s 0 }

/-- The head packet leaves the intake queue, and PACE follows its fill. -/
def takeIntake (rest : List Packet) (s : State) : State :=
  s.setLink { s.link with intake := rest, pace := paceDown s rest.length }

/-! ## Overrides (R97) -/

/-- The effective override: the lesser of the two, formed from them as they stand. -/
def Governor.effective (g : Governor) : Nat := min g.operator g.override

/-- The Load Governor at the execution of a BLOCK-START (R98). -/
def Governor.blockStart (g : Governor) : Governor := { g with override := 100, evalCount := 0, jamCount := 0 }

end Sys2Proof.Machine
end

