-- ==== Sys2Proof/Machine/Tables.lean ====
section
/-! DEFINITION. The Table Store: entries and their validity, staging, table CRCs, the consistency law, and the governing
class (R20 to R50). -/

namespace Sys2Proof.Machine

/-! ## Sets of entries keyed by index, in strictly ascending order -/

/-- The entry under an index. -/
def lookupKey {α : Type} (k : Nat) : List (Nat × α) → Option α
  | [] => none
  | (j, v) :: rest => if j = k then some v else lookupKey k rest

/-- The entry is put under its index; one already there is replaced whole (R39). -/
def insertKey {α : Type} (k : Nat) (v : α) : List (Nat × α) → List (Nat × α)
  | [] => [(k, v)]
  | (j, w) :: rest =>
    if k < j then (k, v) :: (j, w) :: rest
    else if k = j then (k, v) :: rest
    else (j, w) :: insertKey k v rest

/-- The indexes stand in strictly ascending order. -/
def keysAscend {α : Type} : List (Nat × α) → Bool
  | [] => true
  | [_] => true
  | (i, _) :: (j, w) :: rest => decide (i < j) && keysAscend ((j, w) :: rest)

/-! ## Table CRC (R49) -/

def densityImages (es : List (Nat × DensityEntry)) : List Byte := es.flatMap fun e => densityImage e.1 e.2
def zoneImages (es : List (Nat × ZoneEntry)) : List Byte := es.flatMap fun e => zoneImage e.1 e.2
def bladeImages (es : List (Nat × BladeEntry)) : List Byte := es.flatMap fun e => bladeImage e.1 e.2

/-- The active blade table as a set of entries: entry 0, or none. -/
def bladeEntries (b : Option BladeEntry) : List (Nat × BladeEntry) :=
  match b with
  | some e => [(0, e)]
  | none => []

/-- Number of distinct indexes staged. -/
def Staged.count : Staged → Nat
  | .density es => es.length
  | .zone es => es.length
  | .blade es => es.length

/-- Table CRC of the staged entries. -/
def Staged.crc : Staged → BitVec 16
  | .density es => Machine.crc (densityImages es)
  | .zone es => Machine.crc (zoneImages es)
  | .blade es => Machine.crc (bladeImages es)

/-! ## Judging an entry (R21, R23, R30, R38) -/

/-- The fields of an entry payload (the bytes after its index) are all read, in number order, and then checked in turn
(R38, log 11). -/
def judgeFields {α : Type} (index : Nat) (widths : List Nat) (build : List Nat → α) (checks : α → List Bool)
    (payload : List Byte) : Except LoadFailure α :=
  match readFields widths 1 payload with
  | .error no => .error (.badField index no)
  | .ok vs =>
    match firstFailing 1 (checks (build vs)) with
    | some no => .error (.badField index no)
    | none => .ok (build vs)

/-- A density entry: index, then fields (R21). -/
def judgeDensity (index : Nat) (payload : List Byte) : Except LoadFailure DensityEntry :=
  if 15 < index then .error (.badIndex index)
  else judgeFields index densityWidths densityOf densityChecks payload

/-- A zone entry: index, then fields (R23). -/
def judgeZone (index : Nat) (payload : List Byte) : Except LoadFailure ZoneEntry :=
  if 16 < index then .error (.badIndex index)
  else judgeFields index (if index = 0 then [1] else rectWidths) (zoneOf index) zoneChecks payload

/-- A blade entry: index, then fields (R30). -/
def judgeBlade (index : Nat) (payload : List Byte) : Except LoadFailure BladeEntry :=
  if 0 < index then .error (.badIndex index)
  else judgeFields index bladeWidths bladeOf bladeChecks payload

/-- The entry, valid or not, joins the load that is open and not failed (R38, R39). -/
def stageEntry (staged : Staged) (index : Nat) (payload : List Byte) : Load :=
  match staged with
  | .density es =>
    match judgeDensity index payload with
    | .ok e => { staged := .density (insertKey index e es), failure := none }
    | .error f => { staged := .density es, failure := some f }
  | .zone es =>
    match judgeZone index payload with
    | .ok e => { staged := .zone (insertKey index e es), failure := none }
    | .error f => { staged := .zone es, failure := some f }
  | .blade es =>
    match judgeBlade index payload with
    | .ok e => { staged := .blade (insertKey index e es), failure := none }
    | .error f => { staged := .blade es, failure := some f }

/-! ## The law of R32 -/

/-- Entry 0 of a zone table, the default class, makes the table present (R24). -/
def zonePresent (zone : List (Nat × ZoneEntry)) : Bool :=
  zone.any fun e => match e.2 with
    | .dflt _ => true
    | .rect _ _ _ _ _ => false

/-- The class a zone entry names. -/
def ZoneEntry.cls : ZoneEntry → Nat
  | .dflt c => c
  | .rect _ _ _ _ c => c

/-- Every class the zone entries name is present in the density table. -/
def classesPresent (zone : List (Nat × ZoneEntry)) (density : List (Nat × DensityEntry)) : Bool :=
  zone.all fun e => (lookupKey e.2.cls density).isSome

/-- Whether the staged entries keep the law, judged against the active table of the other kind (R32). -/
def keepsLaw (staged : Staged) (t : TableStore) : Bool :=
  match staged with
  | .density es => classesPresent t.zone es
  | .zone es => es.isEmpty || (zonePresent es && classesPresent es t.density)
  | .blade _ => true

/-! ## Governing class (R25 to R27) -/

/-- A box in block coordinates. -/
structure Box where
  xLo : Int
  yLo : Int
  xHi : Int
  yHi : Int
  deriving DecidableEq, Repr

/-- Bounding box of a segment (R25). -/
def boxOf (x0 y0 x1 y1 : Int) : Box := ⟨min x0 x1, min y0 y1, max x0 x1, max y0 y1⟩

/-- A rectangle meets the box; touching edges count. -/
def ZoneEntry.meets (b : Box) : ZoneEntry → Bool
  | .dflt _ => false
  | .rect xLo yLo xHi yHi _ => decide (xLo ≤ b.xHi ∧ b.xLo ≤ xHi ∧ yLo ≤ b.yHi ∧ b.yLo ≤ yHi)

/-- A rectangle contains the box. -/
def ZoneEntry.contains (b : Box) : ZoneEntry → Bool
  | .dflt _ => false
  | .rect xLo yLo xHi yHi _ => decide (xLo ≤ b.xLo ∧ b.xHi ≤ xHi ∧ yLo ≤ b.yLo ∧ b.yHi ≤ yHi)

/-- A zone entry names its class as a candidate: a rectangle that meets the box, or the default class unless one
rectangle contains the box on its own (R25). -/
def candidate (zone : List (Nat × ZoneEntry)) (b : Box) : ZoneEntry → Bool
  | .dflt _ => !(zone.any fun e => e.2.contains b)
  | .rect xLo yLo xHi yHi cls => (ZoneEntry.rect xLo yLo xHi yHi cls).meets b

/-- The candidate classes of a box (R25). -/
def candidates (zone : List (Nat × ZoneEntry)) (b : Box) : List Nat :=
  (zone.filter fun e => candidate zone b e.2).map fun e => e.2.cls

/-- The snapshot of a class as the density table holds it (R29). -/
def snapshotOf (density : List (Nat × DensityEntry)) (cls : Nat) : Option Snapshot :=
  match lookupKey cls density with
  | some e => some ⟨cls, e.feedCap, e.pitchTarget, e.pitchMax, e.plunge, e.ceiling⟩
  | none => none

/-- Of two candidates, the one that governs: lower feed cap, then lower class index (R26). -/
def governs (a b : Snapshot) : Snapshot :=
  if a.feedCap < b.feedCap ∨ (a.feedCap = b.feedCap ∧ a.cls ≤ b.cls) then a else b

/-- The governing one of a list of candidates; none when the list is empty or a class has no density entry. -/
def governingOf (density : List (Nat × DensityEntry)) : List Nat → Option Snapshot
  | [] => none
  | [c] => snapshotOf density c
  | c :: cs =>
    match snapshotOf density c, governingOf density cs with
    | some a, some b => some (governs a b)
    | _, _ => none

/-- The governing class of a box in block coordinates (R25 to R28). -/
def governingClass (t : TableStore) (b : Box) : Option Snapshot := governingOf t.density (candidates t.zone b)

/-! ## Commit of the waiting blade table (R44) -/

/-- The conditions of R44: a table waits, window and execution queue are empty, the Executor is IDLE. -/
def bladeCommits (s : State) : Bool :=
  s.tables.waiting.isSome && s.planner.window.isEmpty && s.executor.queue.isEmpty &&
  decide (s.executor.state = .idle)

/-- The waiting blade table commits, if the conditions hold, and its close is answered ACCEPTED (R44). -/
def commitBlade (s : State) : State :=
  match s.tables.waiting with
  | none => s
  | some w =>
    if bladeCommits s then
      postResponse ⟨kindTableClose, w.tag, .accepted, []⟩
        (s.setTables { s.tables with blade := w.entry, waiting := none })
    else s

/-- An open load is abandoned (R47). -/
def abandonLoad (s : State) : State := s.setTables { s.tables with load := none }

end Sys2Proof.Machine
end

