-- ==== Sys2Proof/Machine/Planner.lean ====
section
/-! DEFINITION. The Planner's window: appending, planning the run, release, ACTIONS records made for want of a packet,
and the conditions for taking one (Chapter 5; R7, R17 to R19, R145). -/

namespace Sys2Proof.Machine

/-- Planned acceleration A of the setup record. -/
def State.accel (s : State) : Nat :=
  match s.part.setup with
  | some r => r.accel
  | none => 0

/-! ## Records in the window -/

/-- A TRAVEL or ENTER whose heading is absent is never released (R78). -/
def Body.headless : Body → Bool
  | .travel _ _ none => true
  | .enter _ _ none _ => true
  | .travel _ _ (some _) => false
  | .enter _ _ (some _) _ => false
  | .blockStart _ _ _ _ => false
  | .cut _ => false
  | .pivot _ => false
  | .leave _ _ => false
  | .actions => false
  | .blockDone _ => false

/-- A PIVOT or LEAVE is a stop (R75, R80). -/
def Body.isStop : Body → Bool
  | .pivot _ => true
  | .leave _ _ => true
  | .blockStart _ _ _ _ => false
  | .travel _ _ _ => false
  | .enter _ _ _ _ => false
  | .cut _ => false
  | .actions => false
  | .blockDone _ => false

/-- The CUT record of a body. -/
def Body.cut? : Body → Option CutRecord
  | .cut c => some c
  | .blockStart _ _ _ _ => none
  | .travel _ _ _ => none
  | .enter _ _ _ _ => none
  | .pivot _ => none
  | .leave _ _ => none
  | .actions => none
  | .blockDone _ => none

/-- The TRAVEL or ENTER of a window entry takes its heading, if it has none (R11, R13). -/
def WindowEntry.fill (h : Nat) (w : WindowEntry) : WindowEntry :=
  match w.record.body with
  | .travel x y none => { w with record := { w.record with body := .travel x y (some h) }, ofOpenContour := false }
  | .enter x y none p => { w with record := { w.record with body := .enter x y (some h) p }, ofOpenContour := false }
  | _ => w

/-- The open contour's TRAVEL and ENTER take the heading of its first CUT, or of a stab (R11, R13). -/
def fillContour (h : Nat) (window : List WindowEntry) : List WindowEntry :=
  window.map fun w => if w.ofOpenContour then w.fill h else w

/-- The TRAVEL and ENTER of stabs closed before the adoption take the adopted heading (R13, R106). -/
def fillStabs (h : Nat) (window : List WindowEntry) : List WindowEntry :=
  window.map fun w => if w.ofOpenContour then w else w.fill h

/-- The last CUT record in a list of window entries. -/
def lastCut : List WindowEntry → Option CutRecord
  | [] => none
  | w :: rest =>
    match lastCut rest with
    | some c => some c
    | none => w.record.body.cut?

/-! ## Planning the run (R71 to R74) -/

/-- How many records at the head of the window are due for release (R69). -/
def Planner.dueCount (p : Planner) : Nat :=
  match p.releasePoint with
  | some i => i + 1
  | none => 0

/-- The backward pass (R72). The second result bounds the exit of the CUT before: the lesser of the junction speed and
the entry of the first CUT of the list; none when there is none. -/
def planBackward (a : Nat) : List WindowEntry → List WindowEntry × Option Nat
  | [] => ([], none)
  | w :: rest =>
    match w.record.body with
    | .cut c =>
      let exit := (planBackward a rest).2.getD 0
      let entry := min c.cap (min w.junction (reach a exit c.len))
      ({ w with record := { w.record with body := .cut { c with entry := entry, exit := exit } } } ::
        (planBackward a rest).1, some (min w.junction entry))
    | _ => (w :: (planBackward a rest).1, (planBackward a rest).2)

/-- The forward pass (R73): `b` bounds the entry of the first CUT of the list. -/
def planForward (a : Nat) : Nat → List WindowEntry → List WindowEntry
  | _, [] => []
  | b, w :: rest =>
    match w.record.body with
    | .cut c =>
      let entry := min c.entry b
      let exit := min c.exit (reach a entry c.len)
      { w with record := { w.record with body := .cut { c with entry := entry, exit := exit } } } ::
        planForward a exit rest
    | _ => w :: planForward a b rest

/-- The run is replanned (R71): the records that are not due, backward and then forward. -/
def Planner.replan (a : Nat) (p : Planner) : Planner :=
  { p with
    window := p.window.take p.dueCount ++
      planForward a p.boundary (planBackward a (p.window.drop p.dueCount)).1 }

/-! ## Appending (R7, R69, R70, R80) -/

/-- The CUT of the memory has been released or has become due: the memory is fixed, with its exit (R70). -/
def Planner.fixMemory (p : Planner) : Planner :=
  match p.memory with
  | .inWindow h cap =>
    match lastCut p.window with
    | some c => { p with memory := .fixed h cap c.exit }
    | none => p
  | .none => p
  | .contourStart => p
  | .fixed _ _ _ => p

/-- The boundary speed of a run that begins with the next CUT (R71). -/
def PrevCut.boundary : PrevCut → Nat
  | .fixed _ _ exit => exit
  | .none => 0
  | .contourStart => 0
  | .inWindow _ _ => 0

/-- A record joins the tail of the window. A PIVOT or LEAVE sets the release point to itself and fixes the memory; in a
blade-table stall every record is due as it is appended; a CUT becomes the memory's and the run is replanned. -/
def Planner.append (a : Nat) (stalled : Bool) (w : WindowEntry) (p : Planner) : Planner :=
  match w.record.body with
  | .cut c =>
    Planner.replan a
      { p with
        window := p.window ++ [w]
        memory := .inWindow c.heading c.cap
        boundary := if (lastCut (p.window.drop p.dueCount)).isNone then p.memory.boundary else p.boundary }
  | _ =>
    if w.record.body.isStop ∨ stalled = true then
      { p.fixMemory with window := p.window ++ [w], releasePoint := some p.window.length }
    else { p with window := p.window ++ [w] }

/-! ## Release (R78 to R83) -/

/-- The Planner works: PARKED or RUNNING, with no abort stop in progress (R86, R144). -/
def plannerWorks (s : State) : Bool :=
  (decide (s.part.state = .parked) || decide (s.part.state = .running)) && !s.part.abortFlag

/-- The head of the window can be released at once (R78). -/
def headReleasable (s : State) : Bool :=
  match s.planner.window with
  | w :: _ => decide (s.executor.queue.length < Config.queueCap) && !w.record.body.headless
  | [] => false

/-- A release rule calls for the head of the window: due (R80), full window (R79) or starvation (R81). -/
def releaseCalled (s : State) : Bool :=
  s.planner.releasePoint.isSome || decide (Config.windowCap ≤ s.planner.window.length) ||
  (s.link.intake.isEmpty && decide (s.executor.queue.length < 2))

/-- The Planner after its head record `w`, with `rest` behind it, has been released (R70, R71, R78). -/
def Planner.release (w : WindowEntry) (rest : List WindowEntry) (p : Planner) : Planner :=
  { p with
    window := rest
    releasePoint := match p.releasePoint with
      | some (i + 1) => some i
      | some 0 => none
      | none => none
    memory := match w.record.body.cut?, p.memory, lastCut rest with
      | some c, .inWindow h cap, none => .fixed h cap c.exit
      | _, m, _ => m
    boundary := match w.record.body.cut?, p.releasePoint with
      | some c, none => c.exit
      | _, _ => p.boundary }

/-- The head of the window moves to the tail of the execution queue; in DWELL the dwell timer stops (R78, R124). -/
def releaseHead (s : State) : State :=
  match s.planner.window with
  | [] => s
  | w :: rest =>
    (s.setPlanner (s.planner.release w rest)).setExecutor
      { s.executor with
        queue := s.executor.queue ++ [w.record]
        dwellTimer := if s.executor.state = .dwell then .stopped else s.executor.dwellTimer }

/-- At most `n` releases, as long as a rule calls for one (R83). -/
def releaseLoop : Nat → State → State
  | 0, s => s
  | n + 1, s =>
    if plannerWorks s && headReleasable s && releaseCalled s then releaseLoop n (releaseHead s) else s

/-- The release rules are applied until none releases a further record (R83). -/
def applyReleases (s : State) : State := releaseLoop s.planner.window.length s

/-- A record appended to an empty window between blocks makes a PARKED part RUNNING (R145). -/
def startsWork (s : State) : State :=
  if s.planner.window.isEmpty ∧ s.planner.stream = .noBlock ∧ s.part.state = .parked then s.setPartState .running
  else s

/-- The record joins the window. -/
def joinWindow (w : WindowEntry) (s : State) : State :=
  s.setPlanner (s.planner.append s.accel s.tables.waiting.isSome w)

/-- A window brought to 24 has the release rules applied at once (R79, R83). -/
def releaseFull (s : State) : State :=
  if Config.windowCap ≤ s.planner.window.length then applyReleases s else s

/-- The Planner appends a record. -/
def appendRecord (w : WindowEntry) (s : State) : State := releaseFull (joinWindow w (startsWork s))

/-- A record of any kind but ACTIONS is made: it takes the whole pending action list (R17). -/
def makeRecord (tag : Tag) (body : Body) (junction : Nat) (ofOpen : Bool) (s : State) : State :=
  appendRecord ⟨⟨tag, s.planner.actions, body⟩, junction, ofOpen⟩ (s.setPlanner { s.planner with actions := [] })

/-! ## ACTIONS records (R18, R19) -/

/-- The tag of an action's packet. -/
def Action.tag : Action → Tag
  | .mark t => t
  | .aux t _ _ => t

/-- The tag of the last action of a list. -/
def lastTag : List Action → Tag
  | [] => 0
  | [a] => a.tag
  | _ :: as => lastTag as

/-- An ACTIONS record is made of all the pending actions. -/
def makeActions (s : State) : State :=
  appendRecord ⟨⟨lastTag s.planner.actions, s.planner.actions, .actions⟩, 0, false⟩
    (s.setPlanner { s.planner with actions := [] })

/-- The three conditions of R19. -/
def actionsDue (s : State) : Bool :=
  plannerWorks s && s.link.intake.isEmpty && !s.planner.actions.isEmpty && s.planner.window.isEmpty

/-- A moment at which the Planner applies its rules: releases, the ACTIONS record of R19, and what that lets go. -/
def plannerMoment (s : State) : State :=
  let s1 := applyReleases s
  if actionsDue s1 then applyReleases (makeActions s1) else s1

/-! ## Taking a packet (R2, R84, R86) -/

/-- The Planner may take a packet: it works, no blade-table stall holds it, and the window has room (R84). -/
def canTake (s : State) : Bool :=
  plannerWorks s && s.tables.waiting.isNone &&
  (decide (s.planner.window.length ≤ 22) || (decide (s.planner.window.length = 23) && headReleasable s))

/-- The packet at the head of the intake queue, of the kind named, is taken: the setup record, the packet, and the
state with the packet gone. None when the Planner may not take it. -/
def takePacket (kind : Byte) (s : State) : Option (Setup × Packet × State) :=
  match s.part.setup, s.link.intake with
  | some r, p :: rest => if canTake s && p.kind == kind then some (r, p, takeIntake rest s) else none
  | _, _ => none

/-- The Planner refuses a stream packet: the response of R2, and inside a contour the PROGRAM fault of R3. -/
def refusePacket (p : Packet) (reason : Reason) (data : List Byte) (s : State) : State :=
  let s1 := postResponse ⟨p.kind, p.tag, .refused reason, data⟩ s
  if s.planner.stream = .inContour then raiseFault .program s1 else s1

/-- The Planner takes the head packet, deals with it whole, and applies its rules (R2, R83). -/
def takeAndDeal (kind : Byte) (deal : Setup → Packet → State → State) (s : State) : State :=
  match takePacket kind s with
  | some (r, p, s1) => plannerMoment (deal r p s1)
  | none => s

end Sys2Proof.Machine
end

