-- ==== Sys2Proof/Machine/Executor.lean ====
section
/-! DEFINITION. The Executor's steps: retracts, spin-up, trim, hold, dwell and standoff, and what starts at the start of
a frame (R107, R113 to R125). -/

namespace Sys2Proof.Machine

/-! ## Vertical moves -/

/-- Setup Z air speed. -/
def State.zAir (s : State) : Nat :=
  match s.part.setup with
  | some r => r.zAirSpeed
  | none => 0

/-- Setup Z cut. -/
def State.zCut (s : State) : Nat :=
  match s.part.setup with
  | some r => r.zCut
  | none => 0

/-- Setup Z max. -/
def State.zMax (s : State) : Nat :=
  match s.part.setup with
  | some r => r.zMax
  | none => 0

/-- Clear Z of the executing block, or the setup Z max when no executing block is known (Table 7.4). -/
def State.clearZ (s : State) : Nat :=
  match s.executor.block with
  | some b => b.clear
  | none => s.zMax

/-- The Z setpoint. -/
def Executor.z (e : Executor) : Nat :=
  match e.position with
  | some p => p.z
  | none => 0

/-- The held plunge speed, or the setup Z air speed when none is held (Table 7.4, R155; log 28). -/
def State.retractSpeed (s : State) : Nat := s.executor.heldPlunge.getD s.zAir

/-- The current record's work is complete: it has no speed left. -/
def Executor.completeCurrent (e : Executor) : Executor :=
  { e with
    current := match e.current with
      | some c => some { c with complete := true, speed := 0 }
      | none => none
    zMove := none
    stepDone := false }

/-- The move of a step is complete, and its record, or the wait it belongs to, is not. -/
def Executor.completeStep (e : Executor) : Executor := { e with zMove := none, stepDone := true }

/-- The move of the step in progress is complete. Whether that completes the record goes by the state and the record:
the last steps are the Z move of a BLOCK-START, the plunge of an ENTER or a LIFT, the turn of a SWIVEL, the rotation of
a LIFT in a dry-run block, and the retract of a LEAVE that makes no trim (R114, R117 to R121). -/
def Executor.finishStep (e : Executor) : Executor :=
  if e.reentering then e.completeStep
  else match e.state with
    | .travel => e.completeCurrent
    | .plunge => e.completeCurrent
    | .swivel => e.completeCurrent
    | .rotate => if e.dry then e.completeCurrent else e.completeStep
    | .retract .leave =>
      match e.current with
      | some c =>
        match c.record.body with
        | .leave _ trim => if trim && !e.dry then e.completeStep else e.completeCurrent
        | _ => e.completeCurrent
      | none => e.completeCurrent
    | .retract .lift => e.completeStep
    | .retract .standoff => e.completeStep
    | .retract .abort => e.completeStep
    | .retract .recover => e.completeStep
    | .idle | .spinup | .cut | .trim | .dwell | .standoff _ | .hold _ | .stopping | .stopped => e

/-- A vertical move begins in state `st`; a move whose target is the Z setpoint is complete at once (R113). -/
def Executor.startZ (e : Executor) (st : ExecState) (target speed : Nat) : Executor :=
  if e.z = target then Executor.finishStep { e with state := st, zMove := none, stepDone := false }
  else { e with state := st, zMove := some ⟨target, speed⟩, stepDone := false }

/-- A retract begins. It never lowers Z (R120). -/
def Executor.startRetract (e : Executor) (purpose : Purpose) (target speed : Nat) : Executor :=
  e.startZ (.retract purpose) (max target e.z) speed

/-- A turn by a signed rotation begins; a rotation of 0 is complete at once (R113). -/
def Executor.startTurn (e : Executor) (st : ExecState) (rotation : Int) : Executor :=
  let e1 := { e with
    state := st
    stepDone := false
    current := match e.current with
      | some c => some { c with turn := rotation }
      | none => none }
  if rotation = 0 then e1.finishStep else e1

/-! ## Spin-up and trim (R116, R122, R125, R135) -/

/-- The oscillator is started and LOCK awaited; the plunge to the Z cut at `plunge` mm/s waits for it. -/
def startSpinup (plunge : Nat) (s : State) : State :=
  s.setExecutor { s.executor with
    state := .spinup
    lockTimer := Timer.start s.blade.lockTimeout
    spinupFrame := none
    zMove := some ⟨s.zCut, plunge⟩
    stepDone := false }

/-- The re-entry after a standoff begins, at the re-entry point (R125). -/
def startReentry (s : State) : State :=
  startSpinup
    (match s.executor.reentry with
      | some r => r.plunge
      | none => s.retractSpeed)
    (s.setExecutor { s.executor with reentering := true })

/-- State TRIM is entered, and the trim request is set. -/
def startTrim (s : State) : State :=
  (s.setPort { s.port with trimRequest := true }).setExecutor
    { s.executor with
      state := .trim
      trimTimer := Timer.start s.blade.trimTimeout
      trimFrame := none
      zMove := none
      stepDone := false }

/-- The plunge of a LIFT back to the Z cut, at the PIVOT's plunge speed, with no new LOCK wait (R119). -/
def startLiftPlunge (s : State) : State :=
  s.setExecutor (s.executor.startZ .plunge s.zCut
    (match s.executor.current with
      | some c =>
        match c.record.body with
        | .pivot p => p.plunge.getD s.retractSpeed
        | _ => s.retractSpeed
      | none => s.retractSpeed))

/-- LOCK is taken in time: the lock timer stops and the plunge begins (R116, R117). -/
def takeLock (s : State) : State :=
  s.setExecutor { s.executor with state := .plunge, lockTimer := .stopped }

/-- Trim-done is taken in time: the trim timer stops, the request is withdrawn, and the TRIM step is complete; a LIFT
goes on to its plunge, a LEAVE is complete (R119, R121, R122). -/
def takeTrimDone (s : State) : State :=
  let s1 := (s.setPort { s.port with trimRequest := false }).setExecutor { s.executor with trimTimer := .stopped }
  match s.executor.current with
  | some c =>
    match c.record.body with
    | .pivot _ => startLiftPlunge s1
    | _ => s1.setExecutor s1.executor.completeCurrent
  | none => s1.setExecutor s1.executor.completeCurrent

/-! ## Standoff, dwell, hold and abort -/

/-- A dwell expiry is taken: the re-entry point is the setpoints and the held plunge speed, and the timer stops
(R124). -/
def takeDwellExpiry (s : State) : State :=
  s.setExecutor { s.executor with
    dwellTimer := .stopped
    reentry := match s.executor.position with
      | some p => some ⟨p.x, p.y, p.heading, s.retractSpeed⟩
      | none => none }

/-- A RETRACT with purpose STANDOFF begins (R124, R127). -/
def beginStandoffRetract (s : State) : State :=
  s.setExecutor (Executor.startRetract
    { s.executor with
      current := s.executor.restedCurrent
      reentering := false
      standoffPending := false
      beganInHold := match s.executor.state with
        | .hold _ => true
        | _ => false }
    .standoff s.clearZ s.retractSpeed)

/-- A RETRACT with purpose ABORT begins (R129). -/
def beginAbortRetract (s : State) : State :=
  s.setExecutor (Executor.startRetract
    { s.executor with current := none, dwellTimer := .stopped, reentering := false, standoffPending := false }
    .abort s.clearZ s.retractSpeed)

/-- The dwell timer, started just now with timeout 0, expires at that moment, and the retract begins at once (R108,
R124). -/
def expireAtStart (s : State) : State :=
  if s.executor.dwellTimer.expired then beginStandoffRetract (takeDwellExpiry s) else s

/-- DWELL is entered, with the dwell timer started afresh (R124, R128). -/
def enterDwell (s : State) : State :=
  expireAtStart (s.setExecutor { s.executor with
    state := .dwell
    current := none
    dwellTimer := Timer.start s.blade.dwellTimeout
    reentering := false
    stepDone := false })

/-- IDLE is entered, with no current record (R124, R129, R155). -/
def Executor.enterIdle (e : Executor) : Executor :=
  { e with
    state := .idle
    current := none
    zMove := none
    stepDone := false
    reentering := false
    standoffPending := false
    beganInHold := false }

/-- With no record to begin, the Executor enters DWELL in material and IDLE out of it (R124). -/
def enterRest (s : State) : State :=
  if s.executor.inMaterial then enterDwell s else s.setExecutor s.executor.enterIdle

/-- HOLD is entered under a halt request (R126, R127). In material the dwell timer runs: the one of the DWELL, or one
started now. The DWELL's timer is kept even where its expiry is due and not yet taken: the expiry is then taken in HOLD,
after the HALT. A dwell expiry already taken begins its retract at once (DEDUCED, both, log 29). -/
def enterHold (s : State) : State :=
  let e := { s.executor with
    state := .hold (match s.executor.state with
      | .standoff _ => true
      | _ => false)
    haltRequest := false
    current := s.executor.restedCurrent
    zMove := none
    stepDone := false
    reentering := false }
  if s.executor.standoffPending then beginStandoffRetract (s.setExecutor e)
  else if s.executor.inMaterial ∧ e.dwellTimer = .stopped then
    expireAtStart (s.setExecutor { e with dwellTimer := Timer.start s.blade.dwellTimeout })
  else s.setExecutor e

/-! ## Part state at the end of work (R145) -/

/-- The part becomes PARKED when the four conditions of R145 hold, outside an abort stop. -/
def judgeParked (s : State) : State :=
  if s.part.state = .running ∧ s.part.abortFlag = false ∧ s.planner.stream = .noBlock ∧
      s.planner.window.isEmpty = true ∧ s.executor.queue.isEmpty = true ∧ s.executor.state = .idle ∧
      s.executor.current = none then
    s.setPartState .parked
  else s

/-! ## Beginning a record (R107) -/

/-- The plunge speed a record carries: a CUT's snapshot's, an ENTER's, a LIFT's (R107). -/
def Body.plunge? : Body → Option Nat
  | .cut c => some c.snap.plunge
  | .enter _ _ _ p => some p
  | .pivot p => p.plunge
  | .blockStart _ _ _ _ => none
  | .travel _ _ _ => none
  | .leave _ _ => none
  | .actions => none
  | .blockDone _ => none

/-- A record just begun as current, at distance `dist` and speed `speed`. -/
def Executor.freshCurrent (e : Executor) (r : Record) (len dist speed : Nat) : Current where
  record := r
  dist := dist
  speed := speed
  len := len
  startX := match e.position with
    | some p => p.x
    | none => 0
  startY := match e.position with
    | some p => p.y
    | none => 0
  turn := 0
  complete := false

/-- The record at the head of the queue leaves it and sets the tag and, if it carries one, the held plunge speed. -/
def Executor.pop (e : Executor) (r : Record) (rest : List Record) : Executor :=
  { e with
    queue := rest
    currentTag := r.tag
    heldPlunge := match r.body.plunge? with
      | some p => some p
      | none => e.heldPlunge }

/-- A record is begun: it is popped, is current from then on, and has its actions performed; and the Planner applies its
rules, since the queue has given room (R83, R107). A re-entry point is absent from then on (R125). -/
def beginRecord (r : Record) (rest : List Record) (s : State) : State :=
  plannerMoment (performActions
    (s.setExecutor { s.executor.pop r rest with
      current := some (s.executor.freshCurrent r 0 0 0)
      reentry := none
      reentering := false
      stepDone := false
      dwellTimer := .stopped })
    r.actions)

/-- Work of a BLOCK-START (R98, R114). One that needs no Z move takes no time, and the frame in which it is the last
record shows TRAVEL all the same; the spec names no state for it (DEDUCED, log 31). -/
def startBlock (top clear : Nat) (dry : Bool) (s : State) : State :=
  let e := { s.executor with block := some ⟨top, clear, dry⟩ }
  let s1 := s.setGovernor s.governor.blockStart
  s1.setExecutor (if dry then e.startZ .travel clear s.zAir else e.startZ .travel (max clear e.z) s.zAir)

/-- Work of a TRAVEL (R115): one with nothing to move or turn takes no time, and the frame in which it is the last
record shows TRAVEL all the same; the spec names no state for it (DEDUCED, log 31). -/
def startTravel (x y : Int) (heading : Option Nat) (s : State) : State :=
  match s.executor.position, s.executor.current with
  | some p, some c =>
    let turn := rotationOf p.heading (heading.getD p.heading)
    let len := vecLength (x - p.x) (y - p.y)
    let e := { s.executor with state := .travel, current := some { c with len := len, turn := turn } }
    s.setExecutor (if len = 0 ∧ turn = 0 then e.completeCurrent else e)
  | _, _ => s

/-- Work of a PIVOT (R66, R118, R119). The LIFT of a dry-run block that turns nothing takes no time; the frame in which it
is the last record shows ROTATE (DEDUCED, log 31). -/
def startPivot (tag : Tag) (p : PivotRecord) (s : State) : State :=
  let s1 := if p.forced then raiseTrimForced tag s else s
  match p.cls with
  | .swivel => s1.setExecutor (s1.executor.startTurn .swivel p.rotation)
  | .lift =>
    if s1.executor.dry then s1.setExecutor (s1.executor.startTurn .rotate p.rotation)
    else s1.setExecutor (s1.executor.startRetract .lift s1.clearZ (p.plunge.getD s1.retractSpeed))

/-- The work of the record just begun starts in the same frame (R107, R114 to R123). A LEAVE that finds nothing to raise
takes no time, and the frame in which it is the last record shows RETRACT all the same; the spec names no state for it
(DEDUCED, log 31). -/
def startWork (r : Record) (s : State) : State :=
  match r.body with
  | .blockStart top clear dry _ => startBlock top clear dry s
  | .travel x y heading => startTravel x y heading s
  | .enter _ _ _ plunge =>
    if s.executor.dry then s.setExecutor s.executor.completeCurrent else startSpinup plunge s
  | .cut c =>
    s.setExecutor { s.executor with
      state := .cut
      current := some (s.executor.freshCurrent r c.len 0 0) }
  | .pivot p => startPivot r.tag p s
  | .leave retract _ => s.setExecutor (s.executor.startRetract .leave s.clearZ retract)
  | .actions => s.setExecutor s.executor.completeCurrent
  | .blockDone blockTag => raiseBlockDone blockTag (s.setExecutor s.executor.completeCurrent)

/-! ## The start of a frame (R107, R124, R125, R129) -/

/-- The next step of the record in progress (R119, R121). -/
def nextStep (s : State) : State :=
  match s.executor.state, s.executor.current with
  | .retract .leave, some _ => startTrim s
  | .retract .lift, some c =>
    match c.record.body with
    | .pivot p => s.setExecutor (s.executor.startTurn .rotate p.rotation)
    | _ => s.setExecutor s.executor.completeCurrent
  | .rotate, some c =>
    match c.record.body with
    | .pivot p => if p.trim && !s.executor.dry then startTrim s else startLiftPlunge s
    | _ => s.setExecutor s.executor.completeCurrent
  | _, _ => s.setExecutor s.executor.completeCurrent

/-- The plunge of a re-entry is complete: a part-done CUT continues, and otherwise the waiting record is to be begun
(R125, R128). The re-entry point is absent as the CUT continues: R125 names only the beginning of a record (DEDUCED,
log 37). -/
def endReentry (s : State) : State :=
  match s.executor.restedCurrent with
  | some c =>
    s.setExecutor { s.executor with
      state := .cut, current := some c, reentry := none, reentering := false, stepDone := false }
  | none => s.setExecutor { s.executor with reentering := false, stepDone := false, current := none }

/-- The record that ends a block's work and never takes time: BLOCK-DONE (R123). -/
def Body.endsWork : Body → Bool
  | .actions => false
  | .blockDone _ => true
  | .blockStart _ _ _ _ => false
  | .travel _ _ _ => false
  | .enter _ _ _ _ => false
  | .cut _ => false
  | .pivot _ => false
  | .leave _ _ => false

/-- With the execution queue empty, the Executor looks for its rest at the start of the frame after the one in which it
completed its record (R124). Out of material, a BLOCK-DONE completed as this frame started lets it enter IDLE in the
frame itself (R123, Table 3.5; DEDUCED, log 31). `first` says that nothing has been started in this frame. -/
def Executor.mayRest (first : Bool) (e : Executor) : Bool :=
  first || (match e.current with
    | some c => c.record.body.endsWork && !e.inMaterial
    | none => false)

/-- The Executor is free: it begins the record at the head of the queue, or re-enters the foam for it, or rests. None
when nothing starts. -/
def startNext (first : Bool) (s : State) : Option State :=
  if s.executor.haltRequest then none
  else if s.executor.standoffPending then some (beginStandoffRetract s)
  else match s.executor.queue, s.executor.state with
    | [], .idle => if s.executor.current.isSome && s.executor.mayRest first then some (enterRest s) else none
    | [], .dwell => if s.executor.current.isSome && s.executor.mayRest first then some (enterRest s) else none
    | [], .standoff _ => none
    | [], _ => if s.executor.mayRest first then some (enterRest s) else none
    | r :: rest, .standoff _ =>
      match r.body with
      | .cut _ => some (startReentry s)
      | .pivot _ => some (startReentry s)
      | .actions =>
        let s1 := beginRecord r rest s
        some (s1.setExecutor { s1.executor with current := none, reentry := s.executor.reentry })
      | _ => some (startWork r (beginRecord r rest s))
    | r :: rest, _ => some (startWork r (beginRecord r rest s))

/-- What an abort stop starts: the retract once the Executor is at rest in material, and before that the remaining
steps of the record it completes (R129). -/
def startAbort (s : State) : Option State :=
  if s.executor.atRest then (if s.executor.inMaterial then some (beginAbortRetract s) else none)
  else if s.executor.stepDone && !s.executor.reentering then some (nextStep s)
  else none

/-- One start at the start of a frame, the first of the frame or a later one; none when what is in progress takes the
frame. -/
def startOnce (first : Bool) (s : State) : Option State :=
  match s.executor.state with
  | .hold _ | .standoff true | .stopping | .stopped => none
  | .retract .standoff | .retract .abort | .retract .recover => none
  | .standoff false =>
    if s.part.abortFlag then startAbort s
    else if s.executor.free then startNext first s
    else if s.executor.haltRequest then none
    else some (startReentry s)
  | .idle | .travel | .spinup | .plunge | .cut | .swivel | .retract .leave | .retract .lift | .rotate | .trim
  | .dwell =>
    if s.part.abortFlag then startAbort s
    else if s.executor.reentering then
      (if s.executor.stepDone && !s.executor.haltRequest then some (endReentry s) else none)
    else if s.executor.stepDone then some (nextStep s)
    else if s.executor.free then startNext first s
    else none

/-- Starts one after another, as long as what started took no time. -/
def startLoop : Nat → Bool → State → State
  | 0, _, s => s
  | n + 1, first, s =>
    match startOnce first s with
    | some s' => startLoop n false s'
    | none => s

/-- More starts than one frame can make: each record held gives at most five, and each record's taking may release or
make another. -/
def startFuel (s : State) : Nat := 5 * (s.executor.queue.length + s.planner.window.length + 3)

/-- The start of a frame. Before the position is adopted the Executor begins no record (R106). -/
def startFrame (s : State) : State :=
  match s.executor.position with
  | some _ => startLoop (startFuel s) true s
  | none => s

end Sys2Proof.Machine
end

