-- ==== Sys2Proof/Machine/Events.lean ====
section
/-! DEFINITION. What a frame leaves due: expiries, evaluations, faults, and the ends of stops and retracts. Each is a
function with its own condition, which does nothing while that does not hold (log 1); the command of the same name
applies it, and FRAME applies all of them before it starts (log 3). -/

namespace Sys2Proof.Machine

/-! ## Drive link and Load Governor -/

/-- A third miss has been counted: DRIVE-LINK is raised (R137). -/
def raiseDriveLink (s : State) : State :=
  if s.port.linkDue then raiseFault .driveLink (s.setPort { s.port with linkDue := false }) else s

/-- The governor override and jam count after an evaluation of `load` against ceiling `c` (Table 6.3). -/
def evaluate (load c override jam : Nat) : Nat × Nat :=
  if c < load then
    if 25 < override then (max 25 (override - 10), 0) else (override, min 8 (jam + 1))
  else if c * 80 / 100 ≤ load then (override, 0)
  else (min 100 (override + 5), 0)

/-- An evaluation that has fallen due is made (R99 to R102). -/
def governorEvaluate (s : State) : State :=
  match s.governor.evalDue with
  | none => s
  | some c =>
    let (override, jam) := evaluate s.port.held.load c s.governor.override s.governor.jamCount
    let s1 := s.setGovernor { s.governor with
      override := override
      jamCount := jam
      evalDue := none
      jamDue := s.governor.jamDue || (jam == 8 && s.governor.jamCount != 8) }
    if 25 < s.governor.override ∧ override = 25 then raiseGovernor override s1 else s1

/-- The jam count has reached 8: BLADE-JAM is raised (R102). -/
def raiseBladeJam (s : State) : State :=
  if s.governor.jamDue then raiseFault .bladeJam (s.setGovernor { s.governor with jamDue := false }) else s

/-! ## Timers -/

/-- The lock timer's expiry is taken: LOCK-TIMEOUT (R116, R125). -/
def takeLockTimeout (s : State) : State :=
  if s.executor.state = .spinup ∧ s.executor.lockTimer.expired = true then
    raiseFault .lockTimeout (s.setExecutor { s.executor with lockTimer := .stopped })
  else s

/-- The trim timer's expiry is taken: TRIM-TIMEOUT (R122). -/
def takeTrimTimeout (s : State) : State :=
  if s.executor.state = .trim ∧ s.executor.trimTimer.expired = true then
    raiseFault .trimTimeout (s.setExecutor { s.executor with trimTimer := .stopped })
  else s

/-- The dwell timer's expiry is taken. In DWELL the retract begins in the next frame; in HOLD it begins at once (R124,
R127; log 12). -/
def takeDwellTimeout (s : State) : State :=
  if s.executor.dwellTimer.expired then
    match s.executor.state with
    | .dwell =>
      let s1 := takeDwellExpiry s
      s1.setExecutor { s1.executor with standoffPending := true }
    | .hold _ => beginStandoffRetract (takeDwellExpiry s)
    | .idle | .travel | .spinup | .plunge | .cut | .swivel | .retract _ | .rotate | .trim | .standoff _ | .stopping
    | .stopped => s
  else s

/-! ## Ends of stops and retracts -/

/-- The X and Y of the re-entry point; an abort stop has made it absent, and the setpoints then stand for it
(log 18). -/
def reentryPoint (e : Executor) : Int × Int :=
  match e.reentry, e.position with
  | some r, _ => (r.x, r.y)
  | none, some p => (p.x, p.y)
  | none, none => (0, 0)

/-- The end of a standoff retract: STANDOFF event, and state STANDOFF, reached from HOLD when the retract was begun in
HOLD or is completed under a halt request, which is then cleared (R124, R126). -/
def endStandoffRetract (s : State) : State :=
  if s.executor.state = .retract .standoff ∧ s.executor.stepDone = true then
    raiseStandoff s.executor.currentTag (reentryPoint s.executor).1 (reentryPoint s.executor).2
      (s.setExecutor { s.executor with
        state := .standoff (s.executor.beganInHold || s.executor.haltRequest)
        haltRequest := false
        stepDone := false
        beganInHold := false })
  else s

/-- The Executor, at rest under a halt request, enters HOLD (R126). -/
def takeHoldEntry (s : State) : State :=
  if s.executor.haltRequest = true ∧ s.part.abortFlag = false ∧ s.executor.atRest = true then enterHold s else s

/-- The abort stop is over: the retract is complete, or the Executor is at rest out of material (R129, R157). -/
def abortStopOver (s : State) : Bool :=
  s.part.abortFlag &&
  ((decide (s.executor.state = .retract .abort) && s.executor.stepDone) ||
   (s.executor.atRest && !s.executor.inMaterial))

/-- The end of an abort stop: IDLE with no current record, abort flag clear, part PARKED; a waiting blade table commits
(R129, R157). -/
def endAbortStop (s : State) : State :=
  if abortStopOver s then
    commitBlade ((s.setExecutor s.executor.enterIdle).setPart { s.part with abortFlag := false, state := .parked })
  else s

/-- The end of a fault deceleration: at speed 0 the Executor is STOPPED (R130). -/
def takeStopped (s : State) : State :=
  if s.executor.state = .stopping ∧ s.executor.speed = 0 then
    s.setExecutor { s.executor with state := .stopped }
  else s

/-- The RECOVER retract is complete: IDLE, and the part is PARKED; a waiting blade table commits (R45, R155). -/
def endRecover (s : State) : State :=
  if s.executor.state = .retract .recover ∧ s.executor.stepDone = true then
    commitBlade ((s.setExecutor s.executor.enterIdle).setPartState .parked)
  else s

/-- Everything that a frame left due is taken, in one fixed order (log 3). -/
def settle (s : State) : State :=
  takeStopped (raiseDriveLink (takeDwellTimeout (takeTrimTimeout (takeLockTimeout (raiseBladeJam (governorEvaluate
    (endRecover (endAbortStop (takeHoldEntry (endStandoffRetract s))))))))))

/-! ## The commands -/

/-- The third miss raises DRIVE-LINK. -/
def execDriveLink (s : State) : Host.Outcome State Fault Refusal := .next (unlessReset s raiseDriveLink)

/-- The Load Governor's evaluation. -/
def execGovernorEvaluation (s : State) : Host.Outcome State Fault Refusal := .next (unlessReset s governorEvaluate)

/-- The jam count at 8 raises BLADE-JAM. -/
def execBladeJam (s : State) : Host.Outcome State Fault Refusal := .next (unlessReset s raiseBladeJam)

/-- The lock timer's expiry. -/
def execLockTimeout (s : State) : Host.Outcome State Fault Refusal := .next (unlessReset s takeLockTimeout)

/-- The trim timer's expiry. -/
def execTrimTimeout (s : State) : Host.Outcome State Fault Refusal := .next (unlessReset s takeTrimTimeout)

/-- The dwell timer's expiry. -/
def execDwellTimeout (s : State) : Host.Outcome State Fault Refusal := .next (unlessReset s takeDwellTimeout)

/-- The end of a standoff retract. -/
def execStandoff (s : State) : Host.Outcome State Fault Refusal := .next (unlessReset s endStandoffRetract)

/-- HOLD is entered under a halt request. -/
def execHoldEntry (s : State) : Host.Outcome State Fault Refusal := .next (unlessReset s takeHoldEntry)

/-- The end of an abort stop. -/
def execAbortStopEnd (s : State) : Host.Outcome State Fault Refusal := .next (unlessReset s endAbortStop)

/-- The end of a fault deceleration. -/
def execStopped (s : State) : Host.Outcome State Fault Refusal := .next (unlessReset s takeStopped)

/-- The end of the RECOVER retract. -/
def execRecoverRetractEnd (s : State) : Host.Outcome State Fault Refusal := .next (unlessReset s endRecover)

end Sys2Proof.Machine
end

