-- ==== Sys2Proof/Machine/Motion.lean ====
section
/-! DEFINITION. The motion of one frame: speeds, advance, carry, heading, turns and vertical moves (R109 to R115,
R126, R129, R130). -/

namespace Sys2Proof.Machine

/-! ## Setup quantities -/

/-- Frame period T, ms. -/
def State.period (s : State) : Nat :=
  match s.part.setup with
  | some r => r.period
  | none => 0

/-- Fault-stop deceleration E. -/
def State.stopDecel (s : State) : Nat :=
  match s.part.setup with
  | some r => r.stopDecel
  | none => 0

/-- Setup travel speed. -/
def State.travelSpeed (s : State) : Nat :=
  match s.part.setup with
  | some r => r.travelSpeed
  | none => 0

/-! ## Speed of a frame (R109, R126, R130) -/

/-- A CUT's cap scaled by an effective override, at least 1 (R109). -/
def scaledCap (cap effective : Nat) : Nat := max 1 (cap * effective / 100)

/-- New speed of an ordinary frame: the least of v + a, the bound and the braking limit, with the creep floor. -/
def runSpeed (a v bound allow r : Nat) : Nat :=
  if min (min (v + a) bound) allow < 1 ∧ 0 < r then 1 else min (min (v + a) bound) allow

/-- New speed of a frame that slows by `step`: no creep floor. -/
def slowSpeed (step v allow : Nat) : Nat := min (v - step) allow

/-- Exit speed and bound of the motion along a record: a CUT's exit and scaled cap; 0 and the travel speed for a
TRAVEL. -/
def motionBounds (s : State) (b : Body) : Nat × Nat :=
  match b with
  | .cut c => (c.exit, scaledCap c.cap s.governor.effective)
  | .travel _ _ _ => (0, s.travelSpeed)
  | .blockStart _ _ _ _ => (0, 0)
  | .enter _ _ _ _ => (0, 0)
  | .pivot _ => (0, 0)
  | .leave _ _ => (0, 0)
  | .actions => (0, 0)
  | .blockDone _ => (0, 0)

/-- The Executor slows under a halt request or an abort stop. -/
def slowing (s : State) : Bool := s.executor.haltRequest || s.part.abortFlag

/-- New speed along the current record. -/
def newSpeed (s : State) (c : Current) : Nat :=
  let (exit, bound) := motionBounds s c.record.body
  let r := c.len - c.dist
  let allow := reach s.accel exit r
  if s.executor.state = .stopping then slowSpeed (perFrame s.stopDecel s.period) c.speed allow
  else if slowing s then slowSpeed (perFrame s.accel s.period) c.speed allow
  else runSpeed (perFrame s.accel s.period) c.speed bound allow r

/-! ## Setpoints along a CUT (R111, R112) -/

/-- The heading of the CUT that holds the point `ahead` micrometres along the queue; `last` is the heading of the last
CUT reached (R112). -/
def lookHeading : List Record → Nat → Nat → Nat
  | [], _, last => last
  | r :: rest, ahead, last =>
    match r.body with
    | .cut c => if ahead ≤ c.len then c.heading else lookHeading rest (ahead - c.len) c.heading
    | .actions => lookHeading rest ahead last
    | _ => last

/-- Heading setpoint at the end of a frame along a CUT, `lead` being the heading lead distance. -/
def cutHeading (lead : Nat) (queue : List Record) (c : CutRecord) (dist : Nat) : Nat :=
  if dist + lead ≤ c.len then c.heading else lookHeading queue (dist + lead - c.len) c.heading

/-- The setpoints follow the motion along the current record. -/
def Executor.place (lead : Nat) (e : Executor) : Executor :=
  match e.position, e.current with
  | some p, some c =>
    match c.record.body with
    | .cut k =>
      { e with position := some { p with
          x := along k.x0 k.x1 c.dist c.len
          y := along k.y0 k.y1 c.dist c.len
          heading := cutHeading lead e.queue k c.dist } }
    | .travel x y _ =>
      { e with position := some { p with x := along c.startX x c.dist c.len, y := along c.startY y c.dist c.len } }
    | _ => e
  | _, _ => e

/-! ## Advance and carry (R110, R111) -/

/-- The frame ends at the end point of the completed record, with speed 0. -/
def endAtEnd (s : State) : State :=
  s.setExecutor { s.executor with
    current := match s.executor.current with
      | some c => some { c with dist := c.len, speed := 0, complete := true }
      | none => none }

/-- An ACTIONS record is entered by carry: it is begun and its actions are performed, while the completed CUT stays the
record of the motion (log 27). In STOPPING it is passed, its actions dropped (R130). -/
def carryActions (r : Record) (rest : List Record) (s : State) : State :=
  let s1 := s.setExecutor (s.executor.pop r rest)
  if s.executor.state = .stopping then s1 else plannerMoment (performActions s1 r.actions)

/-- A CUT is entered by carry, at distance `dist` and the speed kept. In STOPPING it is passed. -/
def carryCut (r : Record) (c : CutRecord) (rest : List Record) (dist speed : Nat) (s : State) : State :=
  let e := s.executor.pop r rest
  let s1 := s.setExecutor { e with current := some (e.freshCurrent r c.len dist speed) }
  if s.executor.state = .stopping then s1 else plannerMoment (performActions s1 r.actions)

/-- The excess carries on along the path (R110): `exit` is the exit of the CUT completed last, `speed` the speed
kept. -/
def carry : Nat → Nat → Nat → Nat → State → State
  | 0, _, _, _, s => endAtEnd s
  | n + 1, exit, excess, speed, s =>
    if exit = 0 then endAtEnd s
    else match s.executor.queue with
      | [] => endAtEnd s
      | r :: rest =>
        match r.body with
        | .actions => carry n exit excess speed (carryActions r rest s)
        | .cut c =>
          if c.len ≤ excess then carry n c.exit (excess - c.len) speed (carryCut r c rest c.len speed s)
          else carryCut r c rest excess (min speed (scaledCap c.cap s.governor.effective)) s
        | _ => endAtEnd s

/-- More records than one frame's carry can enter. -/
def carryFuel (s : State) : Nat := s.executor.queue.length + s.planner.window.length + 3

/-- The frame's advance along the current record at speed `w`, with the carry. -/
def advance (w : Nat) (c : Current) (s : State) : State :=
  let dist := c.dist + w * s.period
  if dist < c.len then
    s.setExecutor { s.executor with current := some { c with dist := dist, speed := w } }
  else carry (carryFuel s) (motionBounds s c.record.body).1 (dist - c.len) w s

/-- One frame along the current record. -/
def pathFrame (c : Current) (s : State) : State :=
  let s1 := advance (newSpeed s c) c s
  s1.setExecutor (s1.executor.place s1.blade.lead)

/-! ## Turns (R113) -/

/-- One frame's part of the turn still to be made, at `rate` cd/s. -/
def Executor.turnFrame (rate t : Nat) (e : Executor) : Executor :=
  match e.position, e.current with
  | some p, some c =>
    let part := turnPart c.turn (perFrame rate t)
    { e with position := some { p with heading := turnBy p.heading part }
             current := some { c with turn := c.turn - part } }
  | _, _ => e

/-- The rotation still to be made. -/
def Executor.turnLeft (e : Executor) : Int :=
  match e.current with
  | some c => c.turn
  | none => 0

/-- A frame of SWIVEL or ROTATE (R118, R119). -/
def turnStep (rate : Nat) (s : State) : State :=
  let e := s.executor.turnFrame rate s.period
  s.setExecutor (if e.turnLeft = 0 then e.finishStep else e)

/-- A frame of a TRAVEL record: the XY move and the turn in parallel; the record is complete when both are (R115). -/
def travelFrame (c : Current) (s : State) : State :=
  let s1 := if c.dist < c.len then pathFrame c s else s
  let e := s1.executor.turnFrame s1.blade.airRate s1.period
  s1.setExecutor
    { e with current := match e.current with
        | some k =>
          if k.len ≤ k.dist then some { k with speed := 0, complete := decide (k.turn = 0) }
          else some { k with complete := false }
        | none => none }

/-! ## Vertical moves (R113) -/

/-- A frame of a vertical move, of `speed` mm/s. -/
def zFrame (s : State) : State :=
  match s.executor.position, s.executor.zMove with
  | some p, some m =>
    let z := zStep p.z m.target (m.speed * s.period)
    let e := { s.executor with position := some { p with z := z } }
    s.setExecutor (if z = m.target then e.finishStep else e)
  | _, _ => s

/-! ## The motion of a frame -/

/-- A frame of TRAVEL: the Z move of a BLOCK-START, or a TRAVEL record's. -/
def travelState (s : State) : State :=
  match s.executor.current with
  | some c =>
    if c.complete then s
    else match c.record.body with
      | .travel _ _ _ => travelFrame c s
      | _ => zFrame s
  | none => s

/-- A frame along a CUT, or of a fault stop along a path. -/
def pathState (s : State) : State :=
  match s.executor.current with
  | some c => if c.complete then s else pathFrame c s
  | none => s

/-- What moves in a frame goes by the state with which the frame starts to move. -/
def motion (s : State) : State :=
  match s.executor.state with
  | .travel => travelState s
  | .cut => pathState s
  | .stopping => pathState s
  | .plunge => zFrame s
  | .retract _ => zFrame s
  | .swivel => turnStep s.blade.swivelRate s
  | .rotate => turnStep s.blade.airRate s
  | .idle | .spinup | .trim | .dwell | .standoff _ | .hold _ | .stopped => s

end Sys2Proof.Machine
end

