-- ==== Sys2Proof/Machine/Control.lean ====
section
/-! DEFINITION. The Part Controller's commands and those of the Executor and Load Governor that come as immediate
packets: SETUP, OVERRIDE, HALT, RESUME, ABORT, CLEAR-FAULT; and the lines STOP and RESET (Chapter 9; R96, R126, R128,
R168). -/

namespace Sys2Proof.Machine

/-! ## SETUP (R146, R147) -/

/-- The ranges of Table 9.2, in check order. -/
def setupChecks (r : Setup) : List Bool :=
  [r.period == 1 || r.period == 2 || r.period == 4, within 100 20000 r.accel, within r.accel 40000 r.stopDecel,
   within 10 1000 r.travelSpeed, within 10 500 r.zAirSpeed, within 1 4000000 r.xMax, within 1 2500000 r.yMax,
   within 1 800000 r.zMax, within 0 r.zMax r.tableTop, decide (r.zCut < r.tableTop), within 1000 50000 r.clearance,
   within 4 63 r.paceHigh, decide (r.paceLow + 4 ≤ r.paceHigh), true]

/-- The STOP input is judged as SETUP is accepted (R147). -/
def judgeStop (s : State) : State := if s.part.stopInput then raiseFault .stop s else s

/-- SETUP as its owner takes it. -/
def ownSetup (r : Setup) (s : State) : State × Reply :=
  if s.part.state ≠ .unconfigured then (s, .refused .state [])
  else match firstFailing 1 (setupChecks r) with
    | some no => (s, .refused .range (u8 no))
    | none =>
      (judgeStop ((s.setPart { s.part with state := .parked, setup := some r }).setPort
        { s.port with sending := true, dropMask := r.dropMask }), .accepted [])

/-- SETUP. -/
def execSetup (tag : Tag) (fields : Setup) (s : State) : Host.Outcome State Fault Refusal :=
  .next (unlessReset s (handImmediate kindSetup tag (ownSetup fields)))

/-! ## OVERRIDE (R96) -/

/-- A request clamped into 25..100. -/
def clampOverride (n : Nat) : Nat := max 25 (min 100 n)

/-- OVERRIDE as its owner takes it. -/
def ownOverride (requested : Byte) (s : State) : State × Reply :=
  (s.setGovernor { s.governor with operator := clampOverride requested.toNat },
   .accepted (u8 (clampOverride requested.toNat)))

/-- OVERRIDE. -/
def execOverride (tag : Tag) (requested : Byte) (s : State) : Host.Outcome State Fault Refusal :=
  .next (unlessReset s (handImmediate kindOverride tag (ownOverride requested)))

/-! ## HALT (R126, R168) -/

/-- The states in which a HALT takes the Executor to HOLD at once (R126). -/
def ExecState.haltsAtOnce : ExecState → Bool
  | .idle | .dwell | .standoff _ => true
  | .travel | .spinup | .plunge | .cut | .swivel | .retract _ | .rotate | .trim | .hold _ | .stopping
  | .stopped => false

/-- The Executor is in HOLD. -/
def ExecState.isHold : ExecState → Bool
  | .hold _ => true
  | .idle | .travel | .spinup | .plunge | .cut | .swivel | .retract _ | .rotate | .trim | .dwell | .standoff _
  | .stopping | .stopped => false

/-- The halt request is set, and taken at once where the Executor stands still without a record. -/
def setHalt (s : State) : State :=
  let s1 := s.setExecutor { s.executor with haltRequest := true }
  if s.executor.state.haltsAtOnce then enterHold s1 else s1

/-- HALT as its owner takes it. -/
def ownHalt (s : State) : State × Reply :=
  if s.part.state ≠ .running then (s, .refused .state [])
  else if s.part.abortFlag || s.executor.state.isHold || s.executor.haltRequest then (s, .accepted [])
  else (setHalt s, .accepted [])

/-- HALT. -/
def execHalt (tag : Tag) (s : State) : Host.Outcome State Fault Refusal :=
  .next (unlessReset s (handImmediate kindHalt tag ownHalt))

/-! ## RESUME (R128) -/

/-- DWELL is returned to after a HOLD in material: with a record waiting the timer does not run (R124, R128). -/
def resumeDwell (s : State) : State :=
  if s.executor.queue.isEmpty then enterDwell s
  else s.setExecutor { s.executor with state := .dwell, current := none, dwellTimer := .stopped }

/-- A part-done record continues, in its own state (R128). The re-entry point, which a HOLD after a re-entry may still
hold, is absent from then on: R125 names only the beginning of a record (DEDUCED, log 37). -/
def resumePath (st : ExecState) (s : State) : State :=
  s.setExecutor { s.executor with state := st, dwellTimer := .stopped, reentry := none }

/-- With no record part done, a HOLD out of material returns to IDLE, and the part state is judged (R128, R145). -/
def resumeIdle (s : State) : State :=
  commitBlade (judgeParked (s.setExecutor { s.executor with state := .idle, current := none }))

/-- What follows a HOLD that was not entered from STANDOFF (R128). A part-done CUT held out of material, which is one of a
dry-run block, goes on from rest like one in material: R128 names only a TRAVEL there (DEDUCED, log 36). -/
def resumeHold (s : State) : State :=
  match s.executor.restedCurrent with
  | some c =>
    match c.record.body with
    | .cut _ => resumePath .cut s
    | .travel _ _ _ => resumePath .travel s
    | _ => resumeIdle s
  | none => if s.executor.inMaterial then resumeDwell s else resumeIdle s

/-- RESUME as its owner takes it. -/
def ownResume (s : State) : State × Reply :=
  if s.part.state ≠ .running then (s, .refused .state [])
  else match s.executor.state with
    | .hold false => (resumeHold s, .accepted [])
    | .hold true => (s.setExecutor { s.executor with state := .standoff false }, .accepted [])
    | .standoff true => (s.setExecutor { s.executor with state := .standoff false }, .accepted [])
    | .idle | .travel | .spinup | .plunge | .cut | .swivel | .retract _ | .rotate | .trim | .dwell
    | .standoff false | .stopping | .stopped => (s, .refused .state [])

/-- RESUME. -/
def execResume (tag : Tag) (s : State) : Host.Outcome State Fault Refusal :=
  .next (unlessReset s (handImmediate kindResume tag ownResume))

/-! ## ABORT (R76, R129, R156) -/

/-- A CUT's exit is set to 0 (R76). -/
def Body.exitZero : Body → Body
  | .cut c => .cut { c with exit := 0 }
  | .blockStart top clear dry t => .blockStart top clear dry t
  | .travel x y h => .travel x y h
  | .enter x y h p => .enter x y h p
  | .pivot p => .pivot p
  | .leave r t => .leave r t
  | .actions => .actions
  | .blockDone t => .blockDone t

/-- The Executor's part of an ABORT acted on. -/
def Executor.abort (e : Executor) : Executor :=
  { e with
    queue := []
    current := match e.current with
      | some c => some { c with record := { c.record with body := c.record.body.exitZero } }
      | none => none
    haltRequest := false
    dwellTimer := .stopped
    reentry := none
    standoffPending := false }

/-- What the blocks do at the moment an ABORT is acted on (R156). -/
def clearForAbort (s : State) : State :=
  let s1 := abandonLoad (emptyIntake s)
  ((s1.setPart { s1.part with abortFlag := true }).setPlanner (Planner.cleared s.planner.trimDist)).setExecutor
    s.executor.abort

/-- An ABORT is acted on; an Executor at rest already begins its retract, or ends the stop, at once (R129, R157). -/
def actAbort (s : State) : State :=
  let s1 := clearForAbort s
  if s1.executor.atRest && s1.executor.inMaterial then beginAbortRetract s1 else endAbortStop s1

/-- ABORT as its owner takes it. -/
def ownAbort (s : State) : State × Reply :=
  match s.part.state with
  | .running => if s.part.abortFlag then (s, .accepted []) else (actAbort s, .accepted [])
  | .parked => (s, .accepted [])
  | .fault | .recovering | .unconfigured => (s, .refused .state [])

/-- ABORT. -/
def execAbort (tag : Tag) (s : State) : Host.Outcome State Fault Refusal :=
  .next (unlessReset s (handImmediate kindAbort tag ownAbort))

/-! ## CLEAR-FAULT (R153 to R155) -/

/-- What the blocks clear as CLEAR-FAULT is accepted (R154). -/
def clearForRecovery (s : State) : State :=
  let s1 := abandonLoad (emptyIntake s)
  (((s1.setPart { s1.part with
      state := .recovering, record := { cause := none, tag := 0, position := none, further := 0 } }).setPlanner
    (Planner.cleared 0)).setExecutor
      { s.executor with queue := [], current := none, reentry := none, haltRequest := false }).setPort
      { s.port with held := { s.port.held with alarm := false }, missed := 0, linkDue := false }

/-- The RECOVER retract begins; one with nothing to raise, or without a position, ends at once (R155). -/
def beginRecover (s : State) : State :=
  match s.executor.position with
  | some _ => endRecover (s.setExecutor (s.executor.startRetract .recover s.clearZ s.retractSpeed))
  | none => commitBlade ((s.setExecutor s.executor.enterIdle).setPartState .parked)

/-- CLEAR-FAULT as its owner takes it. -/
def ownClearFault (s : State) : State × Reply :=
  if s.part.state ≠ .fault then (s, .refused .state [])
  else if s.part.stopInput then (s, .refused .stopped [])
  else if s.executor.state ≠ .stopped then (s, .refused .state [])
  else (beginRecover (clearForRecovery s), .accepted [])

/-- CLEAR-FAULT. -/
def execClearFault (tag : Tag) (s : State) : Host.Outcome State Fault Refusal :=
  .next (unlessReset s (handImmediate kindClearFault tag ownClearFault))

/-! ## The STOP input (R152) -/

/-- The level of the STOP input. -/
def setStop (level : Bool) (s : State) : State := s.setPart { s.part with stopInput := level }

/-- The STOP input is asserted: a change from released raises STOP. In reset the level is noted (log 7). -/
def execStopAsserted (s : State) : Host.Outcome State Fault Refusal :=
  if s.part.inReset || s.part.stopInput then .next (setStop true s)
  else .next (raiseFault .stop (setStop true s))

/-- The STOP input is released: nothing is raised. -/
def execStopReleased (s : State) : Host.Outcome State Fault Refusal := .next (setStop false s)

/-! ## Reset (R158) -/

/-- Every block in its reset state; the STOP input is a level from outside and stays as it is, and the host's queue is
not the part's (log 7). -/
def resetPart (s : State) : State :=
  { State.reset with
    part := { State.reset.part with stopInput := s.part.stopInput }
    pending := s.pending }

/-- The RESET input is asserted: the part is held in reset, with PACE ASSERTED (R158, R166). -/
def holdInReset (s : State) : State :=
  let r := resetPart s
  (r.setPart { r.part with inReset := true }).setLink { r.link with pace := true }

/-- RESET. -/
def execReset (s : State) : Host.Outcome State Fault Refusal := .next (holdInReset s)

/-- The RESET input is released: every block stands in its reset state. -/
def execResetReleased (s : State) : Host.Outcome State Fault Refusal :=
  .next (if s.part.inReset then resetPart s else s)

end Sys2Proof.Machine
end

