-- ==== Sys2Proof/Machine/Drive.lean ====
section
/-! DEFINITION. The incoming lane of the drive link: return frames (R106, R116, R122, R136 to R139, R179). -/

namespace Sys2Proof.Machine

/-! ## Judging LOCK and trim-done -/

/-- Frame number `a` is at or after `b` (R116). -/
def atOrAfter (a b : FrameNo) : Bool := decide ((a - b).toNat < 32768)

/-- The Executor judges a LOCK against the spin-up frame (R116). -/
def judgeLock (s : State) : State :=
  match s.executor.state, s.executor.spinupFrame with
  | .spinup, some f => if s.port.held.lock && atOrAfter s.port.held.echo f then takeLock s else s
  | _, _ => s

/-- The Executor judges a trim-done against the trim frame (R122). -/
def judgeTrimDone (s : State) : State :=
  match s.executor.state, s.executor.trimFrame with
  | .trim, some f => if s.port.held.trimDone && atOrAfter s.port.held.echo f then takeTrimDone s else s
  | _, _ => s

/-! ## Adoption of the position (R13, R106) -/

/-- An Executor without a position adopts the held actual one; the stabs that waited for it take its heading, and the
Planner applies its rules (R13, R83, R106). -/
def adopt (s : State) : State :=
  match s.executor.position with
  | some _ => s
  | none =>
    let h := s.port.held
    plannerMoment
      ((s.setExecutor { s.executor with position := some ⟨(h.x : Int), (h.y : Int), h.z, h.heading⟩ }).setPlanner
        { s.planner with window := fillStabs h.heading s.planner.window })

/-! ## Receiving a frame (R136, R138, R139, R179) -/

/-- The held values that the bytes from the echoed frame number on give (Table 12.5, R179). -/
def heldOf (b : List Byte) : Held where
  echo := BitVec.ofNat 16 (fieldU b 0 2)
  x := fieldU b 2 4
  y := fieldU b 6 4
  z := fieldU b 10 4
  heading := fieldU b 14 2 % Config.turn
  ready := BitVec.ofNat 5 (fieldU b 16 1)
  alarm := (fieldU b 17 1).testBit 0
  lock := (fieldU b 17 1).testBit 1
  trimDone := (fieldU b 17 1).testBit 2
  load := min 250 (fieldU b 18 1)

/-- The 21 bytes after the sync pair carry the CRC of the first 19 of them (R179). -/
def returnCrcAgrees (b : List Byte) : Bool := crc (b.take 19) == BitVec.ofNat 16 (fieldU b 19 2)

/-- A valid return frame is received (R136): its values are held, the period is answered, LOCK and trim-done are handed
on, the position is adopted if it is waited for, and the alarm is judged against the alarm held before (R138). -/
def receiveReturn (h : Held) (s : State) : State :=
  let s1 := adopt (judgeTrimDone (judgeLock (s.setPort { s.port with held := h, received := true, missed := 0 })))
  if h.alarm && !s.port.held.alarm then raiseFault .drive s1 else s1

/-- A complete frame of 21 bytes after the sync pair: discarded while the sending flag is clear or when its CRC does
not agree (R136). -/
def judgeReturn (b : List Byte) (s : State) : State :=
  if s.port.sending && returnCrcAgrees b then receiveReturn (heldOf b) s else s

/-- One byte arrives on the incoming lane (R179). -/
def driveByte (s : State) (b : Byte) : State :=
  match s.port.rx with
  | .hunt kept =>
    if kept && b == Config.returnSync2 then s.setPort { s.port with rx := .body [] Config.returnBody }
    else s.setPort { s.port with rx := .hunt (b == Config.sync1) }
  | .body got left =>
    if left ≤ 1 then judgeReturn (got ++ [b]) (s.setPort { s.port with rx := .hunt false })
    else s.setPort { s.port with rx := .body (got ++ [b]) (left - 1) }

/-- Bytes arrive on the incoming lane, one after another. -/
def receiveDrive (lane : List Byte) (s : State) : State := lane.foldl driveByte s

/-- A return frame's bytes arrive. -/
def execReturnFrame (lane : List Byte) (s : State) : Host.Outcome State Fault Refusal :=
  .next (unlessReset s (receiveDrive lane))

/-- The lane has fallen idle for longer than one byte time: a partial frame is discarded (R179; log 15). -/
def discardPartial (s : State) : State :=
  match s.port.rx with
  | .hunt _ => s
  | .body _ _ => s.setPort { s.port with rx := .hunt false }

/-- The incoming lane falls idle within a return frame. -/
def execPartialFrameDiscard (s : State) : Host.Outcome State Fault Refusal := .next (unlessReset s discardPartial)

end Sys2Proof.Machine
end

