-- ==== Sys2Proof/Machine/Stroke.lean ====
section
/-! DEFINITION. The Stroke Unit: the oscillator frequency of a frame (R89 to R95). -/

namespace Sys2Proof.Machine

/-- Frequency of a frame along a CUT: speed over pitch target, rounded up, clamped into f_min..f_max (R90). -/
def cutFrequency (b : BladeEntry) (speed pitch : Nat) : Nat :=
  max b.fMin (min b.fMax ((speed * 1000 + pitch - 1) / pitch))

/-- A record that is a LIFT PIVOT. -/
def Body.isPivot : Body → Bool
  | .pivot _ => true
  | .blockStart _ _ _ _ => false
  | .travel _ _ _ => false
  | .enter _ _ _ _ => false
  | .cut _ => false
  | .leave _ _ => false
  | .actions => false
  | .blockDone _ => false

/-- The current record is a PIVOT: a TRIM is then one within a LIFT. -/
def Executor.inPivot (e : Executor) : Bool :=
  match e.current with
  | some c => c.record.body.isPivot
  | none => false

/-- The pitch target of the CUT in which the frame ends. -/
def Executor.pitchTarget (e : Executor) : Option Nat :=
  match e.current with
  | some c =>
    match c.record.body with
    | .cut k => some k.snap.pitchTarget
    | _ => none
  | none => none

/-- Table 6.1, by the Executor's state at the end of the frame; `kept` is the kept frequency. -/
def tableFrequency (b : BladeEntry) (kept : Nat) (e : Executor) : Nat :=
  match e.state with
  | .cut =>
    match e.pitchTarget with
    | some pitch => cutFrequency b e.speed pitch
    | none => b.fMin
  | .spinup | .plunge | .retract .lift | .rotate => b.fPlunge
  | .trim => if e.inPivot then b.fPlunge else 0
  | .swivel | .dwell => b.fMin
  | .hold _ | .retract .leave | .retract .standoff | .retract .abort | .retract .recover =>
    if e.inMaterial then b.fMin else 0
  | .travel | .idle | .standoff _ | .stopped => 0
  | .stopping => if 0 < e.speed then kept else 0

/-- The oscillator frequency of the frame (R89): 0 in a dry-run block and with the blade table absent. -/
def frequency (s : State) : Nat :=
  match s.tables.blade with
  | none => 0
  | some b => if s.executor.dry then 0 else tableFrequency b s.keptFreq s.executor

/-- The kept frequency at the end of a frame (R89, R93). -/
def keepFrequency (s : State) : State :=
  if s.executor.state = .stopping then s else s.setKeptFreq (frequency s)

end Sys2Proof.Machine
end

