-- ==== Sys2Proof/Machine/Frame.lean ====
section
/-! DEFINITION. FRAME: one frame period of the Executor, the Stroke Unit and the Drive Link Port (R89, R99, R107, R108,
R132 to R137, R179). -/

namespace Sys2Proof.Machine

/-! ## The setpoint frame (R132 to R135, R179) -/

/-- Mode of the frame: QUIET 0, RUN 1, HOLD 2 (R133). -/
def frameMode (e : Executor) : Nat :=
  match e.position with
  | none => 0
  | some _ => if e.state = .stopped then 2 else 1

/-- D divided by 100,000, saturating at 65535 (Table 8.1, R169). -/
def trimSlot (d : Nat) : Nat := min 65535 (d / 100000)

/-- The status value of a slot (Table 8.1, R179). -/
def slotValue (s : State) : Nat → Nat
  | 0 => 256 * partStateCode s.part.state + 16 * purposeCode s.executor.state + execStateCode s.executor.state
  | 1 => s.governor.effective
  | 2 => s.executor.currentTag.toNat
  | 3 => causeCode s.part.record.cause
  | 4 => s.link.intake.length
  | 5 => s.planner.window.length
  | 6 => s.executor.queue.length
  | _ => trimSlot s.planner.trimDist

/-- X, Y, Z and heading as the frame carries them: 0 while the position is absent. -/
def setpointBytes (p : Option Position) : List Byte :=
  match p with
  | some p => s32 p.x ++ s32 p.y ++ u32 p.z ++ u16 p.heading
  | none => u32 0 ++ u32 0 ++ u32 0 ++ u16 0

/-- The 24 bytes from the frame number to the status value (Table 12.5); `f` is the frame's frequency. -/
def setpointBody (f : Nat) (s : State) : List Byte :=
  tagBytes s.port.frameNo ++ u8 (frameMode s.executor) ++ setpointBytes s.executor.position ++
  u16 (if s.executor.position.isSome then f else 0) ++
  flagU8 (s.port.trimRequest && s.executor.position.isSome) ++ [s.port.lines] ++ u8 (s.port.frameNo.toNat % 8) ++
  u16 (slotValue s (s.port.frameNo.toNat % 8))

/-- The 28 bytes of the setpoint frame. -/
def setpointFrame (f : Nat) (s : State) : List Byte :=
  [Config.sync1, Config.setpointSync2] ++ setpointBody f s ++ crcBytes (setpointBody f s)

/-- The first setpoint frame sent in SPINUP is the spin-up frame, the first that carries the trim request the trim
frame (R116, R122). -/
def stampFrames (s : State) : State :=
  s.setExecutor { s.executor with
    spinupFrame :=
      if s.executor.state = .spinup ∧ s.executor.spinupFrame.isNone = true then some s.port.frameNo
      else s.executor.spinupFrame
    trimFrame :=
      if s.executor.state = .trim ∧ s.port.trimRequest = true ∧ s.executor.trimFrame.isNone = true then
        some s.port.frameNo
      else s.executor.trimFrame }

/-- The frame is put on the outgoing lane, and the frame number grows by one (R132). -/
def sendSetpoint (f : Nat) (s : State) : State :=
  s.setPort { s.port with outLane := setpointFrame f s, frameNo := s.port.frameNo + 1 }

/-! ## End of the frame -/

/-- The running timers add T (R108). -/
def tickTimers (s : State) : State :=
  s.setExecutor { s.executor with
    lockTimer := s.executor.lockTimer.tick s.period
    trimTimer := s.executor.trimTimer.tick s.period
    dwellTimer := s.executor.dwellTimer.tick s.period }

/-- At its sending the Port judges the period just ended; the first frame after SETUP judges none (R137). -/
def judgePeriod (s : State) : State :=
  if !s.port.sentAny then s.setPort { s.port with sentAny := true, received := false }
  else if s.port.received then s.setPort { s.port with received := false }
  else s.setPort { s.port with
    missed := min 255 (s.port.missed + 1)
    linkDue := s.port.linkDue || s.port.missed + 1 == 3 }

/-- The frame is counted: it ends in CUT at a speed above 0, in a block that is not a dry-run block (R99). -/
def counted (e : Executor) : Bool := decide (e.state = .cut) && decide (0 < e.speed) && !e.dry

/-- Load ceiling of the CUT in which the frame ends. -/
def Executor.ceiling (e : Executor) : Nat :=
  match e.current with
  | some c =>
    match c.record.body with
    | .cut k => k.snap.ceiling
    | _ => 0
  | none => 0

/-- A counted frame; the sixteenth leaves an evaluation due (R99). -/
def countFrame (s : State) : State :=
  if counted s.executor then
    if 16 ≤ s.governor.evalCount + 1 then
      s.setGovernor { s.governor with evalCount := 0, evalDue := some s.executor.ceiling }
    else s.setGovernor { s.governor with evalCount := s.governor.evalCount + 1 }
  else s

/-- From the end of the motion to the sending, and the judging that goes with it. -/
def closeFrame (s : State) : State :=
  countFrame (judgePeriod (tickTimers (sendSetpoint (frequency s) (stampFrames (keepFrequency s)))))

/-- The Executor's frame, and what it lets the Part Controller and the Table Store do. -/
def workFrame (s : State) : State := commitBlade (judgeParked (motion (startFrame s)))

/-- One frame period. -/
def runFrame (s : State) : State := closeFrame (workFrame (settle s))

/-! ## The command -/

/-- Work that reads the blade table (Table 2.4): any record but ACTIONS, BLOCK-START and BLOCK-DONE. -/
def Body.readsBlade : Body → Bool
  | .blockStart _ _ _ _ => false
  | .actions => false
  | .blockDone _ => false
  | .travel _ _ _ => true
  | .enter _ _ _ _ => true
  | .cut _ => true
  | .pivot _ => true
  | .leave _ _ => true

/-- Work that reads the blade table is held. -/
def bladeNeeded (s : State) : Bool :=
  s.executor.queue.any (fun r => r.body.readsBlade) || s.planner.window.any (fun w => w.record.body.readsBlade) ||
  (match s.executor.current with
   | some c => c.record.body.readsBlade
   | none => false)

/-- The blade table is absent although work that reads it is held, which R31 and R33 rule out (log 19). -/
def bladeMissing (s : State) : Bool := s.tables.blade.isNone && bladeNeeded s

/-- A frame period ends. Nothing takes place before SETUP, when the Port does not send and no frame is worked. -/
def execFrame (s : State) : Host.Outcome State Fault Refusal :=
  if s.part.inReset || !s.port.sending then .next s
  else if bladeMissing s then .fault .bladeTableAbsent
  else .next (runFrame s)

end Sys2Proof.Machine
end

