-- ==== Sys2Proof/Machine/Report.lean ====
section
/-! DEFINITION. The Report Unit: queries, event enables and the return lane (R50, R169 to R177; Table 12.4). -/

namespace Sys2Proof.Machine

/-! ## Queries (R50, R169, R170) -/

/-- Data of QUERY STATUS: 33 bytes (Table 12.4). -/
def statusData (s : State) : List Byte :=
  u8 (partStateCode s.part.state) ++ u8 (statusFlags s) ++ u8 (streamStateCode s.planner.stream) ++
  u8 (execStateCode s.executor.state) ++ u8 (purposeCode s.executor.state) ++ tagBytes s.executor.currentTag ++
  u8 (causeCode s.part.record.cause) ++ tagBytes s.part.record.tag ++ setpointBytes s.part.record.position ++
  u8 s.part.record.further ++ u8 s.governor.operator ++ u8 s.governor.effective ++ u8 s.link.intake.length ++
  u8 s.planner.window.length ++ u8 s.executor.queue.length ++ u16 (trimSlot s.planner.trimDist) ++
  u8 s.port.held.ready.toNat

/-- Data of QUERY POSITION (Table 12.4). -/
def positionData (s : State) : List Byte :=
  flagU8 s.executor.position.isSome ++ setpointBytes s.executor.position ++
  u32 s.port.held.x ++ u32 s.port.held.y ++ u32 s.port.held.z ++ u16 s.port.held.heading ++
  tagBytes s.port.held.echo ++ u8 s.port.missed

/-- Data of QUERY TABLE for a table id: id, entries present, table CRC (R49, R50); none for an id that names no
table. -/
def tableData (t : TableStore) (id : Byte) : Option (List Byte) :=
  if id = tableDensity then some (id :: (u8 t.density.length ++ crcBytes (densityImages t.density)))
  else if id = tableZone then some (id :: (u8 t.zone.length ++ crcBytes (zoneImages t.zone)))
  else if id = tableBlade then
    some (id :: (u8 (bladeEntries t.blade).length ++ crcBytes (bladeImages (bladeEntries t.blade))))
  else none

/-- The Report Unit answers a QUERY; the part is not changed (R169). -/
def queryReply (item tableId : Byte) (s : State) : Reply :=
  if item = itemStatus then .accepted (statusData s)
  else if item = itemPosition then .accepted (positionData s)
  else if item = itemTable then
    match tableData s.tables tableId with
    | some data => .accepted data
    | none => .refused .range []
  else if item = itemSetup then
    match s.part.setup with
    | some r => .accepted (setupBytes r)
    | none => .refused .notConfigured []
  else .refused .range []

/-- QUERY as its owner takes it. -/
def ownQuery (item tableId : Byte) (s : State) : State × Reply := (s, queryReply item tableId s)

/-- QUERY STATUS. -/
def execQueryStatus (tag : Tag) (tableId : Byte) (s : State) : Host.Outcome State Fault Refusal :=
  .next (unlessReset s (handImmediate kindQuery tag (ownQuery itemStatus tableId)))

/-- QUERY POSITION. -/
def execQueryPosition (tag : Tag) (tableId : Byte) (s : State) : Host.Outcome State Fault Refusal :=
  .next (unlessReset s (handImmediate kindQuery tag (ownQuery itemPosition tableId)))

/-- QUERY TABLE. -/
def execQueryTable (tag : Tag) (tableId : Byte) (s : State) : Host.Outcome State Fault Refusal :=
  .next (unlessReset s (handImmediate kindQuery tag (ownQuery itemTable tableId)))

/-- QUERY SETUP. -/
def execQuerySetup (tag : Tag) (tableId : Byte) (s : State) : Host.Outcome State Fault Refusal :=
  .next (unlessReset s (handImmediate kindQuery tag (ownQuery itemSetup tableId)))

/-- A QUERY with its item byte as it came: one that names none of the four is refused with RANGE. -/
def execQueryItemRange (tag : Tag) (item tableId : Byte) (s : State) : Host.Outcome State Fault Refusal :=
  .next (unlessReset s (handImmediate kindQuery tag (ownQuery item tableId)))

/-! ## Event enables (R171, R178) -/

/-- EVENT-MASK as its owner takes it: seven enables set, the bit of weight 128 ignored. The response carries that bit
as 0, whatever came in it; the spec does not say what is sent there (DESIGN CHOICE, log 35). -/
def ownEventMask (enables : Byte) (s : State) : State × Reply :=
  (s.setReport { s.report with enables := enables.setWidth 7 }, .accepted (u8 (enables.setWidth 7).toNat))

/-- EVENT-MASK. -/
def execEventMask (tag : Tag) (enables : Byte) (s : State) : Host.Outcome State Fault Refusal :=
  .next (unlessReset s (handImmediate kindEventMask tag (ownEventMask enables)))

/-! ## The return lane (R177) -/

/-- A response as a packet (Table 12.4). -/
def responseBytes (r : Response) : List Byte :=
  packetBytes kindResponse r.tag ([r.kind] ++ u8 (resultCode r.result) ++ u8 (resultReason r.result) ++ r.data)

/-- An event as a packet: source number, then its data (Table 12.4). -/
def eventBytes (source : Nat) (tag : Tag) (data : List Byte) : List Byte :=
  packetBytes kindEvent tag (u8 source ++ data)

/-- The event source `n` of Table 12.6 is enabled. -/
def enabled (s : State) (n : Nat) : Bool := s.report.enables.getLsbD (n - 1)

/-- The arbiter begins to send a packet. -/
def sendPacket (bytes : List Byte) (s : State) : State := s.setReport { s.report with lane := some bytes }

/-- The events object of the Report Unit becomes `e`. -/
def setEvents (e : Events) (s : State) : State := s.setReport { s.report with events := e }

/-- The pending, enabled event of highest priority begins to be sent, with its data as they stand, and its flag is
cleared; a MARK event takes the oldest tag and the lost flag; with none the lane is idle (R175 to R177). -/
def chooseEvent (s : State) : State :=
  let e := s.report.events
  if e.fault && enabled s 1 then
    sendPacket (eventBytes 1 e.faultTag (u8 (causeCode e.faultCode))) (setEvents { e with fault := false } s)
  else match s.report.marks, enabled s 2 with
    | t :: rest, true =>
      sendPacket (eventBytes 2 t (flagU8 s.report.lost)) (s.setReport { s.report with marks := rest, lost := false })
    | _, _ =>
      if e.blockDone && enabled s 3 then
        sendPacket (eventBytes 3 e.blockDoneTag []) (setEvents { e with blockDone := false } s)
      else if e.standoff && enabled s 4 then
        sendPacket (eventBytes 4 e.standoffTag (s32 e.standoffX ++ s32 e.standoffY))
          (setEvents { e with standoff := false } s)
      else if e.trimForced && enabled s 5 then
        sendPacket (eventBytes 5 e.trimForcedTag []) (setEvents { e with trimForced := false } s)
      else if e.governor && enabled s 6 then
        sendPacket (eventBytes 6 0 (u8 e.governorValue)) (setEvents { e with governor := false } s)
      else if e.link && enabled s 7 then
        sendPacket (eventBytes 7 0 (u8 (linkReasonCode e.linkReason))) (setEvents { e with link := false } s)
      else s.setReport { s.report with lane := none }

/-- The arbiter's choice (R177): the response at the head, or else an event. A reserved place at the head is not yet a
response. -/
def chooseLane (s : State) : State :=
  match s.report.responses with
  | .held r :: rest => sendPacket (responseBytes r) (s.setReport { s.report with responses := rest })
  | .reserved :: _ => chooseEvent s
  | [] => chooseEvent s

/-- The return lane is idle, or the packet on it has ended: the arbiter chooses (log 17). -/
def execReturnLaneChoice (s : State) : Host.Outcome State Fault Refusal := .next (unlessReset s chooseLane)

end Sys2Proof.Machine
end

