-- ==== Sys2Proof/Machine/Link.lean ====
section
/-! DEFINITION. The Link Receiver: the forward lane, the judging of packets, and where they go (R159 to R166). -/

namespace Sys2Proof.Machine

/-! ## Bad packets (R161) -/

/-- A packet is dropped for an impossible length or a bad CRC. -/
def dropBad (s : State) : State :=
  if s.part.state = .running then raiseFault .linkCrc s else raiseLink .badPacket s

/-! ## Stream packets (R162, R164 to R166) -/

/-- A stream packet joins the tail of the intake queue, and PACE follows the fill. -/
def appendIntake (p : Packet) (s : State) : State :=
  s.setLink { s.link with intake := s.link.intake ++ [p], pace := paceUp s (s.link.intake.length + 1) }

/-- A stream packet that passes the checks: refused, queued, or lost to an overrun. -/
def arriveStream (p : Packet) (s : State) : State :=
  if s.part.state = .unconfigured then postResponse ⟨p.kind, p.tag, .refused .notConfigured, []⟩ s
  else if s.link.intake.length < Config.intakeCap then appendIntake p s
  else raiseFault .intakeOverrun s

/-! ## Immediate packets (R163, Table 10.2) -/

/-- The owner of an immediate packet, with the fields of its payload (Table 12.2). -/
def ownerOf (kind : Byte) (payload : List Byte) : State → State × Reply :=
  if kind = kindSetup then ownSetup (setupOf payload)
  else if kind = kindQuery then ownQuery (payload.getD 0 0) (payload.getD 1 0)
  else if kind = kindOverride then ownOverride (payload.getD 0 0)
  else if kind = kindHalt then ownHalt
  else if kind = kindResume then ownResume
  else if kind = kindAbort then ownAbort
  else if kind = kindClearFault then ownClearFault
  else ownEventMask (payload.getD 0 0)

/-! ## Judging a packet (R160) -/

/-- A packet of a kind that names none of the eighteen is answered UNKNOWN. -/
def answerUnknown (kind : Byte) (tag : Tag) (s : State) : State := postResponse ⟨kind, tag, .unknown, []⟩ s

/-- A packet whose CRC agrees: kind, length against kind, sorting. -/
def sortPacket (kind : Byte) (tag : Tag) (payload : List Byte) (s : State) : State :=
  if !isStreamKind kind && !isImmediateKind kind then answerUnknown kind tag s
  else if !lengthFits kind payload.length then dropBad s
  else if isStreamKind kind then arriveStream ⟨kind, tag, payload⟩ s
  else handImmediate kind tag (ownerOf kind payload) s

/-- A whole packet: `len` is its length byte, `body` the kind, two tag bytes, payload and two CRC bytes. -/
def judgePacket (len : Byte) (body : List Byte) (s : State) : State :=
  let n := len.toNat
  if crc (len :: body.take (n + 3)) ≠ BitVec.ofNat 16 (fieldU body (n + 3) 2) then dropBad s
  else sortPacket (body.getD 0 0) (BitVec.ofNat 16 (fieldU body 1 2)) ((body.drop 3).take n) s

/-! ## The lane (R159) -/

/-- The reception state becomes `r`. -/
def setRx (r : Reception) (s : State) : State := s.setLink { s.link with rx := r }

/-- One byte arrives on the forward lane. -/
def forwardByte (s : State) (b : Byte) : State :=
  match s.link.rx with
  | .hunt kept => if kept && b == Config.packetSync2 then setRx .length s else setRx (.hunt (b == Config.sync1)) s
  | .length =>
    if Config.payloadCap < b.toNat then dropBad (setRx (.hunt false) s) else setRx (.body b [] (b.toNat + 5)) s
  | .body len got left =>
    if left ≤ 1 then judgePacket len (got ++ [b]) (setRx (.hunt false) s)
    else setRx (.body len (got ++ [b]) (left - 1)) s

/-- Bytes arrive on the forward lane, one after another. -/
def receiveForward (lane : List Byte) (s : State) : State := lane.foldl forwardByte s

/-- Bytes arrive, the last of a stream packet among them. -/
def execStreamPacketArrival (lane : List Byte) (s : State) : Host.Outcome State Fault Refusal :=
  .next (unlessReset s (receiveForward lane))

/-- Bytes arrive, the last of a packet of an unknown kind among them. -/
def execUnknownKind (lane : List Byte) (s : State) : Host.Outcome State Fault Refusal :=
  .next (unlessReset s (receiveForward lane))

/-- Bytes arrive that make the Receiver drop a packet. -/
def execBadPacketDrop (lane : List Byte) (s : State) : Host.Outcome State Fault Refusal :=
  .next (unlessReset s (receiveForward lane))

end Sys2Proof.Machine
end

