-- ==== Sys2Proof/Machine/Stream.lean ====
section
/-! DEFINITION. The Planner takes the seven packets of the cut program (Chapters 1 and 4): BLOCK, CONTOUR, CUT, CLOSE,
BLOCK-END, MARK and AUX. -/

namespace Sys2Proof.Machine

/-! ## BLOCK (R2, R5, R33) -/

/-- Payload fields of a BLOCK (Table 12.2). -/
def blockHeight (p : Packet) : Nat := fieldU p.payload 0 4
def blockOx (p : Packet) : Int := fieldS p.payload 4
def blockOy (p : Packet) : Int := fieldS p.payload 8
def blockDry (p : Packet) : Bool := flagByte (fieldU p.payload 12 1)

/-- Block top and clear Z (R5). -/
def blockTop (r : Setup) (p : Packet) : Nat := r.tableTop + blockHeight p
def blockClear (r : Setup) (p : Packet) : Nat := blockTop r p + r.clearance

/-- The first check of R2, R5 and R33 that a BLOCK fails. -/
def blockRefusal (r : Setup) (p : Packet) (s : State) : Option Reason :=
  if s.planner.stream ≠ .noBlock then some .sequence
  else if !(within 10000 600000 (blockHeight p) && withinInt (-coordMax) coordMax (blockOx p) &&
      withinInt (-coordMax) coordMax (blockOy p)) then some .range
  else if s.tables.density.isEmpty || !zonePresent s.tables.zone || s.tables.blade.isNone then some .noTable
  else if r.zMax < blockClear r p then some .limit
  else none

/-- The geometry a BLOCK opens (R5). -/
def blockGeometry (r : Setup) (p : Packet) : PlannedBlock :=
  ⟨blockOx p, blockOy p, blockTop r p, blockClear r p, blockDry p, p.tag⟩

/-- A PARKED part is RUNNING once a block is open (R145). -/
def runPart (s : State) : State := if s.part.state = .parked then s.setPartState .running else s

/-- The stream context after a BLOCK (R5). -/
def enterBlock (g : PlannedBlock) (s : State) : State :=
  s.setPlanner { s.planner with stream := .inBlock, block := some g }

/-- An accepted BLOCK: BLOCK-START is made and a block is open (R5, R145). -/
def openBlock (r : Setup) (p : Packet) (s : State) : State :=
  enterBlock (blockGeometry r p)
    (runPart (makeRecord p.tag (.blockStart (blockTop r p) (blockClear r p) (blockDry p) p.tag) 0 false s))

/-- A BLOCK is dealt with. -/
def dealBlock (r : Setup) (p : Packet) (s : State) : State :=
  match blockRefusal r p s with
  | some reason => refusePacket p reason [] s
  | none => openBlock r p s

/-- The Planner takes a BLOCK. -/
def execBlock (s : State) : Host.Outcome State Fault Refusal := .next (unlessReset s (takeAndDeal kindBlock dealBlock))

/-! ## CONTOUR (R4, R8, R27) -/

/-- The point of a CONTOUR or CUT in block coordinates (Table 12.2). -/
def pointX (p : Packet) : Int := fieldS p.payload 0
def pointY (p : Packet) : Int := fieldS p.payload 4

/-- The point in machine coordinates (R4). -/
def machineX (b : PlannedBlock) (p : Packet) : Int := pointX p + b.ox
def machineY (b : PlannedBlock) (p : Packet) : Int := pointY p + b.oy

/-- The point lies within the travel of the setup record (R4). -/
def withinTravel (r : Setup) (x y : Int) : Bool := withinInt 0 r.xMax x && withinInt 0 r.yMax y

/-- The stream context after a CONTOUR at (x, y) (R8, R70). -/
def enterContour (x y : Int) (snap : Snapshot) (s : State) : State :=
  s.setPlanner { s.planner with
    stream := .inContour
    prev := some (x, y)
    contour := some { plunge := snap.plunge, cutPlunge := none }
    memory := .contourStart }

/-- An accepted CONTOUR whose start point's class is `snap` (R8). -/
def openContour (b : PlannedBlock) (p : Packet) (snap : Snapshot) (s : State) : State :=
  let x := machineX b p
  let y := machineY b p
  enterContour x y snap (makeRecord p.tag (.enter x y none snap.plunge) 0 true
    (makeRecord p.tag (.travel x y none) 0 true s))

/-- A CONTOUR is dealt with. A start point without a class, which R26 rules out, stops the model. -/
def dealContour (r : Setup) (p : Packet) (s : State) : Except Fault State :=
  match s.planner.stream, s.planner.block with
  | .inBlock, some b =>
    if !withinTravel r (machineX b p) (machineY b p) then .ok (refusePacket p .limit [] s)
    else match governingClass s.tables (boxOf (pointX p) (pointY p) (pointX p) (pointY p)) with
      | some snap => .ok (openContour b p snap s)
      | none => .error .classUnresolved
  | _, _ => .ok (refusePacket p .sequence [] s)

/-- As `takeAndDeal`, for a packet whose handling reads tables that the laws of the spec keep present. -/
def takeAndTry (kind : Byte) (deal : Setup → Packet → State → Except Fault State) (s : State) :
    Host.Outcome State Fault Refusal :=
  if s.part.inReset then .next s
  else match takePacket kind s with
    | none => .next s
    | some (r, p, s1) =>
      match deal r p s1 with
      | .ok s2 => .next (plannerMoment s2)
      | .error f => .fault f

/-- The Planner takes a CONTOUR. -/
def execContour (s : State) : Host.Outcome State Fault Refusal := takeAndTry kindContour dealContour s

/-! ## CUT (R4, R9 to R11, R51 to R68) -/

/-- Requested feed of a CUT (Table 12.2). -/
def cutFeed (p : Packet) : Nat := fieldU p.payload 8 2

/-- The cap of a CUT (R68). -/
def cutCap (feed : Nat) (snap : Snapshot) (blade : BladeEntry) : Nat :=
  min (if feed = 0 then snap.feedCap else feed) (min snap.feedCap (blade.fMax * snap.pitchMax / 1000))

/-- A trim is due (R62). -/
def trimDue (blade : BladeEntry) (d : Nat) : Bool := decide (blade.trimInterval * 1000000 ≤ d)

/-- A trim is overdue (R62). -/
def trimOverdue (blade : BladeEntry) (d : Nat) : Bool :=
  decide ((blade.trimInterval + blade.trimGrace) * 1000000 ≤ d)

/-- Class of a junction (Table 4.2). -/
inductive Junction where
  | blend
  | swivel
  | lift
  deriving DecidableEq, Repr

/-- The class by the limits B and S alone (R55). -/
def classify (blade : BladeEntry) (delta : Nat) : Junction :=
  if delta ≤ blade.blend then .blend else if delta ≤ blade.swivel then .swivel else .lift

/-- Junction speed of a BLEND (R56). -/
def blendSpeed (blade : BladeEntry) (c1 c2 delta : Nat) : Nat := min c1 c2 * (blade.blend - delta) / blade.blend

/-- What a junction makes: a PIVOT or none, the junction speed, and the trim distance after it (R55 to R65). -/
structure JunctionResult where
  pivot : Option PivotRecord
  speed : Nat
  trimDist : Nat
  deriving DecidableEq, Repr

/-- The junction from heading `h1`, cap `c1` to the new CUT of heading `h2`, cap `c2` and snapshot `snap`, judged
against the trim distance `d` (R67; Table 4.3). -/
def junctionOf (blade : BladeEntry) (h1 c1 h2 c2 : Nat) (snap : Snapshot) (d : Nat) : JunctionResult :=
  if trimOverdue blade d then
    ⟨some ⟨.lift, rotationOf h1 h2, true, true, some snap.plunge⟩, 0, 0⟩
  else match classify blade (headingChange h1 h2) with
    | .blend => ⟨none, blendSpeed blade c1 c2 (headingChange h1 h2), d⟩
    | .swivel => ⟨some ⟨.swivel, rotationOf h1 h2, false, false, none⟩, 0, d⟩
    | .lift =>
      ⟨some ⟨.lift, rotationOf h1 h2, trimDue blade d, false, some snap.plunge⟩, 0,
       if trimDue blade d then 0 else d⟩

/-- The junction of the new CUT, if the contour has a CUT already (R53). -/
def junctionFor (blade : BladeEntry) (cutMade : Bool) (memory : PrevCut) (h2 c2 : Nat) (snap : Snapshot) (d : Nat) :
    JunctionResult :=
  match cutMade, memory with
  | true, .inWindow h1 c1 => junctionOf blade h1 c1 h2 c2 snap d
  | true, .fixed h1 c1 _ => junctionOf blade h1 c1 h2 c2 snap d
  | _, _ => ⟨none, 0, d⟩

/-- A CUT record from the previous point to (x, y) (R10). -/
def cutRecord (x0 y0 x y : Int) (feed : Nat) (snap : Snapshot) (blade : BladeEntry) : CutRecord where
  x0 := x0
  y0 := y0
  x1 := x
  y1 := y
  len := vecLength (x - x0) (y - y0)
  heading := headingOf (x - x0) (y - y0)
  snap := snap
  cap := cutCap feed snap blade
  entry := 0
  exit := 0

/-- The trim distance becomes `d`. -/
def setTrimDist (d : Nat) (s : State) : State := s.setPlanner { s.planner with trimDist := d }

/-- The PIVOT that a junction makes, if it makes one. -/
def makePivot (tag : Tag) (pivot : Option PivotRecord) (s : State) : State :=
  match pivot with
  | some pv => makeRecord tag (.pivot pv) 0 false s
  | none => s

/-- The first CUT of a contour gives its heading to the contour's TRAVEL and ENTER (R11). -/
def fillFirst (k : ContourRecord) (heading : Nat) (s : State) : State :=
  if k.cutPlunge.isNone then s.setPlanner { s.planner with window := fillContour heading s.planner.window } else s

/-- The stream context after CUT `c` (R10, R61). -/
def afterCut (b : PlannedBlock) (k : ContourRecord) (c : CutRecord) (s : State) : State :=
  s.setPlanner { s.planner with
    prev := some (c.x1, c.y1)
    plannedHeading := some c.heading
    contour := some { k with cutPlunge := some c.snap.plunge }
    trimDist := if b.dry then s.planner.trimDist else s.planner.trimDist + c.len }

/-- The junction of a new CUT in the contour of `k` (R53, R67). -/
def cutJunction (k : ContourRecord) (blade : BladeEntry) (c : CutRecord) (s : State) : JunctionResult :=
  junctionFor blade k.cutPlunge.isSome s.planner.memory c.heading c.cap c.snap s.planner.trimDist

/-- An accepted CUT of non-zero length is made, after the PIVOT of its junction (R10, R11, R61, R67). -/
def makeCut (b : PlannedBlock) (k : ContourRecord) (blade : BladeEntry) (c : CutRecord) (p : Packet) (s : State) :
    State :=
  let j := cutJunction k blade c s
  afterCut b k c (makeRecord p.tag (.cut c) j.speed false
    (fillFirst k c.heading (makePivot p.tag j.pivot (setTrimDist j.trimDist s))))

/-- A CUT is dealt with: refused, discarded for zero length (R9), or made. -/
def dealCut (r : Setup) (p : Packet) (s : State) : Except Fault State :=
  match s.planner.stream, s.planner.block, s.planner.prev, s.planner.contour with
  | .inContour, some b, some (x0, y0), some k =>
    if !withinTravel r (machineX b p) (machineY b p) then .ok (refusePacket p .limit [] s)
    else if machineX b p = x0 ∧ machineY b p = y0 then .ok s
    else match s.tables.blade with
      | none => .error .bladeTableAbsent
      | some blade =>
        match governingClass s.tables (boxOf (x0 - b.ox) (y0 - b.oy) (pointX p) (pointY p)) with
        | none => .error .classUnresolved
        | some snap =>
          .ok (makeCut b k blade (cutRecord x0 y0 (machineX b p) (machineY b p) (cutFeed p) snap blade) p s)
  | _, _, _, _ => .ok (refusePacket p .sequence [] s)

/-- The Planner takes a CUT. -/
def execCut (s : State) : Host.Outcome State Fault Refusal := takeAndTry kindCut dealCut s

/-! ## CLOSE (R12, R13, R64) -/

/-- The heading a stab's TRAVEL and ENTER take as its CLOSE is taken (R13): absent while the position is. -/
def stabHeading (s : State) : Option Nat :=
  match s.planner.plannedHeading, s.executor.position with
  | some h, _ => some h
  | none, some pos => some pos.heading
  | none, none => none

/-- The marks of the open contour are dropped from the window. -/
def closeMarks (window : List WindowEntry) : List WindowEntry := window.map fun w => { w with ofOpenContour := false }

/-- Retract speed of the LEAVE (R12). -/
def leaveSpeed (k : ContourRecord) : Nat := k.cutPlunge.getD k.plunge

/-- A stab's TRAVEL and ENTER take their heading, if there is one to take (R13). -/
def fillStab (k : ContourRecord) (s : State) : State :=
  match k.cutPlunge, stabHeading s with
  | none, some h => s.setPlanner { s.planner with window := fillContour h s.planner.window }
  | _, _ => s

/-- The contour's records are no longer those of an open contour, and a trim that is due sets D to 0 (R64). -/
def beginLeave (due : Bool) (s : State) : State :=
  s.setPlanner { s.planner with
    window := closeMarks s.planner.window
    trimDist := if due then 0 else s.planner.trimDist }

/-- The stream context after a CLOSE (R12). -/
def leaveContour (s : State) : State :=
  s.setPlanner { s.planner with stream := .inBlock, prev := none, contour := none }

/-- An accepted CLOSE (R12, R13, R64). -/
def closeContour (k : ContourRecord) (blade : BladeEntry) (p : Packet) (s : State) : State :=
  let due := trimDue blade s.planner.trimDist
  leaveContour (makeRecord p.tag (.leave (leaveSpeed k) due) 0 false (beginLeave due (fillStab k s)))

/-- A CLOSE is dealt with. -/
def dealClose (_r : Setup) (p : Packet) (s : State) : Except Fault State :=
  match s.planner.stream, s.planner.contour with
  | .inContour, some k =>
    match s.tables.blade with
    | some blade => .ok (closeContour k blade p s)
    | none => .error .bladeTableAbsent
  | _, _ => .ok (refusePacket p .sequence [] s)

/-- The Planner takes a CLOSE. -/
def execClose (s : State) : Host.Outcome State Fault Refusal := takeAndTry kindClose dealClose s

/-! ## BLOCK-END (R15) -/

/-- The stream context after a BLOCK-END (R15). -/
def leaveBlock (s : State) : State := s.setPlanner { s.planner with stream := .noBlock, block := none }

/-- A BLOCK-END is dealt with. -/
def dealBlockEnd (_r : Setup) (p : Packet) (s : State) : State :=
  match s.planner.stream, s.planner.block with
  | .inBlock, some b => leaveBlock (makeRecord p.tag (.blockDone b.tag) 0 false s)
  | _, _ => refusePacket p .sequence [] s

/-- The Planner takes a BLOCK-END. -/
def execBlockEnd (s : State) : Host.Outcome State Fault Refusal :=
  .next (unlessReset s (takeAndDeal kindBlockEnd dealBlockEnd))

/-! ## MARK and AUX (R16, R18) -/

/-- An action joins the pending list. -/
def joinAction (a : Action) (s : State) : State :=
  s.setPlanner { s.planner with actions := s.planner.actions ++ [a] }

/-- A list that holds four becomes an ACTIONS record, and then the action joins (R16, R18). -/
def addAction (a : Action) (s : State) : State :=
  joinAction a (if Config.actionCap ≤ s.planner.actions.length then makeActions s else s)

/-- A MARK is dealt with. -/
def dealMark (_r : Setup) (p : Packet) (s : State) : State := addAction (.mark p.tag) s

/-- The Planner takes a MARK. -/
def execMark (s : State) : Host.Outcome State Fault Refusal := .next (unlessReset s (takeAndDeal kindMark dealMark))

/-- The action of an AUX packet (Table 12.2). -/
def auxAction (p : Packet) : Action :=
  .aux p.tag (BitVec.ofNat 8 (fieldU p.payload 0 1)) (BitVec.ofNat 8 (fieldU p.payload 1 1))

/-- An AUX is dealt with. -/
def dealAux (_r : Setup) (p : Packet) (s : State) : State := addAction (auxAction p) s

/-- The Planner takes an AUX. -/
def execAux (s : State) : Host.Outcome State Fault Refusal := .next (unlessReset s (takeAndDeal kindAux dealAux))

end Sys2Proof.Machine
end

