-- ==== Sys2Proof/Machine/TableLoad.lean ====
section
/-! DEFINITION. The Planner takes the three table packets (Chapter 3), and the steps RELEASE and BLADE_TABLE_COMMIT. -/

namespace Sys2Proof.Machine

/-! ## TABLE-OPEN (R36) -/

/-- The empty staging of a table id; none for an id that names no table. -/
def stagingFor (id : Byte) : Option Staged :=
  if id = tableDensity then some (.density [])
  else if id = tableZone then some (.zone [])
  else if id = tableBlade then some (.blade [])
  else none

/-- A TABLE-OPEN is dealt with. -/
def dealTableOpen (_r : Setup) (p : Packet) (s : State) : State :=
  match s.tables.load with
  | some _ => refusePacket p .loadOpen [] s
  | none =>
    match stagingFor (BitVec.ofNat 8 (fieldU p.payload 0 1)) with
    | some st => s.setTables { s.tables with load := some { staged := st, failure := none } }
    | none => refusePacket p .range [] s

/-- The Planner takes a TABLE-OPEN. -/
def execTableOpen (s : State) : Host.Outcome State Fault Refusal :=
  .next (unlessReset s (takeAndDeal kindTableOpen dealTableOpen))

/-! ## TABLE-DATA (R37 to R39) -/

/-- A TABLE-DATA is dealt with: refused with no load open, discarded in a failed load, staged, or the load fails. -/
def dealTableData (_r : Setup) (p : Packet) (s : State) : State :=
  match s.tables.load with
  | none => refusePacket p .noLoad [] s
  | some load =>
    match load.failure with
    | some _ => s
    | none =>
      s.setTables { s.tables with load := some (stageEntry load.staged (fieldU p.payload 0 1) (p.payload.drop 1)) }

/-- The Planner takes a TABLE-DATA. -/
def execTableData (s : State) : Host.Outcome State Fault Refusal :=
  .next (unlessReset s (takeAndDeal kindTableData dealTableData))

/-! ## TABLE-CLOSE (R40 to R44) -/

/-- Payload fields of a TABLE-CLOSE (Table 12.2). -/
def closeCount (p : Packet) : Nat := fieldU p.payload 0 1
def closeCrc (p : Packet) : BitVec 16 := BitVec.ofNat 16 (fieldU p.payload 1 2)

/-- A ZONE or BLADE table may close only in NO-BLOCK (R40). -/
def Staged.needsNoBlock : Staged → Bool
  | .density _ => false
  | .zone _ => true
  | .blade _ => true

/-- The first check of Table 3.3 that a close fails, with the data its refusal carries (R41). -/
def closeRefusal (load : Load) (p : Packet) (s : State) : Option (Reason × List Byte) :=
  match load.failure with
  | some f => some (.loadFailed, failureBytes f)
  | none =>
    if closeCount p ≠ load.staged.count then some (.count, [])
    else if closeCrc p ≠ load.staged.crc then some (.crc, [])
    else if !keepsLaw load.staged s.tables then some (.inconsistent, [])
    else if load.staged.needsNoBlock ∧ s.planner.stream ≠ .noBlock then some (.blockOpen, [])
    else none

/-- The stall of a blade-table commit begins: every record of the window is due (R43, R80). -/
def beginStall (s : State) : State :=
  match s.planner.window with
  | [] => s
  | _ :: rest => s.setPlanner { s.planner.fixMemory with releasePoint := some rest.length }

/-- A close that passes every check: DENSITY and ZONE commit at once, a BLADE entry waits and the Planner stalls
(R42, R43), unless the conditions of R44 hold already and it commits at once, before R19 is applied (log 25). -/
def acceptClose (staged : Staged) (p : Packet) (s : State) : State :=
  match staged with
  | .density es => postResponse ⟨p.kind, p.tag, .accepted, []⟩ (s.setTables { s.tables with density := es })
  | .zone es => postResponse ⟨p.kind, p.tag, .accepted, []⟩ (s.setTables { s.tables with zone := es })
  | .blade es => commitBlade (beginStall (s.setTables { s.tables with waiting := some ⟨lookupKey 0 es, p.tag⟩ }))

/-- A TABLE-CLOSE is dealt with; whatever the outcome, no load is open after it (R40). -/
def dealTableClose (_r : Setup) (p : Packet) (s : State) : State :=
  match s.tables.load with
  | none => refusePacket p .noLoad [] s
  | some load =>
    match closeRefusal load p s with
    | some (reason, data) => refusePacket p reason data (abandonLoad s)
    | none => acceptClose load.staged p (abandonLoad s)

/-- The Planner takes a TABLE-CLOSE. -/
def execTableClose (s : State) : Host.Outcome State Fault Refusal :=
  .next (unlessReset s (takeAndDeal kindTableClose dealTableClose))

/-! ## RELEASE and BLADE_TABLE_COMMIT -/

/-- The Planner applies the release rules (R78 to R83) and R19. -/
def execRelease (s : State) : Host.Outcome State Fault Refusal :=
  .next (unlessReset s plannerMoment)

/-- The waiting blade table commits when the conditions of R44 hold. -/
def execBladeTableCommit (s : State) : Host.Outcome State Fault Refusal := .next (unlessReset s commitBlade)

end Sys2Proof.Machine
end

