-- ==== Sys2Proof/Machine/Dispatch.lean ====
section
/-! DEFINITION. The meaning of every command: one arm per constructor, each one direct call. -/

namespace Sys2Proof.Machine

def exec (i : Instr) (s : State) : Host.Outcome State Fault Refusal :=
  match i with
  | .streamPacketArrival lane => Sys2Proof.Machine.execStreamPacketArrival lane s
  | .unknownKind lane => Sys2Proof.Machine.execUnknownKind lane s
  | .badPacketDrop lane => Sys2Proof.Machine.execBadPacketDrop lane s
  | .block => Sys2Proof.Machine.execBlock s
  | .contour => Sys2Proof.Machine.execContour s
  | .cut => Sys2Proof.Machine.execCut s
  | .close => Sys2Proof.Machine.execClose s
  | .blockEnd => Sys2Proof.Machine.execBlockEnd s
  | .mark => Sys2Proof.Machine.execMark s
  | .aux => Sys2Proof.Machine.execAux s
  | .tableOpen => Sys2Proof.Machine.execTableOpen s
  | .tableData => Sys2Proof.Machine.execTableData s
  | .tableClose => Sys2Proof.Machine.execTableClose s
  | .bladeTableCommit => Sys2Proof.Machine.execBladeTableCommit s
  | .release => Sys2Proof.Machine.execRelease s
  | .setup tag fields => Sys2Proof.Machine.execSetup tag fields s
  | .queryStatus tag tableId => Sys2Proof.Machine.execQueryStatus tag tableId s
  | .queryPosition tag tableId => Sys2Proof.Machine.execQueryPosition tag tableId s
  | .queryTable tag tableId => Sys2Proof.Machine.execQueryTable tag tableId s
  | .querySetup tag tableId => Sys2Proof.Machine.execQuerySetup tag tableId s
  | .override tag requested => Sys2Proof.Machine.execOverride tag requested s
  | .halt tag => Sys2Proof.Machine.execHalt tag s
  | .resume tag => Sys2Proof.Machine.execResume tag s
  | .abort tag => Sys2Proof.Machine.execAbort tag s
  | .clearFault tag => Sys2Proof.Machine.execClearFault tag s
  | .eventMask tag enables => Sys2Proof.Machine.execEventMask tag enables s
  | .frame => Sys2Proof.Machine.execFrame s
  | .driveLink => Sys2Proof.Machine.execDriveLink s
  | .governorEvaluation => Sys2Proof.Machine.execGovernorEvaluation s
  | .bladeJam => Sys2Proof.Machine.execBladeJam s
  | .lockTimeout => Sys2Proof.Machine.execLockTimeout s
  | .trimTimeout => Sys2Proof.Machine.execTrimTimeout s
  | .dwellTimeout => Sys2Proof.Machine.execDwellTimeout s
  | .standoff => Sys2Proof.Machine.execStandoff s
  | .holdEntry => Sys2Proof.Machine.execHoldEntry s
  | .abortStopEnd => Sys2Proof.Machine.execAbortStopEnd s
  | .stopped => Sys2Proof.Machine.execStopped s
  | .recoverRetractEnd => Sys2Proof.Machine.execRecoverRetractEnd s
  | .returnFrame lane => Sys2Proof.Machine.execReturnFrame lane s
  | .stopAsserted => Sys2Proof.Machine.execStopAsserted s
  | .stopReleased => Sys2Proof.Machine.execStopReleased s
  | .reset => Sys2Proof.Machine.execReset s
  | .returnLaneChoice => Sys2Proof.Machine.execReturnLaneChoice s
  | .partialFrameDiscard => Sys2Proof.Machine.execPartialFrameDiscard s
  | .resetReleased => Sys2Proof.Machine.execResetReleased s
  | .queryItemRange tag item tableId => Sys2Proof.Machine.execQueryItemRange tag item tableId s

end Sys2Proof.Machine
end

