-- ==== Sys2Proof/Safety.lean ====
section
/-! DEFINITION. What counts as a sound state and a safe run, in the terms the statements use. -/

namespace Sys2Proof.Machine

/-! ## Records held -/

/-- The records made and not yet begun, in their order: the execution queue, then the lookahead window. A release
moves a record from one to the other and leaves this list as it is. -/
def State.records (s : State) : List Record := s.executor.queue ++ s.planner.window.map fun w => w.record

/-! ## Capacities and ranges -/

/-- Every queue, list and count is within the bound the spec gives it, and no place of the response queue is reserved
between two commands: R1 (actions), R69 (window), R96, R98 (overrides and counts), R104 (execution queue), R131 (missed
frames), R149 (further faults), R164 (intake queue), R173 (responses), R176 (marks), R179 (held load and heading). -/
structure Bounded (s : State) : Prop where
  intake : s.link.intake.length ≤ 64
  window : s.planner.window.length ≤ 24
  queue : s.executor.queue.length ≤ 32
  actions : s.planner.actions.length ≤ 4
  responses : s.report.responses.length ≤ 16
  noneReserved : ∀ p ∈ s.report.responses, p ≠ .reserved
  marks : s.report.marks.length ≤ 8
  operator : 25 ≤ s.governor.operator ∧ s.governor.operator ≤ 100
  override : 25 ≤ s.governor.override ∧ s.governor.override ≤ 100
  evalCount : s.governor.evalCount ≤ 15
  jamCount : s.governor.jamCount ≤ 8
  missed : s.port.missed ≤ 255
  further : s.part.record.further ≤ 255
  load : s.port.held.load ≤ 250
  heading : s.port.held.heading < 36000

/-! ## Tables -/

/-- Every class the active zone table names is present in the active density table, and a zone table that holds any
entry holds its default class (R24, R32). -/
def TableStore.consistent (t : TableStore) : Prop :=
  classesPresent t.zone t.density = true ∧ (t.zone = [] ∨ zonePresent t.zone = true)

/-! ## Frames -/

/-- What the taking of a stream packet that raises no fault leaves alone in the blocks behind the Planner: Stroke Unit,
Load Governor, Drive Link Port, the waiting commands, the Part Controller but for PARKED or RUNNING, and the Executor
but for its queue and the dwell timer that a release stops. -/
structure PlannerOnly (s t : State) : Prop where
  keptFreq : t.keptFreq = s.keptFreq
  governor : t.governor = s.governor
  port : t.port = s.port
  pending : t.pending = s.pending
  part : t.part = { s.part with state := t.part.state }
  executor : t.executor = { s.executor with queue := t.executor.queue, dwellTimer := t.executor.dwellTimer }

/-- What an event of the Executor leaves alone: the links, the tables, the Planner, the Stroke Unit, the Load Governor,
the Drive Link Port and the waiting commands. -/
structure ExecutorOnly (s t : State) : Prop where
  link : t.link = s.link
  tables : t.tables = s.tables
  planner : t.planner = s.planner
  keptFreq : t.keptFreq = s.keptFreq
  governor : t.governor = s.governor
  port : t.port = s.port
  pending : t.pending = s.pending

/-! ## What one command needs -/

/-- The packet `p` of kind `kind` stands at the head of the intake queue, with `rest` behind it, under setup record `r`,
and the Planner may take it: the part is PARKED or RUNNING without an abort stop, no blade table waits, and the window
holds at most 22 records, or 23 with a head that can be released at once (R43, R84, R86). -/
structure Takes (kind : Byte) (r : Setup) (p : Packet) (rest : List Packet) (s : State) : Prop where
  running : s.part.inReset = false
  works : s.part.state = .parked ∨ s.part.state = .running
  noAbort : s.part.abortFlag = false
  noStall : s.tables.waiting = none
  room : s.planner.window.length ≤ 22 ∨ (s.planner.window.length = 23 ∧ s.executor.queue.length < 32 ∧
    ∀ w ∈ s.planner.window.head?, w.record.body.headless = false)
  setup : s.part.setup = some r
  head : s.link.intake = p :: rest
  kind : p.kind = kind

/-- The Link Receiver once the packet at its head has been taken, under setup record `r`, and `rest` stands behind it:
PACE becomes RELEASED when the fill comes down to the low mark (R166). -/
def LinkReceiver.left (l : LinkReceiver) (r : Setup) (rest : List Packet) : LinkReceiver :=
  { l with intake := rest, pace := l.pace && decide (r.paceLow < rest.length) }

/-- An immediate packet that is let through in every part state reaches its owner: the part is not in reset, and the
response queue has an empty place and no reserved one (R163, R173). -/
structure Answerable (s : State) : Prop where
  running : s.part.inReset = false
  place : s.report.responses.length < 16
  noneReserved : ∀ p ∈ s.report.responses, p ≠ .reserved

/-- An immediate packet of a configured part reaches its owner: the part is not in reset, and the response queue has an
empty place and no reserved one (R163, R173). -/
structure Reaches (s : State) : Prop where
  running : s.part.inReset = false
  configured : s.part.state ≠ .unconfigured
  place : s.report.responses.length < 16
  noneReserved : ∀ p ∈ s.report.responses, p ≠ .reserved

/-- `s` with the response `r` at the tail of its response queue. -/
def State.respond (s : State) (r : Response) : State :=
  { s with report := { s.report with responses := s.report.responses ++ [.held r] } }

/-- `s` with the LINK event raised for want of a place in the response queue (R174). -/
def State.responseFull (s : State) : State :=
  { s with report := { s.report with
    events := { s.report.events with link := true, linkReason := some .responseFull } } }

/-- `s` with the Link Receiver hunting for the next packet (R159). -/
def State.hunting (s : State) : State := { s with link := { s.link with rx := .hunt false } }

/-- The part is worked by the drive link: not in reset, sending, and with the blade table present. -/
structure Framing (b : BladeEntry) (r : Setup) (s : State) : Prop where
  running : s.part.inReset = false
  sending : s.port.sending = true
  setup : s.part.setup = some r
  blade : s.tables.blade = some b

/-- No evaluation, jam, third miss or expiry that an earlier frame left due is still to be taken. -/
structure Quiet (s : State) : Prop where
  evalDue : s.governor.evalDue = none
  jamDue : s.governor.jamDue = false
  linkDue : s.port.linkDue = false
  lock : s.executor.lockTimer.expired = false
  trim : s.executor.trimTimer.expired = false
  dwell : s.executor.dwellTimer.expired = false

/-- Nothing that an earlier frame left due is still to be taken, and neither a halt nor an abort is in progress. -/
structure Calm (s : State) : Prop extends Quiet s where
  noHalt : s.executor.haltRequest = false
  noAbort : s.part.abortFlag = false
  stepDone : s.executor.stepDone = false

/-! ## What a frame starts (R107) -/

/-- The states in which the Executor, with no record in progress, begins the next one without re-entering the foam
first: all but STANDOFF, HOLD, STOPPING, STOPPED and the retracts that follow no record (R107, R125). -/
def ExecState.begins : ExecState → Bool
  | .idle | .travel | .spinup | .plunge | .cut | .swivel | .retract .leave | .retract .lift | .rotate | .trim
  | .dwell => true
  | .retract .standoff | .retract .abort | .retract .recover | .standoff _ | .hold _ | .stopping | .stopped => false

/-- The Executor of a calm part has no record in progress, at `pos`, and the start of the next frame begins a record or
looks for its rest (R107, R124). -/
structure Free (b : BladeEntry) (r : Setup) (pos : Position) (s : State) : Prop extends Framing b r s, Calm s where
  position : s.executor.position = some pos
  free : s.executor.free = true
  noReentry : s.executor.reentering = false
  noStandoff : s.executor.standoffPending = false

/-- The tags that the MARKs of a record's actions report (R17, R176). -/
def marksOf : List Action → List Tag
  | [] => []
  | .mark t :: as => t :: marksOf as
  | .aux _ _ _ :: as => marksOf as

/-- The auxiliary lines after a record's actions: each AUX gives the lines of its mask the values it carries (R140). -/
def linesAfter : List Action → Lines → Lines
  | [], lines => lines
  | .mark _ :: as, lines => linesAfter as lines
  | .aux _ mask values :: as, lines => linesAfter as ((lines &&& ~~~mask) ||| (values &&& mask))

/-- The actions `as` have been performed between `s` and `t`: the lines are switched, and the marks join the mark report
queue up to eight, the lost flag telling of those beyond (R17, R140, R176). -/
structure Performs (as : List Action) (s t : State) : Prop where
  lines : t.port.lines = linesAfter as s.port.lines
  marks : s.report.marks.length ≤ 8 → t.report.marks = (s.report.marks ++ marksOf as).take 8
  lost : s.report.marks.length ≤ 8 →
    t.report.lost = (s.report.lost || decide (8 < s.report.marks.length + (marksOf as).length))

/-- How many records the release rules move together, with `n` records in the execution queue: those due, one from a
full window, and up to two in the queue while no packet waits, as far as the room goes and up to a record without its
heading (R78 to R83). -/
def State.callsFor (s : State) (n : Nat) : Nat :=
  min (max s.planner.dueCount (max (s.planner.window.length - 23) (if s.link.intake = [] then 2 - n else 0)))
    (min (32 - n) (s.planner.window.takeWhile fun w => !w.record.body.headless).length)

/-- The release rules have been applied to `s` with `left` in the execution queue: the records they call for have gone
from the head of the window to the tail of the queue, and the release point has moved with them (R78 to R83). -/
structure Released (left : List Record) (s t : State) : Prop where
  queue : t.executor.queue = left ++ (s.planner.window.take (s.callsFor left.length)).map fun w => w.record
  window : t.planner.window = s.planner.window.drop (s.callsFor left.length)
  releasePoint : t.planner.releasePoint =
    if s.planner.dueCount ≤ s.callsFor left.length then none
    else some (s.planner.dueCount - 1 - s.callsFor left.length)

/-- The record `q` has been begun between `s` and `t`, with `rest` behind it in the queue: it is current, its tag and
any plunge speed are taken, its actions are performed, the re-entry point is absent and the dwell timer stopped (R107,
R124, R125), and the release rules have been applied behind it: by a part at work, without an abort stop, as `Released`
says, when no ACTIONS record is to be made too (R83). Links, tables, responses, fault record and the waiting commands
stay. -/
structure Begun (q : Record) (rest : List Record) (s t : State) : Prop extends Performs q.actions s t where
  tag : t.executor.currentTag = q.tag
  current : ∃ c, t.executor.current = some c ∧ c.record = q
  plunge : t.executor.heldPlunge = (match q.body with
    | .cut c => some c.snap.plunge
    | .enter _ _ _ p => some p
    | .pivot p => p.plunge.or s.executor.heldPlunge
    | _ => s.executor.heldPlunge)
  reentry : t.executor.reentry = none
  dwell : t.executor.dwellTimer = .stopped
  queue : rest <+: t.executor.queue
  released : s.part.state = .parked ∨ s.part.state = .running → s.part.abortFlag = false →
    s.link.intake ≠ [] ∨ s.planner.actions = [] → Released rest s t
  link : t.link = s.link
  tables : t.tables = s.tables
  responses : t.report.responses = s.report.responses
  record : t.part.record = s.part.record
  pending : t.pending = s.pending

/-- What a frame leaves alone that begins no record and completes none: the links, the tables, the Planner, the Part
Controller, the Report Unit, the execution queue and the waiting commands. -/
structure FrameOnly (s t : State) : Prop where
  link : t.link = s.link
  tables : t.tables = s.tables
  planner : t.planner = s.planner
  part : t.part = s.part
  report : t.report = s.report
  queue : t.executor.queue = s.executor.queue
  tag : t.executor.currentTag = s.executor.currentTag
  block : t.executor.block = s.executor.block
  heldPlunge : t.executor.heldPlunge = s.executor.heldPlunge
  lines : t.port.lines = s.port.lines
  pending : t.pending = s.pending

/-- The Load Governor after a frame that is counted, in a CUT of load ceiling `ceiling`, or that is not: the sixteenth
counted frame leaves an evaluation due and the count at 0 (R99). -/
def Governor.afterFrame (counts : Bool) (ceiling : Nat) (g : Governor) : Governor :=
  if counts = false then g
  else if g.evalCount + 1 < 16 then { g with evalCount := g.evalCount + 1 }
  else { g with evalCount := 0, evalDue := some ceiling }

/-- The CUTs along the path from `c` on, up to the first record that is neither a CUT nor an ACTIONS (R112). -/
def pathCuts (c : CutRecord) : List Record → List CutRecord
  | [] => [c]
  | q :: rest =>
    match q.body with
    | .cut k => c :: pathCuts k rest
    | .actions => pathCuts c rest
    | _ => [c]

/-! ## Table entry fields (Tables 2.1 to 2.3) -/

/-- Field `n` of a density entry lies in its range of Table 2.1. -/
def densityFieldOk (e : DensityEntry) : Nat → Prop
  | 1 => 1 ≤ e.feedCap ∧ e.feedCap ≤ 500
  | 2 => 50 ≤ e.pitchTarget ∧ e.pitchTarget ≤ 4000
  | 3 => e.pitchTarget ≤ e.pitchMax ∧ e.pitchMax ≤ 8000
  | 4 => 1 ≤ e.plunge ∧ e.plunge ≤ 200
  | 5 => 10 ≤ e.ceiling ∧ e.ceiling ≤ 200
  | _ => True

/-- Field `n` of a zone entry lies in its range of Table 2.2: one field for entry 0, five for a rectangle. -/
def zoneFieldOk : ZoneEntry → Nat → Prop
  | .dflt cls, 1 => cls ≤ 15
  | .rect xLo _ _ _ _, 1 => -4000000 ≤ xLo ∧ xLo ≤ 4000000
  | .rect _ yLo _ _ _, 2 => -4000000 ≤ yLo ∧ yLo ≤ 4000000
  | .rect xLo _ xHi _ _, 3 => xLo ≤ xHi ∧ xHi ≤ 4000000
  | .rect _ yLo _ yHi _, 4 => yLo ≤ yHi ∧ yHi ≤ 4000000
  | .rect _ _ _ _ cls, 5 => cls ≤ 15
  | _, _ => True

/-- Field `n` of the blade entry lies in its range of Table 2.3. -/
def bladeFieldOk (b : BladeEntry) : Nat → Prop
  | 1 => 20 ≤ b.fMin ∧ b.fMin ≤ 400
  | 2 => b.fMin ≤ b.fMax ∧ b.fMax ≤ 400
  | 3 => b.fMin ≤ b.fPlunge ∧ b.fPlunge ≤ b.fMax
  | 4 => 100 ≤ b.blend ∧ b.blend ≤ 4500
  | 5 => b.blend ≤ b.swivel ∧ b.swivel ≤ 9000
  | 6 => 1000 ≤ b.swivelRate ∧ b.swivelRate ≤ 36000
  | 7 => 1000 ≤ b.airRate ∧ b.airRate ≤ 72000
  | 8 => b.lead ≤ 20000
  | 9 => 1 ≤ b.trimInterval ∧ b.trimInterval ≤ 100
  | 10 => b.trimGrace ≤ 50
  | 11 => 50 ≤ b.lockTimeout ∧ b.lockTimeout ≤ 2000
  | 12 => 50 ≤ b.trimTimeout ∧ b.trimTimeout ≤ 2000
  | 13 => b.dwellTimeout ≤ 10000
  | _ => True

/-- A density entry whose fields a payload can carry (Table 12.3). -/
def DensityEntry.fits (e : DensityEntry) : Prop :=
  e.feedCap < 65536 ∧ e.pitchTarget < 65536 ∧ e.pitchMax < 65536 ∧ e.plunge < 256 ∧ e.ceiling < 256

/-- A zone entry whose fields a payload can carry (Table 12.3). -/
def ZoneEntry.fits : ZoneEntry → Prop
  | .dflt cls => cls < 256
  | .rect xLo yLo xHi yHi cls => (-2 ^ 31 ≤ xLo ∧ xLo < 2 ^ 31) ∧ (-2 ^ 31 ≤ yLo ∧ yLo < 2 ^ 31) ∧
      (-2 ^ 31 ≤ xHi ∧ xHi < 2 ^ 31) ∧ (-2 ^ 31 ≤ yHi ∧ yHi < 2 ^ 31) ∧ cls < 256

/-- A blade entry whose fields a payload can carry (Table 12.3). -/
def BladeEntry.fits (b : BladeEntry) : Prop :=
  b.fMin < 65536 ∧ b.fMax < 65536 ∧ b.fPlunge < 65536 ∧ b.blend < 65536 ∧ b.swivel < 65536 ∧ b.swivelRate < 65536 ∧
  b.airRate < 2 ^ 32 ∧ b.lead < 65536 ∧ b.trimInterval < 256 ∧ b.trimGrace < 256 ∧ b.lockTimeout < 65536 ∧
  b.trimTimeout < 65536 ∧ b.dwellTimeout < 65536

/-- A zone entry that stands under its index: the default class at 0, a rectangle at 1 to 16 (Table 2.2). -/
def ZoneEntry.standsAt : ZoneEntry → Nat → Prop
  | .dflt _, index => index = 0
  | .rect _ _ _ _ _, index => 1 ≤ index ∧ index ≤ 16

/-- The byte widths of the fields that follow the index `index` in an entry of the table of `staged` (Table 12.3). -/
def fieldWidths (staged : Staged) (index : Nat) : List Nat :=
  match staged with
  | .density _ => [2, 2, 2, 1, 1]
  | .zone _ => if index = 0 then [1] else [4, 4, 4, 4, 1]
  | .blade _ => [2, 2, 2, 2, 2, 2, 4, 2, 1, 1, 2, 2, 2]

/-- The greatest index of an entry of the table of `staged` (R21, R23, R30). -/
def lastIndex : Staged → Nat
  | .density _ => 15
  | .zone _ => 16
  | .blade _ => 0

/-! ## SETUP fields (Table 9.2) -/

/-- Field `n` of a setup record lies in its range of Table 9.2. -/
def setupFieldOk (r : Setup) : Nat → Prop
  | 1 => r.period = 1 ∨ r.period = 2 ∨ r.period = 4
  | 2 => 100 ≤ r.accel ∧ r.accel ≤ 20000
  | 3 => r.accel ≤ r.stopDecel ∧ r.stopDecel ≤ 40000
  | 4 => 10 ≤ r.travelSpeed ∧ r.travelSpeed ≤ 1000
  | 5 => 10 ≤ r.zAirSpeed ∧ r.zAirSpeed ≤ 500
  | 6 => 1 ≤ r.xMax ∧ r.xMax ≤ 4000000
  | 7 => 1 ≤ r.yMax ∧ r.yMax ≤ 2500000
  | 8 => 1 ≤ r.zMax ∧ r.zMax ≤ 800000
  | 9 => r.tableTop ≤ r.zMax
  | 10 => r.zCut + 1 ≤ r.tableTop
  | 11 => 1000 ≤ r.clearance ∧ r.clearance ≤ 50000
  | 12 => 4 ≤ r.paceHigh ∧ r.paceHigh ≤ 63
  | 13 => r.paceLow + 4 ≤ r.paceHigh
  | _ => True

end Sys2Proof.Machine
end

