-- ==== Sys2Proof/Certificates/Slice0/Obligations.lean ====
section
/-! DEFINITION. The statements about the part. Each docstring names the rules of spec/ its
statement draws on; OBLIGATIONS.json cites a rule only where the statement says the whole of it. -/

open Sys2Proof Sys2Proof.Machine

/-! ## The step and reset -/

/-- One step takes the command at the front of the queue and carries it out on the state with the rest of the queue;
with none waiting the part idles (the model's choice, log 2). -/
def Obligations.StepTakesFrontCommand : Prop :=
  (∀ (c : Instr) (rest : List Instr) (s : State),
    step { s with pending := c :: rest } = exec c { s with pending := rest }) ∧
  ∀ s : State, s.pending = [] → step s = .next s

/-- R1, R105, R131, R144, R158, R159, R164, R166, R175, Table 9.4: RESET, and its release, put every block into its
reset state, each field of each listed here, and the part is UNCONFIGURED; while RESET holds the part in reset PACE is
ASSERTED and the return lane idle. The model's choices: in reset no command but the lines STOP and RESET changes
anything, and the release changes nothing outside reset (R158 speaks of the links; log 24); the level of the STOP input
and the waiting commands stay (log 7); the fields of the model's own form are absent, clear or 0 (log 8); the fault
record without cause has tag 0 and no position (log 26). -/
def Obligations.ResetClearsEveryBlock : Prop :=
  let cleared := fun (held : Bool) (s : State) => ({
    link := { rx := .hunt false, intake := [], pace := held }
    tables := { density := [], zone := [], blade := none, load := none, waiting := none }
    planner := { stream := .noBlock, block := none, prev := none, contour := none, plannedHeading := none,
                 actions := [], memory := .none, trimDist := 0, window := [], releasePoint := none, boundary := 0 }
    executor := { state := .idle, position := none, current := none, currentTag := 0, block := none,
                  heldPlunge := none, lockTimer := .stopped, trimTimer := .stopped, dwellTimer := .stopped,
                  spinupFrame := none, trimFrame := none, haltRequest := false, reentry := none, queue := [],
                  zMove := none, stepDone := false, reentering := false, standoffPending := false,
                  beganInHold := false }
    keptFreq := 0
    governor := { operator := 100, override := 100, evalCount := 0, jamCount := 0, evalDue := none,
                  jamDue := false }
    port := { sending := false, frameNo := 0,
              held := { x := 0, y := 0, z := 0, heading := 0, ready := 0, alarm := false, lock := false,
                        trimDone := false, load := 0, echo := 0 },
              received := false, missed := 0, trimRequest := false, lines := 0, dropMask := 0, rx := .hunt false,
              sentAny := false, linkDue := false, outLane := [] }
    part := { state := .unconfigured, setup := none, abortFlag := false, stopInput := s.part.stopInput,
              inReset := held, record := { cause := none, tag := 0, position := none, further := 0 } }
    report := { enables := 127, responses := [], marks := [], lost := false, lane := none,
                events := { fault := false, faultCode := none, faultTag := 0, blockDone := false, blockDoneTag := 0,
                            standoff := false, standoffTag := 0, standoffX := 0, standoffY := 0, trimForced := false,
                            trimForcedTag := 0, governor := false, governorValue := 0, link := false,
                            linkReason := none } }
    pending := s.pending } : State)
  (∀ s : State, exec .reset s = .next (cleared true s)) ∧
  (∀ s : State, s.part.inReset = true → exec .resetReleased s = .next (cleared false s)) ∧
  (∀ s : State, s.part.inReset = false → exec .resetReleased s = .next s) ∧
  ∀ (c : Instr) (s : State), s.part.inReset = true →
    c ≠ .stopAsserted → c ≠ .stopReleased → c ≠ .reset → c ≠ .resetReleased → exec c s = .next s

/-! ## The motion link -/

/-- R160, R162, R164 to R166: the bytes of a stream packet, found in HUNT, put it at the tail of the intake queue as it
came, and PACE becomes ASSERTED when the fill reaches the high mark; nothing else changes. In UNCONFIGURED it is
answered NOT-CONFIGURED and does not enter the queue; at a full queue it is lost and INTAKE-OVERRUN is raised, as first
cause or as a further fault. -/
def Obligations.StreamPacketIsTakenIn : Prop :=
  (∀ (s : State) (kept : Bool) (kind : Byte) (tag : Tag) (payload : List Byte) (r : Setup),
    s.part.inReset = false → s.link.rx = .hunt kept → 1 ≤ kind.toNat ∧ kind.toNat ≤ 10 → payload.length ≤ 48 →
    lengthFits kind payload.length = true → s.part.state ≠ .unconfigured → s.part.setup = some r →
    s.link.intake.length < 64 →
    exec (.streamPacketArrival (packetBytes kind tag payload)) s = .next { s with
      link := { rx := .hunt false, intake := s.link.intake ++ [⟨kind, tag, payload⟩],
                pace := s.link.pace || decide (s.link.intake.length + 1 = r.paceHigh) } }) ∧
  ∀ (s : State) (kept : Bool) (kind : Byte) (tag : Tag) (payload : List Byte),
    s.part.inReset = false → s.link.rx = .hunt kept → 1 ≤ kind.toNat ∧ kind.toNat ≤ 10 → payload.length ≤ 48 →
    lengthFits kind payload.length = true →
    ∃ t, exec (.streamPacketArrival (packetBytes kind tag payload)) s = .next t ∧
      (s.part.state = .unconfigured → t.link.intake = s.link.intake ∧ t.part = s.part ∧
        (s.report.responses.length < 16 →
          t.report.responses = s.report.responses ++ [.held ⟨kind, tag, .refused .notConfigured, []⟩])) ∧
      (s.part.state ≠ .unconfigured → s.link.intake.length = 64 →
        t.link.intake = s.link.intake ∧ t.link.pace = s.link.pace ∧ t.report.responses = s.report.responses ∧
        t.part.state = .fault ∧
        (s.part.state = .fault →
          t.part.record = { s.part.record with further := min 255 (s.part.record.further + 1) }) ∧
        (s.part.state ≠ .fault → t.part.record =
          { cause := some .intakeOverrun, tag := s.executor.currentTag, position := s.executor.position,
            further := 0 }))

/-- R160, R163, R174: a packet with a good CRC whose kind names none of the eighteen is answered UNKNOWN, in every part
state, and is acted on no further. In UNCONFIGURED an OVERRIDE, HALT, RESUME, ABORT or CLEAR-FAULT is answered
NOT-CONFIGURED and changes nothing. With the response queue full any immediate packet is discarded unhandled, any other
response is lost, and all that happens is the LINK event with reason RESPONSE-FULL. -/
def Obligations.PacketsThatReachNoOwner : Prop :=
  (∀ (s : State) (kept : Bool) (kind : Byte) (tag : Tag) (payload : List Byte),
    s.part.inReset = false → s.link.rx = .hunt kept → payload.length ≤ 48 →
    kind.toNat = 0 ∨ (10 < kind.toNat ∧ kind.toNat < 16) ∨ 23 < kind.toNat →
    (s.report.responses.length < 16 →
      exec (.unknownKind (packetBytes kind tag payload)) s = .next (s.hunting.respond ⟨kind, tag, .unknown, []⟩)) ∧
    (s.report.responses.length = 16 →
      exec (.unknownKind (packetBytes kind tag payload)) s = .next s.hunting.responseFull)) ∧
  (∀ (tag : Tag) (v : Byte) (s : State) (c : Instr) (kind : Byte), s.part.inReset = false →
    (c, kind) ∈ [(.override tag v, 0x12), (.halt tag, 0x13), (.resume tag, 0x14), (.abort tag, 0x15),
      (.clearFault tag, (0x16 : Byte))] →
    s.part.state = .unconfigured → s.report.responses.length < 16 →
    exec c s = .next (s.respond ⟨kind, tag, .refused .notConfigured, []⟩)) ∧
  (∀ (tag : Tag) (v w : Byte) (fields : Setup) (s : State) (c : Instr), s.part.inReset = false →
    c ∈ [.setup tag fields, .queryStatus tag v, .queryPosition tag v, .queryTable tag v, .querySetup tag v,
      .queryItemRange tag v w, .override tag v, .halt tag, .resume tag, .abort tag, .clearFault tag,
      .eventMask tag v] →
    s.report.responses.length = 16 → exec c s = .next s.responseFull) ∧
  ∀ (r : Response) (s : State), (s.report.responses.length < 16 → postResponse r s = s.respond r) ∧
    (s.report.responses.length = 16 → postResponse r s = s.responseFull)

/-- R159, R160, R161: a length above 48, a CRC that differs, or a length its kind does not allow, drops the packet
unanswered. RUNNING, also in an abort stop, that is the fault LINK-CRC, taken as first cause; in any other part state
the LINK event with reason BAD-PACKET. Nothing of the packet is kept or reported: the fault record and the FAULT event
carry the Executor's current tag, and the rest of the report, the lanes, the tables and the Planner stay as they were.
-/
def Obligations.BadPacketIsDropped : Prop :=
  ∀ (s : State) (kept : Bool) (lane : List Byte), s.part.inReset = false → s.link.rx = .hunt kept →
    ((∃ len : Byte, 48 < len.toNat ∧ lane = [0xA5, 0x3C, len]) ∨
     (∃ (kind : Byte) (tag : Tag) (payload : List Byte) (c : BitVec 16), payload.length ≤ 48 ∧
       c ≠ crc (coveredBytes kind tag payload) ∧
       lane = [0xA5, 0x3C] ++ coveredBytes kind tag payload ++ tagBytes c) ∨
     (∃ (kind : Byte) (tag : Tag) (payload : List Byte), payload.length ≤ 48 ∧
       ((1 ≤ kind.toNat ∧ kind.toNat ≤ 10) ∨ (16 ≤ kind.toNat ∧ kind.toNat ≤ 23)) ∧
       lengthFits kind payload.length = false ∧ lane = packetBytes kind tag payload)) →
    ∃ t, exec (.badPacketDrop lane) s = .next t ∧ t.link = { s.link with rx := .hunt false } ∧
      t.report.responses = s.report.responses ∧
      (s.part.state = .running → t = { s with
        link := { s.link with rx := .hunt false }
        part := { s.part with
          state := .fault
          record :=
            { cause := some .linkCrc, tag := s.executor.currentTag, position := s.executor.position, further := 0 }
          abortFlag := false }
        port := { s.port with lines := s.port.lines &&& ~~~s.port.dropMask, trimRequest := false }
        report := { s.report with
          events := { s.report.events with
            fault := true, faultCode := some .linkCrc, faultTag := s.executor.currentTag } }
        executor := t.executor } ∧
        t.executor.queue = s.executor.queue ∧ t.executor.current = s.executor.current ∧
        t.executor.currentTag = s.executor.currentTag ∧ t.executor.position = s.executor.position ∧
        (t.executor.state = .stopping ∨ t.executor.state = .stopped)) ∧
      (s.part.state ≠ .running → t = { s with
        link := { s.link with rx := .hunt false }
        report := { s.report with
          events := { s.report.events with link := true, linkReason := some .badPacket } } })

/-- R163, R178, Table 12.2: the bytes of an immediate packet, found in HUNT, have the effect of its command with the
operands its payload spells. That an immediate packet has two ways in, its bytes and its command, is the model's choice
(log 5). -/
def Obligations.ImmediateBytesAreTheCommand : Prop :=
  ∀ (s : State) (kept : Bool) (tag : Tag), s.link.rx = .hunt kept → s.part.inReset = false →
    (∀ r : Setup, r.fits = true →
      exec (.streamPacketArrival (packetBytes 0x10 tag (setupBytes r))) s =
        exec (.setup tag r) s.hunting) ∧
    (∀ id : Byte,
      exec (.streamPacketArrival (packetBytes 0x11 tag [1, id])) s =
        exec (.queryStatus tag id) s.hunting ∧
      exec (.streamPacketArrival (packetBytes 0x11 tag [2, id])) s =
        exec (.queryPosition tag id) s.hunting ∧
      exec (.streamPacketArrival (packetBytes 0x11 tag [3, id])) s =
        exec (.queryTable tag id) s.hunting ∧
      exec (.streamPacketArrival (packetBytes 0x11 tag [4, id])) s =
        exec (.querySetup tag id) s.hunting) ∧
    (∀ item id : Byte, exec (.streamPacketArrival (packetBytes 0x11 tag [item, id])) s =
        exec (.queryItemRange tag item id) s.hunting) ∧
    (∀ v : Byte,
      exec (.streamPacketArrival (packetBytes 0x12 tag [v])) s =
        exec (.override tag v) s.hunting ∧
      exec (.streamPacketArrival (packetBytes 0x17 tag [v])) s =
        exec (.eventMask tag v) s.hunting) ∧
    exec (.streamPacketArrival (packetBytes 0x13 tag [])) s =
      exec (.halt tag) s.hunting ∧
    exec (.streamPacketArrival (packetBytes 0x14 tag [])) s =
      exec (.resume tag) s.hunting ∧
    exec (.streamPacketArrival (packetBytes 0x15 tag [])) s =
      exec (.abort tag) s.hunting ∧
    exec (.streamPacketArrival (packetBytes 0x16 tag [])) s =
      exec (.clearFault tag) s.hunting

/-- R48: the register starts at FFFF; each byte is taken most significant bit first, each bit combined with the
register's most significant bit, the register shifted and, when the combined bit is one, combined with 1021. Over no
bytes the CRC is FFFF, over the characters 1 to 9 it is 29B1. -/
def Obligations.CrcFollowsItsRule : Prop :=
  crc [] = 0xFFFF ∧
  crc [0x31, 0x32, 0x33, 0x34, 0x35, 0x36, 0x37, 0x38, 0x39] = 0x29B1 ∧
  ∀ (bytes : List Byte) (b : Byte), crc (bytes ++ [b]) =
    ((List.range 8).map fun i => b.getLsbD (7 - i)).foldl
      (fun (reg : BitVec 16) (bit : Bool) =>
        (reg <<< 1) ^^^ (if (reg.getLsbD 15 ^^ bit) = true then 0x1021 else 0)) (crc bytes)

/-! ## The cut program -/

/-- R43, R84 to R86: the Planner takes no packet while a blade table waits, in UNCONFIGURED, FAULT and RECOVERING, in an
abort stop, with 24 records in the window, with 23 whose head cannot be released at once, with no packet in the intake
queue or one of another kind at its head. The ten takings then change nothing, nor in reset (the model's deduction, logs
1 and 24). -/
def Obligations.PlannerTakesNothing : Prop :=
  ∀ (c : Instr) (kind : Byte) (s : State),
    (c, kind) ∈ [(.block, (0x01 : Byte)), (.contour, 0x02), (.cut, 0x03), (.close, 0x04), (.blockEnd, 0x05),
      (.mark, 0x06), (.aux, 0x07), (.tableOpen, 0x08), (.tableData, 0x09), (.tableClose, 0x0A)] →
    s.part.inReset = true ∨ s.tables.waiting ≠ none ∨ s.part.state = .unconfigured ∨ s.part.state = .fault ∨
      s.part.state = .recovering ∨ s.part.abortFlag = true ∨ 24 ≤ s.planner.window.length ∨
      (s.planner.window.length = 23 ∧ (32 ≤ s.executor.queue.length ∨
        ∃ w rest, s.planner.window = w :: rest ∧ w.record.body.headless = true)) ∨
      s.link.intake = [] ∨ (∃ p rest, s.link.intake = p :: rest ∧ p.kind ≠ kind) →
    exec c s = .next s

/-- R2, R5, R7, R17, R33, R145: an accepted BLOCK stores its geometry, makes a BLOCK-START that takes the pending
actions, sets the stream state to IN-BLOCK and makes the part RUNNING. One that fails a check is answered with the
reason of the first that fails, in the order SEQUENCE, RANGE, NO-TABLE, LIMIT, and opens nothing; the stream context,
the tables, the pending actions and the records held stay as they were, and so do window and execution queue where no
release rule calls. -/
def Obligations.BlockIsJudged : Prop :=
  (∀ (r : Setup) (p : Packet) (rest : List Packet) (s : State) (height : Nat) (ox oy : Int) (dry : Byte),
    Takes 0x01 r p rest s → p.payload = u32 height ++ s32 ox ++ s32 oy ++ [dry] →
    10000 ≤ height ∧ height ≤ 600000 → -4000000 ≤ ox ∧ ox ≤ 4000000 → -4000000 ≤ oy ∧ oy ≤ 4000000 →
    s.planner.stream = .noBlock → s.tables.density ≠ [] → zonePresent s.tables.zone = true →
    s.tables.blade ≠ none → r.tableTop + height + r.clearance ≤ r.zMax →
    ∃ t, exec .block s = .next t ∧
      t.planner.stream = .inBlock ∧
      t.planner.block = some ⟨ox, oy, r.tableTop + height, r.tableTop + height + r.clearance, dry != 0, p.tag⟩ ∧
      t.planner.actions = [] ∧ t.part.state = .running ∧
      t.records = s.records ++ [⟨p.tag, s.planner.actions,
        .blockStart (r.tableTop + height) (r.tableTop + height + r.clearance) (dry != 0) p.tag⟩] ∧
      t.link = s.link.left r rest ∧ t.tables = s.tables ∧ t.report = s.report ∧
      t.planner.prev = s.planner.prev ∧ t.planner.contour = s.planner.contour ∧
      t.planner.plannedHeading = s.planner.plannedHeading ∧ t.planner.trimDist = s.planner.trimDist ∧
      PlannerOnly s t) ∧
  ∀ (r : Setup) (p : Packet) (rest : List Packet) (s : State) (height : Nat) (ox oy : Int) (dry : Byte)
    (reason : Reason),
    Takes 0x01 r p rest s → height < 2 ^ 32 → -2 ^ 31 ≤ ox ∧ ox < 2 ^ 31 → -2 ^ 31 ≤ oy ∧ oy < 2 ^ 31 →
    p.payload = u32 height ++ s32 ox ++ s32 oy ++ [dry] → s.report.responses.length < 16 →
    s.planner.stream ≠ .inContour →
    ((reason = .sequence ∧ s.planner.stream = .inBlock) ∨
     (s.planner.stream = .noBlock ∧
      ((reason = .range ∧ ¬ (10000 ≤ height ∧ height ≤ 600000 ∧ -4000000 ≤ ox ∧ ox ≤ 4000000 ∧ -4000000 ≤ oy ∧
          oy ≤ 4000000)) ∨
       ((10000 ≤ height ∧ height ≤ 600000 ∧ -4000000 ≤ ox ∧ ox ≤ 4000000 ∧ -4000000 ≤ oy ∧ oy ≤ 4000000) ∧
        ((reason = .noTable ∧
          (s.tables.density = [] ∨ zonePresent s.tables.zone = false ∨ s.tables.blade = none)) ∨
         (reason = .limit ∧ s.tables.density ≠ [] ∧ zonePresent s.tables.zone = true ∧ s.tables.blade ≠ none ∧
          r.zMax < r.tableTop + height + r.clearance)))))) →
    ∃ t, exec .block s = .next t ∧
      t.report = { s.report with responses :=
        s.report.responses ++ [.held ⟨0x01, p.tag, .refused reason, []⟩] } ∧
      t.planner.stream = s.planner.stream ∧ t.planner.block = s.planner.block ∧ t.planner.prev = s.planner.prev ∧
      t.planner.contour = s.planner.contour ∧ t.planner.plannedHeading = s.planner.plannedHeading ∧
      t.planner.trimDist = s.planner.trimDist ∧ t.link = s.link.left r rest ∧ t.tables = s.tables ∧
      t.part.record = s.part.record ∧
      (rest ≠ [] ∨ s.planner.actions = [] → t.planner.actions = s.planner.actions ∧ t.records = s.records ∧
        t.part = s.part) ∧
      (s.planner.releasePoint = none →
        rest ≠ [] ∨ (2 ≤ s.executor.queue.length ∧ (s.planner.window ≠ [] ∨ s.planner.actions = [])) →
        t.planner = s.planner ∧ t.executor = s.executor) ∧
      PlannerOnly s t

/-- R4, R8, R17: an accepted CONTOUR makes a TRAVEL, which takes the pending actions, and an ENTER, both at the machine
start point with their headings absent, the ENTER with the plunge speed of the start point's class; both stand at the
tail of the window, marked as the open contour's, behind what is left there. The next CUT is the first of a contour. -/
def Obligations.ContourOpens : Prop :=
  ∀ (r : Setup) (p : Packet) (rest : List Packet) (s : State) (x y : Int) (b : PlannedBlock) (snap : Snapshot),
    Takes 0x02 r p rest s → -2 ^ 31 ≤ x ∧ x < 2 ^ 31 → -2 ^ 31 ≤ y ∧ y < 2 ^ 31 → p.payload = s32 x ++ s32 y →
    s.planner.stream = .inBlock → s.planner.block = some b →
    0 ≤ x + b.ox ∧ x + b.ox ≤ r.xMax → 0 ≤ y + b.oy ∧ y + b.oy ≤ r.yMax →
    governingClass s.tables (boxOf x y x y) = some snap →
    ∃ t, exec .contour s = .next t ∧
      t.planner.stream = .inContour ∧ t.planner.prev = some (x + b.ox, y + b.oy) ∧
      t.planner.contour = some { plunge := snap.plunge, cutPlunge := none } ∧ t.planner.memory = .contourStart ∧
      t.planner.actions = [] ∧
      t.records = s.records ++ [⟨p.tag, s.planner.actions, .travel (x + b.ox) (y + b.oy) none⟩,
        ⟨p.tag, [], .enter (x + b.ox) (y + b.oy) none snap.plunge⟩] ∧
      (∃ (n : Nat) (travel enter : WindowEntry), t.planner.window = s.planner.window.drop n ++ [travel, enter] ∧
        travel.ofOpenContour = true ∧ enter.ofOpenContour = true) ∧
      t.planner.block = s.planner.block ∧ t.planner.plannedHeading = s.planner.plannedHeading ∧
      t.planner.trimDist = s.planner.trimDist ∧ t.link = s.link.left r rest ∧ t.tables = s.tables ∧
      t.report = s.report ∧ PlannerOnly s t

/-- R10, R11, R17, R51 to R53, R61, R67 to R73, R76, R80: an accepted CUT that is not zero-length makes a CUT record
from the previous point, with its length, heading, snapshot, cap and exit 0, after any PIVOT its junction calls for; the
pending actions go to the first record made; the planned heading, previous point and trim distance follow. The first CUT
of a contour gives its heading to the contour's TRAVEL and ENTER; the other records stay, but for the planned speeds of
CUTs. The memory holds the CUT's heading and cap, in window, or fixed when the CUT has been released. Without a PIVOT,
and where no release rule calls or the execution queue is full, the window is the due records and then the run with the
new CUT, its junction speed kept beside it, replanned by the two passes from the boundary speed. A PIVOT makes the
window up to it due: the records are released in order as room allows, up to one without its heading, and the CUT begins
a new run behind it, with speeds 0. -/
def Obligations.CutMakesItsRecord : Prop :=
  ∀ (r : Setup) (p : Packet) (rest : List Packet) (s : State) (x y x0 y0 : Int) (feed : Nat) (b : PlannedBlock)
    (k : ContourRecord) (blade : BladeEntry) (snap : Snapshot),
    Takes 0x03 r p rest s → -2 ^ 31 ≤ x ∧ x < 2 ^ 31 → -2 ^ 31 ≤ y ∧ y < 2 ^ 31 → feed < 65536 →
    p.payload = s32 x ++ s32 y ++ u16 feed →
    s.planner.stream = .inContour → s.planner.block = some b → s.planner.prev = some (x0, y0) →
    s.planner.contour = some k → s.tables.blade = some blade →
    0 ≤ x + b.ox ∧ x + b.ox ≤ r.xMax → 0 ≤ y + b.oy ∧ y + b.oy ≤ r.yMax →
    ¬ (x + b.ox = x0 ∧ y + b.oy = y0) →
    governingClass s.tables (boxOf (x0 - b.ox) (y0 - b.oy) x y) = some snap →
    ∃ t entry, exec .cut s = .next t ∧
      let h := headingOf (x + b.ox - x0) (y + b.oy - y0)
      let len := vecLength (x + b.ox - x0) (y + b.oy - y0)
      let cap := min (if feed = 0 then snap.feedCap else feed) (min snap.feedCap (blade.fMax * snap.pitchMax / 1000))
      let j := junctionFor blade k.cutPlunge.isSome s.planner.memory h cap snap s.planner.trimDist
      t.records.getLast? = some ⟨p.tag, if j.pivot.isSome then [] else s.planner.actions,
        .cut ⟨x0, y0, x + b.ox, y + b.oy, len, h, snap, cap, entry, 0⟩⟩ ∧
      entry ≤ cap ∧
      t.records.length = s.records.length + (if j.pivot.isSome then 2 else 1) ∧
      (∀ pv, j.pivot = some pv → t.records[s.records.length]? = some ⟨p.tag, s.planner.actions, .pivot pv⟩) ∧
      s.executor.queue <+: t.records ∧
      (∀ (i : Nat) (w : WindowEntry), s.planner.window[i]? = some w →
        ∃ q, t.records[s.executor.queue.length + i]? = some q ∧ q.tag = w.record.tag ∧ q.actions = w.record.actions ∧
          (k.cutPlunge = none → w.ofOpenContour = true →
            (∀ u v, w.record.body = .travel u v none → q.body = .travel u v (some h)) ∧
            (∀ u v p, w.record.body = .enter u v none p → q.body = .enter u v (some h) p)) ∧
          (∀ old, w.record.body = .cut old → ∃ en ex, q.body = .cut { old with entry := en, exit := ex }) ∧
          (w.record.body.cut? = none → k.cutPlunge ≠ none ∨ w.ofOpenContour = false → q = w.record)) ∧
      t.planner.prev = some (x + b.ox, y + b.oy) ∧ t.planner.plannedHeading = some h ∧
      t.planner.contour = some { k with cutPlunge := some snap.plunge } ∧ t.planner.actions = [] ∧
      t.planner.trimDist = j.trimDist + (if b.dry then 0 else len) ∧
      t.planner.stream = .inContour ∧ t.planner.block = s.planner.block ∧ t.link = s.link.left r rest ∧
      t.tables = s.tables ∧ t.report = s.report ∧ PlannerOnly s t ∧
      (t.planner.window ≠ [] → t.planner.memory = .inWindow h cap) ∧
      (t.planner.window = [] → t.planner.memory = .fixed h cap 0) ∧
      (j.pivot = none → s.planner.window.length ≤ 22 →
        32 ≤ s.executor.queue.length ∨
          (s.planner.releasePoint = none ∧ (rest ≠ [] ∨ 2 ≤ s.executor.queue.length)) →
        let filled := if k.cutPlunge = none then fillContour h s.planner.window else s.planner.window
        let due := match s.planner.releasePoint with
          | some i => i + 1
          | none => 0
        let boundary := if ((filled.drop due).filterMap fun w => w.record.body.cut?) = [] then
            (match s.planner.memory with
              | .fixed _ _ exit => exit
              | _ => 0)
          else s.planner.boundary
        let made : WindowEntry := ⟨⟨p.tag, s.planner.actions,
          .cut ⟨x0, y0, x + b.ox, y + b.oy, len, h, snap, cap, 0, 0⟩⟩, j.speed, false⟩
        t.planner.window = (filled ++ [made]).take due ++
          planForward r.accel boundary (planBackward r.accel ((filled ++ [made]).drop due)).1 ∧
        t.planner.boundary = boundary ∧ t.planner.releasePoint = s.planner.releasePoint ∧ t.executor = s.executor) ∧
      (∀ pv, j.pivot = some pv → k.cutPlunge ≠ none →
        rest ≠ [] ∨ s.planner.window ≠ [] ∨ s.executor.queue ≠ [] →
        let due := s.planner.window.map (fun w => w.record) ++ [⟨p.tag, s.planner.actions, .pivot pv⟩]
        let n := min (32 - s.executor.queue.length) (due.takeWhile fun q => !q.body.headless).length
        t.executor.queue = s.executor.queue ++ due.take n ∧
        t.planner.window.map (fun w => w.record) = due.drop n ++
          [⟨p.tag, [], .cut ⟨x0, y0, x + b.ox, y + b.oy, len, h, snap, cap, 0, 0⟩⟩] ∧
        (t.planner.window.getLast?.map fun w => w.junction) = some 0 ∧
        t.planner.releasePoint = (if due.length ≤ n then none else some (due.length - 1 - n)))

/-- R3, R9: a zero-length CUT is discarded: no response, no fault, and the stream context stays as it was; with a packet
behind it or no action pending no record is made either. -/
def Obligations.ZeroLengthCutIsDiscarded : Prop :=
  ∀ (r : Setup) (p : Packet) (rest : List Packet) (s : State) (x y : Int) (feed : Nat) (b : PlannedBlock)
    (k : ContourRecord),
    Takes 0x03 r p rest s → -2 ^ 31 ≤ x ∧ x < 2 ^ 31 → -2 ^ 31 ≤ y ∧ y < 2 ^ 31 → feed < 65536 →
    p.payload = s32 x ++ s32 y ++ u16 feed →
    s.planner.stream = .inContour → s.planner.block = some b → s.planner.prev = some (x + b.ox, y + b.oy) →
    s.planner.contour = some k → 0 ≤ x + b.ox ∧ x + b.ox ≤ r.xMax → 0 ≤ y + b.oy ∧ y + b.oy ≤ r.yMax →
    ∃ t, exec .cut s = .next t ∧ t.planner.stream = .inContour ∧ t.planner.block = s.planner.block ∧
      t.planner.prev = s.planner.prev ∧ t.planner.contour = s.planner.contour ∧
      t.planner.plannedHeading = s.planner.plannedHeading ∧ t.planner.trimDist = s.planner.trimDist ∧
      t.part.record = s.part.record ∧ t.report = s.report ∧ t.link = s.link.left r rest ∧ t.tables = s.tables ∧
      (rest ≠ [] ∨ s.planner.actions = [] → t.planner.actions = s.planner.actions ∧ t.records = s.records) ∧
      PlannerOnly s t

/-- R12, R13, R15, R17, R62, R64, R70, R78, R80, R82: an accepted CLOSE makes a LEAVE that takes the pending actions,
with the plunge speed of the contour's last CUT, or of its ENTER, as retract speed, and the trim flag set exactly when a
trim is due, which sets D to 0; the previous point and the contour record are dropped. The LEAVE is a stop: the whole
window with it is due, with the speeds it has, and is released in order as room allows, up to a record without its
heading; a memory in window becomes fixed with the exit of its CUT. At the CLOSE of a stab its TRAVEL and ENTER take the
planned heading, or, with none planned, the Executor's, and stay without one while the position is absent. An accepted
BLOCK-END makes a BLOCK-DONE with the packet's tag and the block tag, drops the block geometry and sets the stream state
to NO-BLOCK. -/
def Obligations.CloseAndBlockEnd : Prop :=
  (∀ (r : Setup) (p : Packet) (rest : List Packet) (s : State) (k : ContourRecord) (blade : BladeEntry),
    Takes 0x04 r p rest s → s.planner.stream = .inContour → s.planner.contour = some k →
    s.tables.blade = some blade →
    ∃ t, exec .close s = .next t ∧
      t.records.getLast? = some ⟨p.tag, s.planner.actions,
        .leave (k.cutPlunge.getD k.plunge)
          (decide (blade.trimInterval * 1000000 ≤ s.planner.trimDist))⟩ ∧
      t.records.length = s.records.length + 1 ∧ s.executor.queue <+: t.records ∧
      (∀ v, k.cutPlunge = some v → t.records.dropLast = s.records) ∧
      (∀ (i : Nat) (w : WindowEntry), s.planner.window[i]? = some w →
        let stab := match s.planner.plannedHeading with
          | some h => some h
          | none => s.executor.position.map fun pos => pos.heading
        ∃ q, t.records[s.executor.queue.length + i]? = some q ∧ q.tag = w.record.tag ∧ q.actions = w.record.actions ∧
          (k.cutPlunge = none → w.ofOpenContour = true → ∀ h, stab = some h →
            (∀ x y, w.record.body = .travel x y none → q.body = .travel x y (some h)) ∧
            (∀ x y v, w.record.body = .enter x y none v → q.body = .enter x y (some h) v)) ∧
          (stab = none ∨ w.ofOpenContour = false → q = w.record)) ∧
      (∀ w ∈ t.planner.window, w.ofOpenContour = false) ∧
      t.planner.trimDist = (if blade.trimInterval * 1000000 ≤ s.planner.trimDist then 0 else s.planner.trimDist) ∧
      t.planner.stream = .inBlock ∧ t.planner.prev = none ∧ t.planner.contour = none ∧ t.planner.actions = [] ∧
      t.planner.block = s.planner.block ∧ t.planner.plannedHeading = s.planner.plannedHeading ∧
      t.link = s.link.left r rest ∧ t.tables = s.tables ∧ t.report = s.report ∧ PlannerOnly s t ∧
      (let n := min (32 - s.executor.queue.length)
         ((t.records.drop s.executor.queue.length).takeWhile fun q => !q.body.headless).length
       t.executor.queue = t.records.take (s.executor.queue.length + n) ∧
       t.planner.releasePoint =
         if s.planner.window.length < n then none else some (s.planner.window.length - n)) ∧
      (∀ h c old, s.planner.memory = .inWindow h c →
        (s.planner.window.filterMap fun w => w.record.body.cut?).getLast? = some old →
        t.planner.memory = .fixed h c old.exit)) ∧
  ∀ (r : Setup) (p : Packet) (rest : List Packet) (s : State) (b : PlannedBlock),
    Takes 0x05 r p rest s → s.planner.stream = .inBlock → s.planner.block = some b →
    ∃ t, exec .blockEnd s = .next t ∧
      t.records = s.records ++ [⟨p.tag, s.planner.actions, .blockDone b.tag⟩] ∧
      t.planner.stream = .noBlock ∧ t.planner.block = none ∧ t.planner.actions = [] ∧
      t.planner.prev = s.planner.prev ∧ t.planner.contour = s.planner.contour ∧
      t.planner.plannedHeading = s.planner.plannedHeading ∧ t.planner.trimDist = s.planner.trimDist ∧
      t.link = s.link.left r rest ∧ t.tables = s.tables ∧ t.report = s.report ∧ PlannerOnly s t

/-- R16, R18, R19: a MARK or AUX adds its action to the pending list, in any stream state; a list of four becomes an
ACTIONS record first, with the tag of the fourth; and with no packet behind it and the window empty (every record held
then stands in the execution queue), all the pending actions become an ACTIONS record with the tag of the last. -/
def Obligations.MarkAndAuxArePending : Prop :=
  ∀ (r : Setup) (p : Packet) (rest : List Packet) (s : State) (c : Instr) (kind : Byte) (a : Machine.Action),
    Takes kind r p rest s → s.planner.actions.length ≤ 4 →
    ((c = .mark ∧ kind = 0x06 ∧ a = .mark p.tag) ∨
     (∃ mask values : Byte, c = .aux ∧ kind = 0x07 ∧ p.payload = [mask, values] ∧ a = .aux p.tag mask values)) →
    ∃ t, exec c s = .next t ∧
      let full := s.planner.actions.length = 4
      let held := if full then [a] else s.planner.actions ++ [a]
      let made := s.records ++
        (if full then
          [⟨(s.planner.actions.getLast?.map Machine.Action.tag).getD 0, s.planner.actions, .actions⟩] else [])
      ((t.planner.actions = held ∧ t.records = made ∧ (rest ≠ [] ∨ t.planner.window ≠ [])) ∨
       (rest = [] ∧ t.planner.actions = [] ∧ t.records = made ++ [⟨p.tag, held, .actions⟩] ∧
        made <+: t.executor.queue)) ∧
      t.planner.stream = s.planner.stream ∧ t.planner.block = s.planner.block ∧ t.planner.prev = s.planner.prev ∧
      t.planner.contour = s.planner.contour ∧ t.planner.trimDist = s.planner.trimDist ∧
      t.link = s.link.left r rest ∧ t.tables = s.tables ∧ t.report = s.report ∧ PlannerOnly s t

/-- R2, R3, R4, R36, R37, R40: inside a contour a BLOCK, CONTOUR or BLOCK-END, a CUT that ends outside the travel, a
TABLE-OPEN with a load open or naming no table, and a TABLE-DATA or TABLE-CLOSE without a load are refused, answered,
and make the part FAULT with first cause PROGRAM, also when the response finds no place; the window, the stream context
and the tables stay as they were. Outside a contour a CONTOUR in NO-BLOCK, or one that starts outside the travel, a CUT,
a CLOSE, a BLOCK-END in NO-BLOCK, and a TABLE-DATA or TABLE-CLOSE without a load are answered and raise no fault; the
stream context, the trim distance, the tables and the records held stay as they were, and so do window and execution
queue where no release rule calls. -/
def Obligations.RefusalInContourIsProgramFault : Prop :=
  (∀ (r : Setup) (p : Packet) (rest : List Packet) (s : State) (c : Instr) (kind : Byte) (reason : Reason),
    Takes kind r p rest s → s.planner.stream = .inContour →
    ((c = .block ∧ kind = 0x01 ∧ reason = .sequence) ∨ (c = .contour ∧ kind = 0x02 ∧ reason = .sequence) ∨
     (c = .blockEnd ∧ kind = 0x05 ∧ reason = .sequence) ∨
     (c = .cut ∧ kind = 0x03 ∧ reason = .limit ∧ ∃ (x y : Int) (feed : Nat) (b : PlannedBlock) (k : ContourRecord)
       (q : Int × Int), -2 ^ 31 ≤ x ∧ x < 2 ^ 31 ∧ -2 ^ 31 ≤ y ∧ y < 2 ^ 31 ∧ feed < 65536 ∧
       p.payload = s32 x ++ s32 y ++ u16 feed ∧ s.planner.block = some b ∧ s.planner.contour = some k ∧
       s.planner.prev = some q ∧
       ¬ (0 ≤ x + b.ox ∧ x + b.ox ≤ r.xMax ∧ 0 ≤ y + b.oy ∧ y + b.oy ≤ r.yMax)) ∨
     (c = .tableOpen ∧ kind = 0x08 ∧ reason = .loadOpen ∧ s.tables.load ≠ none) ∨
     (c = .tableOpen ∧ kind = 0x08 ∧ reason = .range ∧ s.tables.load = none ∧
       ∃ id : Byte, p.payload = [id] ∧ id ≠ 1 ∧ id ≠ 2 ∧ id ≠ 3) ∨
     (c = .tableData ∧ kind = 0x09 ∧ reason = .noLoad ∧ s.tables.load = none) ∨
     (c = .tableClose ∧ kind = 0x0A ∧ reason = .noLoad ∧ s.tables.load = none)) →
    ∃ t, exec c s = .next t ∧
      (s.report.responses.length < 16 →
        t.report.responses = s.report.responses ++ [.held ⟨kind, p.tag, .refused reason, []⟩]) ∧
      (s.report.responses.length = 16 → t.report.responses = s.report.responses ∧
        t.report.events.link = true ∧ t.report.events.linkReason = some .responseFull) ∧
      t.part.state = .fault ∧
      t.part.record = { cause := some .program, tag := s.executor.currentTag, position := s.executor.position,
                        further := 0 } ∧
      t.planner = s.planner ∧ t.tables = s.tables ∧ t.executor.queue = s.executor.queue ∧ t.link = s.link.left r rest ∧
      t.governor = s.governor ∧ t.keptFreq = s.keptFreq ∧ t.pending = s.pending) ∧
  ∀ (r : Setup) (p : Packet) (rest : List Packet) (s : State) (c : Instr) (kind : Byte) (reason : Reason),
    Takes kind r p rest s → s.planner.stream ≠ .inContour → s.report.responses.length < 16 →
    ((c = .contour ∧ kind = 0x02 ∧ reason = .sequence ∧ s.planner.stream = .noBlock) ∨
     (c = .contour ∧ kind = 0x02 ∧ reason = .limit ∧ s.planner.stream = .inBlock ∧ ∃ (x y : Int) (b : PlannedBlock),
       -2 ^ 31 ≤ x ∧ x < 2 ^ 31 ∧ -2 ^ 31 ≤ y ∧ y < 2 ^ 31 ∧ p.payload = s32 x ++ s32 y ∧
       s.planner.block = some b ∧ ¬ (0 ≤ x + b.ox ∧ x + b.ox ≤ r.xMax ∧ 0 ≤ y + b.oy ∧ y + b.oy ≤ r.yMax)) ∨
     (c = .cut ∧ kind = 0x03 ∧ reason = .sequence) ∨ (c = .close ∧ kind = 0x04 ∧ reason = .sequence) ∨
     (c = .blockEnd ∧ kind = 0x05 ∧ reason = .sequence ∧ s.planner.stream = .noBlock) ∨
     (c = .tableData ∧ kind = 0x09 ∧ reason = .noLoad ∧ s.tables.load = none) ∨
     (c = .tableClose ∧ kind = 0x0A ∧ reason = .noLoad ∧ s.tables.load = none)) →
    ∃ t, exec c s = .next t ∧
      t.report = { s.report with responses :=
        s.report.responses ++ [.held ⟨kind, p.tag, .refused reason, []⟩] } ∧
      t.planner.stream = s.planner.stream ∧ t.planner.block = s.planner.block ∧ t.planner.prev = s.planner.prev ∧
      t.planner.contour = s.planner.contour ∧ t.planner.plannedHeading = s.planner.plannedHeading ∧
      t.planner.trimDist = s.planner.trimDist ∧ t.tables = s.tables ∧ t.link = s.link.left r rest ∧
      t.part.record = s.part.record ∧
      (rest ≠ [] ∨ s.planner.actions = [] → t.planner.actions = s.planner.actions ∧ t.records = s.records ∧
        t.part = s.part) ∧
      (s.planner.releasePoint = none →
        rest ≠ [] ∨ (2 ≤ s.executor.queue.length ∧ (s.planner.window ≠ [] ∨ s.planner.actions = [])) →
        t.planner = s.planner ∧ t.executor = s.executor) ∧
      PlannerOnly s t

/-! ## Lengths, headings, junctions and classes -/

/-- R51, R52: the length of a segment is the whole number nearest to the root of dx² + dy²; its heading lies in
0..35999, is 0 along +X and 9000 along +Y, turns with the segment by 9000 for a quarter turn, and halves the quadrant
along a diagonal. -/
def Obligations.SegmentLengthAndHeading : Prop :=
  (∀ dx dy : Int, 4 * (dx * dx + dy * dy) < (2 * (vecLength dx dy : Int) + 1) ^ 2 ∧
    (0 < vecLength dx dy → (2 * (vecLength dx dy : Int) - 1) ^ 2 < 4 * (dx * dx + dy * dy))) ∧
  (∀ dx dy : Int, Machine.headingOf dx dy < 36000) ∧
  (∀ k : Int, 0 < k → Machine.headingOf k 0 = 0 ∧ Machine.headingOf k k = 4500 ∧ Machine.headingOf 0 k = 9000 ∧
    Machine.headingOf (-k) k = 13500 ∧ Machine.headingOf (-k) 0 = 18000 ∧ Machine.headingOf (-k) (-k) = 22500 ∧
    Machine.headingOf 0 (-k) = 27000 ∧ Machine.headingOf k (-k) = 31500) ∧
  ∀ dx dy : Int, ¬ (dx = 0 ∧ dy = 0) →
    Machine.headingOf (-dy) dx = (Machine.headingOf dx dy + 9000) % 36000

/-- R52: for components up to 4,000,000 micrometres the heading of a segment is its angle from +X, counter-clockwise and
in centidegrees, rounded to the nearest whole one, but for a billionth of a centidegree about the half: that the
rounding is that of the exact angle is deduced (log 9). -/
def Obligations.HeadingIsTheAngle : Prop :=
  ∀ dx dy : Int, ¬ (dx = 0 ∧ dy = 0) → -4000000 ≤ dx ∧ dx ≤ 4000000 → -4000000 ≤ dy ∧ dy ≤ 4000000 →
    ∃ k : Int, |(Machine.headingOf dx dy : ℝ) - (Complex.arg ⟨dx, dy⟩ * 18000 / Real.pi + 36000 * k)| ≤
      1 / 2 + 1 / 10 ^ 9

/-- R54: the rotation from h1 to h2 is d when d, the change modulo 36000, is at most 18000, and else −(36000 − d); the
heading change is the lesser of d and 36000 − d, at most 18000, and the rotation's magnitude; applied to h1 the rotation
gives h2; a PIVOT carries it, and a BLEND makes none, unless an overdue trim makes it a LIFT. -/
def Obligations.RotationTakesTheShorterWay : Prop :=
  (∀ h1 h2 : Nat, h1 < 36000 → h2 < 36000 →
    let d := (((h2 : Int) - h1) % 36000).toNat
    Machine.rotationOf h1 h2 = (if d ≤ 18000 then (d : Int) else -((36000 : Int) - d)) ∧
    headingChange h1 h2 = min d (36000 - d) ∧ headingChange h1 h2 ≤ 18000 ∧
    (Machine.rotationOf h1 h2).natAbs = headingChange h1 h2 ∧ turnBy h1 (Machine.rotationOf h1 h2) = h2) ∧
  ∀ (blade : BladeEntry) (h1 c1 h2 c2 : Nat) (snap : Snapshot) (d : Nat) (p : PivotRecord),
    ((junctionOf blade h1 c1 h2 c2 snap d).pivot = some p → p.rotation = Machine.rotationOf h1 h2) ∧
    (d < (blade.trimInterval + blade.trimGrace) * 1000000 → headingChange h1 h2 ≤ blade.blend →
      (junctionOf blade h1 c1 h2 c2 snap d).pivot = none)

/-- R53, R55 to R57, R59, R62, R63, R65, Table 4.3: an overdue trim makes a LIFT with both trim flags and no distance
left; else a heading change up to the blend limit makes a BLEND, without a PIVOT, whose junction speed falls from the
lesser cap to 0 at the limit; up to the swivel limit a SWIVEL at speed 0; and above it a LIFT, with a due trim, which
takes the distance to 0, or without one. The first CUT of a contour forms no junction; any other takes the heading and
cap of the CUT before it from the memory, whether that CUT is in the window or fixed. A LIFT carries the plunge speed of
the CUT after it. -/
def Obligations.JunctionFollowsTable43 : Prop :=
  (∀ (blade : BladeEntry) (h1 c1 h2 c2 : Nat) (snap : Snapshot) (d : Nat),
    let delta := headingChange h1 h2
    let j := junctionOf blade h1 c1 h2 c2 snap d
    let due := blade.trimInterval * 1000000
    let overdue := (blade.trimInterval + blade.trimGrace) * 1000000
    (overdue ≤ d → j = ⟨some ⟨.lift, Machine.rotationOf h1 h2, true, true, some snap.plunge⟩, 0, 0⟩) ∧
    (d < overdue → delta ≤ blade.blend → j = ⟨none, min c1 c2 * (blade.blend - delta) / blade.blend, d⟩) ∧
    (d < overdue → blade.blend < delta → delta ≤ blade.swivel →
      j = ⟨some ⟨.swivel, Machine.rotationOf h1 h2, false, false, none⟩, 0, d⟩) ∧
    (d < overdue → blade.blend < delta → blade.swivel < delta → due ≤ d →
      j = ⟨some ⟨.lift, Machine.rotationOf h1 h2, true, false, some snap.plunge⟩, 0, 0⟩) ∧
    (d < overdue → blade.blend < delta → blade.swivel < delta → d < due →
      j = ⟨some ⟨.lift, Machine.rotationOf h1 h2, false, false, some snap.plunge⟩, 0, d⟩)) ∧
  ∀ (blade : BladeEntry) (memory : PrevCut) (h2 c2 : Nat) (snap : Snapshot) (d : Nat),
    junctionFor blade false memory h2 c2 snap d = ⟨none, 0, d⟩ ∧
    (∀ h1 c1, memory = .inWindow h1 c1 →
      junctionFor blade true memory h2 c2 snap d = junctionOf blade h1 c1 h2 c2 snap d) ∧
    ∀ h1 c1 exit, memory = .fixed h1 c1 exit →
      junctionFor blade true memory h2 c2 snap d = junctionOf blade h1 c1 h2 c2 snap d

/-- R25 to R27: the candidates are the classes of the rectangles that meet the box, and the default class unless one
rectangle contains the box; the governing class is a candidate with a density entry, and among the candidates it has the
lowest feed cap and, for that, the lowest index. -/
def Obligations.GoverningClassIsTheHardest : Prop :=
  (∀ (zone : List (Nat × ZoneEntry)) (b : Box) (cls : Nat), cls ∈ candidates zone b ↔
    (∃ i xLo yLo xHi yHi, (i, ZoneEntry.rect xLo yLo xHi yHi cls) ∈ zone ∧
      xLo ≤ b.xHi ∧ b.xLo ≤ xHi ∧ yLo ≤ b.yHi ∧ b.yLo ≤ yHi) ∨
    ((∃ i, (i, ZoneEntry.dflt cls) ∈ zone) ∧
      ¬ ∃ i xLo yLo xHi yHi c, (i, ZoneEntry.rect xLo yLo xHi yHi c) ∈ zone ∧
        xLo ≤ b.xLo ∧ b.xHi ≤ xHi ∧ yLo ≤ b.yLo ∧ b.yHi ≤ yHi)) ∧
  ∀ (t : TableStore) (b : Box) (snap : Snapshot), governingClass t b = some snap →
    snap.cls ∈ candidates t.zone b ∧
    (∃ e, lookupKey snap.cls t.density = some e ∧
      snap = ⟨snap.cls, e.feedCap, e.pitchTarget, e.pitchMax, e.plunge, e.ceiling⟩) ∧
    ∀ cls ∈ candidates t.zone b, ∃ e, lookupKey cls t.density = some e ∧
      (snap.feedCap < e.feedCap ∨ (snap.feedCap = e.feedCap ∧ snap.cls ≤ cls))

/-! ## The plan -/

/-- R74: the speed reached from u over L at A is the largest whole v for which 1000 v² does not exceed 1000 u² + 2 A L;
it is at least u; and the root of 48,000 is 219. -/
def Obligations.ReachIsTheLargestSpeed : Prop :=
  (∀ a u len : Nat, 1000 * reach a u len * reach a u len ≤ 1000 * u * u + 2 * a * len ∧
    (∀ v, 1000 * v * v ≤ 1000 * u * u + 2 * a * len → v ≤ reach a u len) ∧ u ≤ reach a u len) ∧
  isqrt 48000 = 219

/-- R71 to R73, R77, R82: the equations of the two passes over the CUTs of the run, index by index. Backward, the exit
is 0 at the newest CUT and elsewhere the lesser of the next one's junction speed and entry, and the entry the least of
cap, junction speed and the braking speed for that exit. Forward, the entry is lowered to the boundary speed at the
oldest CUT and elsewhere to the exit just set before it, and the exit to the acceleration speed for that entry. Nothing
else of a CUT changes, and no other record. So every CUT of the plan can be entered and left at its speeds, and the exit
of each CUT is the entry of the next. -/
def Obligations.PassesGiveAPlanThatCanBeFollowed : Prop :=
  ∀ (a b : Nat) (run : List WindowEntry),
    let plan := planForward a b (planBackward a run).1
    let cutsOf := fun l : List WindowEntry => l.filterMap fun w => (w.record.body.cut?).map fun c => (w.junction, c)
    let back := cutsOf (planBackward a run).1
    let cuts := cutsOf plan
    back.length = (cutsOf run).length ∧ cuts.length = (cutsOf run).length ∧
    (∀ (i j : Nat) (c : CutRecord), (cutsOf run)[i]? = some (j, c) → ∃ entry1 exit1 entry2 exit2 : Nat,
      back[i]? = some (j, { c with entry := entry1, exit := exit1 }) ∧
      cuts[i]? = some (j, { c with entry := entry2, exit := exit2 }) ∧
      (back[i + 1]? = none → exit1 = 0) ∧
      (∀ q, back[i + 1]? = some q → exit1 = min q.1 q.2.entry) ∧
      entry1 = min c.cap (min j (reach a exit1 c.len)) ∧
      (i = 0 → entry2 = min entry1 b) ∧
      (∀ k q, i = k + 1 → cuts[k]? = some q → entry2 = min entry1 q.2.exit) ∧
      exit2 = min exit1 (reach a entry2 c.len)) ∧
    (∀ (i : Nat) (w : WindowEntry), run[i]? = some w → w.record.body.cut? = none → plan[i]? = some w) ∧
    (∀ q ∈ cuts, q.2.entry ≤ q.2.cap ∧ q.2.entry ≤ q.1 ∧ q.2.entry ≤ reach a q.2.exit q.2.len ∧
      q.2.exit ≤ reach a q.2.entry q.2.len) ∧
    (∀ q, cuts.head? = some q → q.2.entry ≤ b) ∧
    (∀ (i : Nat) (q1 q2 : Nat × CutRecord), cuts[i]? = some q1 → cuts[i + 1]? = some q2 → q1.2.exit = q2.2.entry) ∧
    (∀ q, cuts.getLast? = some q → q.2.exit = 0) ∧
    plan.map (fun w => (w.record.tag, w.record.actions)) = run.map (fun w => (w.record.tag, w.record.actions))

/-- R78 to R81, R83, R84, R124: with a releasable record at the head that is due, or with a full window, or with no
packet in the intake queue and fewer than two records in the execution queue, RELEASE moves it, and perhaps records
behind it, to the execution queue without changing their order; the only record it can add is an ACTIONS record of the
pending actions, with the tag of the last (R19), and the queue never grows beyond 32. Where none is added it moves as
many as the rules call for together (those due, one from a full window, and up to two in the queue while no packet
waits), as far as the room goes and up to a record without its heading. A release in DWELL stops the dwell timer. With a
TRAVEL or ENTER without a heading at the head, with the execution queue full, or with none of the three rules calling,
nothing is released, and nothing at all changes while the Planner does not work (the model's deduction, log 1). -/
def Obligations.ReleaseKeepsTheOrder : Prop :=
  (∀ (s : State) (w : WindowEntry) (rest : List WindowEntry),
    s.part.inReset = false → s.part.state = .parked ∨ s.part.state = .running → s.part.abortFlag = false →
    s.planner.window = w :: rest → w.record.body.headless = false →
    s.planner.releasePoint ≠ none ∨ 24 ≤ s.planner.window.length ∨
      (s.link.intake = [] ∧ s.executor.queue.length < 2) →
    s.executor.queue.length < 32 →
    ∃ t, exec .release s = .next t ∧
      (s.executor.queue ++ [w.record]) <+: t.executor.queue ∧ t.executor.queue.length ≤ 32 ∧
      (t.records = s.records ∨ (s.link.intake = [] ∧ s.planner.actions ≠ [] ∧
        t.records = s.records ++
          [⟨(s.planner.actions.getLast?.map Machine.Action.tag).getD 0, s.planner.actions, .actions⟩])) ∧
      (s.link.intake ≠ [] ∨ s.planner.actions = [] →
        let due := match s.planner.releasePoint with
          | some i => i + 1
          | none => 0
        let called := max due (max (s.planner.window.length - 23)
          (if s.link.intake = [] then 2 - s.executor.queue.length else 0))
        let n := min called (min (32 - s.executor.queue.length)
          (s.planner.window.takeWhile fun e => !e.record.body.headless).length)
        t.executor.queue = s.executor.queue ++ (s.planner.window.take n).map (fun e => e.record) ∧
        t.planner.window = s.planner.window.drop n ∧
        t.planner.releasePoint = (if due ≤ n then none else some (due - 1 - n))) ∧
      t.executor = { s.executor with
        queue := t.executor.queue
        dwellTimer := if s.executor.state = .dwell then .stopped else s.executor.dwellTimer } ∧
      t.planner.trimDist = s.planner.trimDist ∧ t.planner.stream = s.planner.stream ∧
      t.link = s.link ∧ t.governor = s.governor ∧ t.port = s.port ∧ t.keptFreq = s.keptFreq ∧ t.pending = s.pending) ∧
  ∀ s : State,
    s.part.inReset = true ∨ s.part.state = .unconfigured ∨ s.part.state = .fault ∨ s.part.state = .recovering ∨
      s.part.abortFlag = true ∨
      (∃ w rest, s.planner.window = w :: rest ∧
        (w.record.body.headless = true ∨ 32 ≤ s.executor.queue.length ∨
          (s.planner.releasePoint = none ∧ s.planner.window.length < 24 ∧
            (s.link.intake ≠ [] ∨ 2 ≤ s.executor.queue.length)))) →
    exec .release s = .next s

/-! ## Tables -/

/-- R36: a TABLE-OPEN with no load open opens an empty load of the table its id names, without a response; one that
names no table is refused with RANGE and opens none; with a load open it is refused with LOAD-OPEN, whatever its id, and
that load carries on unchanged. The stream context, the trim distance and the records held stay as they were, and so
does the whole Planner where no release rule calls. -/
def Obligations.TableOpenOpensALoad : Prop :=
  ∀ (r : Setup) (p : Packet) (rest : List Packet) (s : State) (id : Byte),
    Takes 0x08 r p rest s → p.payload = [id] →
    ∃ t, exec .tableOpen s = .next t ∧ t.link = s.link.left r rest ∧
      t.tables.density = s.tables.density ∧ t.tables.zone = s.tables.zone ∧ t.tables.blade = s.tables.blade ∧
      t.tables.waiting = none ∧ t.planner.stream = s.planner.stream ∧ t.planner.trimDist = s.planner.trimDist ∧
      t.planner.block = s.planner.block ∧ t.planner.prev = s.planner.prev ∧ t.planner.contour = s.planner.contour ∧
      t.planner.plannedHeading = s.planner.plannedHeading ∧
      (rest ≠ [] ∨ s.planner.actions = [] → t.planner.actions = s.planner.actions ∧ t.records = s.records) ∧
      (s.planner.releasePoint = none →
        rest ≠ [] ∨ (2 ≤ s.executor.queue.length ∧ (s.planner.window ≠ [] ∨ s.planner.actions = [])) →
        t.planner = s.planner ∧ t.executor.queue = s.executor.queue) ∧
      (s.tables.load = none → id = 1 → t.tables.load = some ⟨.density [], none⟩ ∧ t.report = s.report ∧
        PlannerOnly s t) ∧
      (s.tables.load = none → id = 2 → t.tables.load = some ⟨.zone [], none⟩ ∧ t.report = s.report ∧ PlannerOnly s t) ∧
      (s.tables.load = none → id = 3 → t.tables.load = some ⟨.blade [], none⟩ ∧ t.report = s.report ∧ PlannerOnly s t) ∧
      (s.tables.load = none → id ≠ 1 → id ≠ 2 → id ≠ 3 → t.tables.load = none ∧ (s.report.responses.length < 16 →
        t.report.responses = s.report.responses ++ [.held ⟨0x08, p.tag, .refused .range, []⟩])) ∧
      (∀ load, s.tables.load = some load → t.tables.load = some load ∧ (s.report.responses.length < 16 →
        t.report.responses = s.report.responses ++ [.held ⟨0x08, p.tag, .refused .loadOpen, []⟩]))

/-- R21, R23, R30, R37 to R39, Tables 2.1 to 2.3, Table 12.3: a TABLE-DATA that carries the image of a valid entry of
the open load's table, whatever follows it, stages that entry under its index: the entry is added, or replaces the one
there whole, and the entries of the other indexes stay. A bad index fails the load with BAD-INDEX, a payload that ends
before a field is whole with BAD-FIELD and that field, a whole one with a field out of its range with BAD-FIELD and the
first such field; the staged entries stay, and there is no response and no fault. That the fields are all read before
any is checked is deduced (log 11). In a failed load it is discarded, and without a load refused with NO-LOAD. -/
def Obligations.TableDataIsJudged : Prop :=
  (∀ (r : Setup) (p : Packet) (rest : List Packet) (s : State) (index : Nat) (extra : List Byte),
    Takes 0x09 r p rest s → index < 256 →
    (∀ load f, s.tables.load = some load → load.failure = some f →
      ∃ t, exec .tableData s = .next t ∧ t.tables = s.tables ∧ t.report = s.report ∧ t.link = s.link.left r rest ∧
        t.part.record = s.part.record ∧ PlannerOnly s t) ∧
    (s.tables.load = none → ∃ t, exec .tableData s = .next t ∧ t.tables = s.tables ∧ t.link = s.link.left r rest ∧
      (s.report.responses.length < 16 →
        t.report.responses = s.report.responses ++ [.held ⟨0x09, p.tag, .refused .noLoad, []⟩])) ∧
    (∀ staged, s.tables.load = some ⟨staged, none⟩ →
      ∃ t load, exec .tableData s = .next t ∧ t.tables = { s.tables with load := some load } ∧
        t.report = s.report ∧ t.link = s.link.left r rest ∧ PlannerOnly s t ∧
        (∀ body, p.payload = BitVec.ofNat 8 index :: body → lastIndex staged < index →
          load = ⟨staged, some (.badIndex index)⟩) ∧
        (∀ body n, p.payload = BitVec.ofNat 8 index :: body → index ≤ lastIndex staged →
          1 ≤ n → n ≤ (fieldWidths staged index).length →
          ((fieldWidths staged index).take (n - 1)).sum ≤ body.length →
          body.length < ((fieldWidths staged index).take n).sum →
          load = ⟨staged, some (.badField index n)⟩) ∧
        (∀ es e, staged = .density es → index ≤ 15 → e.fits → p.payload = densityImage index e ++ extra →
          ((∀ n, densityFieldOk e n) → load = ⟨.density (insertKey index e es), none⟩) ∧
          (∀ n, ¬ densityFieldOk e n → (∀ m, m < n → densityFieldOk e m) →
            load = ⟨staged, some (.badField index n)⟩)) ∧
        (∀ es e, staged = .zone es → e.standsAt index → e.fits → p.payload = zoneImage index e ++ extra →
          ((∀ n, zoneFieldOk e n) → load = ⟨.zone (insertKey index e es), none⟩) ∧
          (∀ n, ¬ zoneFieldOk e n → (∀ m, m < n → zoneFieldOk e m) →
            load = ⟨staged, some (.badField index n)⟩)) ∧
        (∀ es e, staged = .blade es → index = 0 → e.fits → p.payload = bladeImage index e ++ extra →
          ((∀ n, bladeFieldOk e n) → load = ⟨.blade (insertKey index e es), none⟩) ∧
          (∀ n, ¬ bladeFieldOk e n → (∀ m, m < n → bladeFieldOk e m) →
            load = ⟨staged, some (.badField index n)⟩)))) ∧
  ∀ (α : Type) (k : Nat) (v : α) (es : List (Nat × α)), lookupKey k (insertKey k v es) = some v ∧
    (∀ j, j ≠ k → lookupKey j (insertKey k v es) = lookupKey j es) ∧
    (keysAscend es = true → keysAscend (insertKey k v es) = true ∧
      (insertKey k v es).length = es.length + (if (lookupKey k es).isSome then 0 else 1))

/-- R3, R40 to R44, R70, R80, R145, Table 3.3: a TABLE-CLOSE whose count and CRC agree with a load that has not failed:
a DENSITY or ZONE load that keeps the law commits at once, every index not staged becoming absent, and is answered
ACCEPTED; a BLADE load commits as the close is taken when window and execution queue are empty and the Executor is IDLE,
whatever actions are pending (that it comes before R19's ACTIONS record is deduced, log 25), and otherwise waits, with
the close's tag, unanswered, and makes the whole window due: the memory becomes fixed, and the records are released in
order as room allows, up to one without its heading. The first check that a close fails gives its refusal, with the
first failure as data for LOAD-FAILED, and the active tables stay; with no load open, in a contour or outside one, that
is NO-LOAD, the first check of all. Whatever the outcome, no load is open after. -/
def Obligations.TableCloseIsJudged : Prop :=
  (∀ (r : Setup) (p : Packet) (rest : List Packet) (s : State) (staged : Staged),
    Takes 0x0A r p rest s → s.tables.load = some ⟨staged, none⟩ → staged.count < 256 →
    p.payload = u8 staged.count ++ tagBytes staged.crc → s.report.responses.length < 16 →
    (∀ es, staged = .density es → classesPresent s.tables.zone es = true →
      ∃ t, exec .tableClose s = .next t ∧ t.tables = { s.tables with density := es, load := none } ∧
        t.report.responses = s.report.responses ++ [.held ⟨0x0A, p.tag, .accepted, []⟩] ∧
        t.link = s.link.left r rest ∧ PlannerOnly s t) ∧
    (∀ es, staged = .zone es → s.planner.stream = .noBlock →
      es = [] ∨ (zonePresent es = true ∧ classesPresent es s.tables.density = true) →
      ∃ t, exec .tableClose s = .next t ∧ t.tables = { s.tables with zone := es, load := none } ∧
        t.report.responses = s.report.responses ++ [.held ⟨0x0A, p.tag, .accepted, []⟩] ∧
        t.link = s.link.left r rest ∧ PlannerOnly s t) ∧
    (∀ es, staged = .blade es → s.planner.stream = .noBlock →
      s.planner.window ≠ [] ∨ s.executor.queue ≠ [] ∨ s.executor.state ≠ .idle →
      ∃ t, exec .tableClose s = .next t ∧
        t.tables = { s.tables with load := none, waiting := some ⟨lookupKey 0 es, p.tag⟩ } ∧
        t.report = s.report ∧ t.link = s.link.left r rest ∧ PlannerOnly s t ∧
        (rest ≠ [] ∨ s.planner.actions = [] →
          let n := min (32 - s.executor.queue.length)
            (s.planner.window.takeWhile fun w => !w.record.body.headless).length
          t.executor.queue = s.executor.queue ++ (s.planner.window.take n).map (fun w => w.record) ∧
          t.planner.window = s.planner.window.drop n ∧
          (s.planner.window ≠ [] → t.planner.releasePoint =
            if s.planner.window.length ≤ n then none else some (s.planner.window.length - 1 - n))) ∧
        (∀ h c old, s.planner.memory = .inWindow h c →
          (s.planner.window.filterMap fun w => w.record.body.cut?).getLast? = some old →
          t.planner.memory = .fixed h c old.exit)) ∧
    (∀ es, staged = .blade es → s.planner.stream = .noBlock →
      s.planner.window = [] → s.executor.queue = [] → s.executor.state = .idle →
      ∃ t, exec .tableClose s = .next t ∧
        t.tables = { s.tables with load := none, blade := lookupKey 0 es } ∧
        t.report.responses = s.report.responses ++ [.held ⟨0x0A, p.tag, .accepted, []⟩] ∧
        t.link = s.link.left r rest ∧ PlannerOnly s t)) ∧
  (∀ (r : Setup) (p : Packet) (rest : List Packet) (s : State) (load : Load) (count : Byte) (c : BitVec 16)
    (reason : Reason) (data : List Byte),
    Takes 0x0A r p rest s → s.tables.load = some load → p.payload = count :: tagBytes c →
    s.report.responses.length < 16 →
    ((reason = .loadFailed ∧ (∃ i, load.failure = some (.badIndex i) ∧ data = u8 1 ++ u8 i ++ u8 0)) ∨
     (reason = .loadFailed ∧ (∃ i f, load.failure = some (.badField i f) ∧ data = u8 2 ++ u8 i ++ u8 f)) ∨
     (load.failure = none ∧ data = [] ∧
      ((reason = .count ∧ count.toNat ≠ load.staged.count) ∨
       (count.toNat = load.staged.count ∧
        ((reason = .crc ∧ c ≠ load.staged.crc) ∨
         (c = load.staged.crc ∧
          ((reason = .inconsistent ∧ keepsLaw load.staged s.tables = false) ∨
           (keepsLaw load.staged s.tables = true ∧ reason = .blockOpen ∧ load.staged.needsNoBlock = true ∧
            s.planner.stream ≠ .noBlock)))))))) →
    ∃ t, exec .tableClose s = .next t ∧
      t.report.responses = s.report.responses ++ [.held ⟨0x0A, p.tag, .refused reason, data⟩] ∧
      t.tables = { s.tables with load := none } ∧ t.link = s.link.left r rest ∧
      t.planner.stream = s.planner.stream ∧ t.planner.trimDist = s.planner.trimDist ∧
      (s.planner.stream = .inContour → t.part.state = .fault ∧ t.part.record.cause = some .program) ∧
      (s.planner.stream ≠ .inContour → PlannerOnly s t)) ∧
  ∀ (r : Setup) (p : Packet) (rest : List Packet) (s : State),
    Takes 0x0A r p rest s → s.tables.load = none → s.report.responses.length < 16 →
    ∃ t, exec .tableClose s = .next t ∧
      t.report.responses = s.report.responses ++ [.held ⟨0x0A, p.tag, .refused .noLoad, []⟩] ∧
      t.tables = s.tables ∧ t.link = s.link.left r rest ∧
      t.planner.stream = s.planner.stream ∧ t.planner.trimDist = s.planner.trimDist ∧
      (s.planner.stream = .inContour → t.part.state = .fault ∧ t.part.record.cause = some .program) ∧
      (s.planner.stream ≠ .inContour → PlannerOnly s t)

/-- R44, R45: with window and execution queue empty and the Executor IDLE, the waiting blade table becomes the active
one, or makes it absent, and its close is answered ACCEPTED with the close's tag. Until then BLADE_TABLE_COMMIT changes
nothing, which the model deduces (log 1). -/
def Obligations.BladeTableCommits : Prop :=
  ∀ (s : State) (w : WaitingBlade), s.part.inReset = false → s.tables.waiting = some w →
    (s.planner.window = [] → s.executor.queue = [] → s.executor.state = .idle → s.report.responses.length < 16 →
      exec .bladeTableCommit s = .next (({ s with tables := { s.tables with blade := w.entry, waiting := none } } :
        State).respond ⟨0x0A, w.tag, .accepted, []⟩)) ∧
    (s.planner.window ≠ [] ∨ s.executor.queue ≠ [] ∨ s.executor.state ≠ .idle →
      exec .bladeTableCommit s = .next s)

/-- R20, R24, R32: the law that every class the active zone table names is present in the active density table is kept
by every step. -/
def Obligations.ZoneLawIsKept : Prop :=
  ∀ s t : State, s.tables.consistent → step s = .next t → t.tables.consistent

/-! ## Immediate packets -/

/-- R146, R147, R152, Table 9.2: SETUP is accepted in UNCONFIGURED when every field is in its range: the record is
stored, the part is PARKED, or FAULT with STOP as first cause when the STOP input is asserted, and the Port sends from
then on; otherwise it is refused with the number of the first field out of range, and changes nothing; and outside
UNCONFIGURED it is refused with STATE. The setup record, once taken, does not change until the RESET input acts. -/
def Obligations.SetupIsJudgedAsAWhole : Prop :=
  (∀ (tag : Tag) (r : Setup) (s : State), Answerable s →
    (s.part.state ≠ .unconfigured → exec (.setup tag r) s = .next (s.respond ⟨0x10, tag, .refused .state, []⟩)) ∧
    (s.part.state = .unconfigured →
      ((∀ n, setupFieldOk r n) → s.part.stopInput = false →
        exec (.setup tag r) s = .next (({ s with
          part := { s.part with state := .parked, setup := some r }
          port := { s.port with sending := true, dropMask := r.dropMask } } : State).respond
            ⟨0x10, tag, .accepted, []⟩)) ∧
      ((∀ n, setupFieldOk r n) → s.part.stopInput = true →
        ∃ t, exec (.setup tag r) s = .next t ∧ t.part.state = .fault ∧ t.part.setup = some r ∧
          t.part.record.cause = some .stop ∧ t.port.sending = true ∧
          t.report.responses = s.report.responses ++ [.held ⟨0x10, tag, .accepted, []⟩]) ∧
      (∀ n, n ≤ 14 → ¬ setupFieldOk r n → (∀ m, m < n → setupFieldOk r m) →
        exec (.setup tag r) s = .next (s.respond ⟨0x10, tag, .refused .range, [BitVec.ofNat 8 n]⟩)))) ∧
  ∀ (c : Instr) (s t : State), s.part.state ≠ .unconfigured → c ≠ .reset → c ≠ .resetReleased →
    exec c s = .next t → t.part.setup = s.part.setup ∧ t.part.state ≠ .unconfigured

/-- R50, R169, R170, R172, R178, Tables 12.4 and 12.6: a QUERY is answered from the state as it stands, in every part
state, and changes nothing else: STATUS with the 33 bytes of its fields (the weights 64 and 128 of its flags byte and
the three bits above the drive-ready flags are 0: the model's choice, logs 38 and 16), POSITION with 32, most
significant byte first and each code as its table gives it, TABLE with id, entry count and CRC, SETUP with the 34 bytes
of the payload. A TABLE query of no table and a query of no item are refused with RANGE, SETUP without a setup record
with NOT-CONFIGURED. -/
def Obligations.QueriesAreAnswered : Prop :=
  ∀ (tag : Tag) (id item : Byte) (s : State), Answerable s →
    (∃ d, exec (.queryStatus tag id) s = .next (s.respond ⟨0x11, tag, .accepted, d⟩) ∧ d.length = 33 ∧
      fieldU d 0 1 = (match s.part.state with
        | .unconfigured => 0 | .parked => 1 | .running => 2 | .fault => 3 | .recovering => 4) ∧
      fieldU d 1 1 = (if s.part.abortFlag then 1 else 0) + (if s.tables.waiting.isSome then 2 else 0) +
        (if s.executor.state = .standoff true ∨ s.executor.state = .hold true then 4 else 0) +
        (if s.link.pace then 8 else 0) + (if s.port.held.alarm then 16 else 0) +
        (if s.part.record.position.isSome then 32 else 0) ∧
      fieldU d 2 1 = (match s.planner.stream with
        | .noBlock => 0 | .inBlock => 1 | .inContour => 2) ∧
      fieldU d 3 1 = (match s.executor.state with
        | .idle => 0 | .travel => 1 | .spinup => 2 | .plunge => 3 | .cut => 4 | .swivel => 5 | .retract _ => 6
        | .rotate => 7 | .trim => 8 | .dwell => 9 | .standoff _ => 10 | .hold _ => 11 | .stopping => 12
        | .stopped => 13) ∧
      fieldU d 4 1 = (match s.executor.state with
        | .retract .leave => 1 | .retract .lift => 2 | .retract .standoff => 3 | .retract .abort => 4
        | .retract .recover => 5 | _ => 0) ∧
      fieldU d 5 2 = s.executor.currentTag.toNat ∧
      fieldU d 7 1 = (match s.part.record.cause with
        | none => 0 | some .program => 1 | some .intakeOverrun => 2 | some .linkCrc => 3 | some .driveLink => 4
        | some .drive => 5 | some .lockTimeout => 6 | some .trimTimeout => 7 | some .bladeJam => 8
        | some .stop => 9) ∧
      fieldU d 8 2 = s.part.record.tag.toNat ∧
      (s.part.record.position = none → (d.drop 10).take 14 = List.replicate 14 0) ∧
      (∀ q, s.part.record.position = some q → (-2 ^ 31 ≤ q.x ∧ q.x < 2 ^ 31 → fieldS d 10 = q.x) ∧
        (-2 ^ 31 ≤ q.y ∧ q.y < 2 ^ 31 → fieldS d 14 = q.y) ∧ (q.z < 2 ^ 32 → fieldU d 18 4 = q.z) ∧
        (q.heading < 65536 → fieldU d 22 2 = q.heading)) ∧
      (Bounded s → fieldU d 24 1 = s.part.record.further ∧ fieldU d 25 1 = s.governor.operator ∧
        fieldU d 26 1 = min s.governor.operator s.governor.override ∧ fieldU d 27 1 = s.link.intake.length ∧
        fieldU d 28 1 = s.planner.window.length ∧ fieldU d 29 1 = s.executor.queue.length) ∧
      fieldU d 30 2 = min 65535 (s.planner.trimDist / 100000) ∧ fieldU d 32 1 = s.port.held.ready.toNat) ∧
    (∃ d, exec (.queryPosition tag id) s = .next (s.respond ⟨0x11, tag, .accepted, d⟩) ∧ d.length = 32 ∧
      (s.executor.position = none → d.take 15 = List.replicate 15 0) ∧
      (∀ q, s.executor.position = some q → fieldU d 0 1 ≠ 0 ∧ (-2 ^ 31 ≤ q.x ∧ q.x < 2 ^ 31 → fieldS d 1 = q.x) ∧
        (-2 ^ 31 ≤ q.y ∧ q.y < 2 ^ 31 → fieldS d 5 = q.y) ∧ (q.z < 2 ^ 32 → fieldU d 9 4 = q.z) ∧
        (q.heading < 65536 → fieldU d 13 2 = q.heading)) ∧
      (s.port.held.x < 2 ^ 32 → fieldU d 15 4 = s.port.held.x) ∧
      (s.port.held.y < 2 ^ 32 → fieldU d 19 4 = s.port.held.y) ∧
      (s.port.held.z < 2 ^ 32 → fieldU d 23 4 = s.port.held.z) ∧
      (s.port.held.heading < 65536 → fieldU d 27 2 = s.port.held.heading) ∧
      fieldU d 29 2 = s.port.held.echo.toNat ∧ (s.port.missed ≤ 255 → fieldU d 31 1 = s.port.missed)) ∧
    exec (.queryTable tag 1) s = .next (s.respond ⟨0x11, tag, .accepted,
      [1, BitVec.ofNat 8 s.tables.density.length] ++ tagBytes (crc (densityImages s.tables.density))⟩) ∧
    exec (.queryTable tag 2) s = .next (s.respond ⟨0x11, tag, .accepted,
      [2, BitVec.ofNat 8 s.tables.zone.length] ++ tagBytes (crc (zoneImages s.tables.zone))⟩) ∧
    (∀ e, s.tables.blade = some e → exec (.queryTable tag 3) s = .next (s.respond ⟨0x11, tag, .accepted,
      [3, 1] ++ tagBytes (crc (bladeImage 0 e))⟩)) ∧
    (s.tables.blade = none → exec (.queryTable tag 3) s = .next (s.respond ⟨0x11, tag, .accepted,
      [3, 0, 0xFF, 0xFF]⟩)) ∧
    (id ≠ 1 → id ≠ 2 → id ≠ 3 →
      exec (.queryTable tag id) s = .next (s.respond ⟨0x11, tag, .refused .range, []⟩)) ∧
    (∀ r, s.part.setup = some r →
      exec (.querySetup tag id) s = .next (s.respond ⟨0x11, tag, .accepted, setupBytes r⟩) ∧
      (setupBytes r).length = 34) ∧
    (s.part.setup = none →
      exec (.querySetup tag id) s = .next (s.respond ⟨0x11, tag, .refused .notConfigured, []⟩)) ∧
    (item.toNat = 0 ∨ 4 < item.toNat →
      exec (.queryItemRange tag item id) s = .next (s.respond ⟨0x11, tag, .refused .range, []⟩))

/-- R96, R168, R171, R172, R178: an accepted OVERRIDE sets the operator override to the request clamped into 25..100, is
answered with the value set, and changes nothing else. An EVENT-MASK is accepted in every part state, sets the enable of
source n by its bit of weight 2 to the power n − 1, ignores the bit of weight 128, and is answered with the enables as
set; that the answer carries that bit as 0 is the model's choice (log 35). -/
def Obligations.OverrideAndEventMask : Prop :=
  (∀ (tag : Tag) (requested : Byte) (s : State), Reaches s →
    let v := if requested.toNat < 25 then 25 else if 100 < requested.toNat then 100 else requested.toNat
    exec (.override tag requested) s = .next (({ s with governor := { s.governor with operator := v } } :
      State).respond ⟨0x12, tag, .accepted, [BitVec.ofNat 8 v]⟩)) ∧
  ∀ (tag : Tag) (enables : Byte) (s : State), Answerable s →
    ∃ t, exec (.eventMask tag enables) s = .next t ∧
      (∀ n, 1 ≤ n → n ≤ 7 → t.report.enables.getLsbD (n - 1) = enables.getLsbD (n - 1)) ∧
      t = ({ s with report := { s.report with enables := t.report.enables } } : State).respond
        ⟨0x17, tag, .accepted, [enables &&& 0x7F]⟩

/-- R126, R168: a HALT is refused with STATE outside RUNNING; during an abort stop, in HOLD, or with a request set it is
accepted without further effect; where the blade moves or works it sets the halt request and nothing else; and in IDLE,
DWELL and STANDOFF it takes the Executor to HOLD at once, with the request clear, the running dwell timer, also one
whose expiry is due and not yet taken (deduced, log 29), and the re-entry point kept. -/
def Obligations.HaltAsksForHold : Prop :=
  ∀ (tag : Tag) (s : State), Reaches s →
    (s.part.state ≠ .running → exec (.halt tag) s = .next (s.respond ⟨0x13, tag, .refused .state, []⟩)) ∧
    (s.part.state = .running →
      (s.part.abortFlag = true ∨ (∃ b, s.executor.state = .hold b) ∨ s.executor.haltRequest = true →
        exec (.halt tag) s = .next (s.respond ⟨0x13, tag, .accepted, []⟩)) ∧
      (s.part.abortFlag = false → s.executor.haltRequest = false →
        (s.executor.state = .travel ∨ s.executor.state = .cut ∨ s.executor.state = .plunge ∨
          s.executor.state = .spinup ∨ s.executor.state = .swivel ∨ s.executor.state = .rotate ∨
          s.executor.state = .trim ∨ (∃ p, s.executor.state = .retract p) →
          exec (.halt tag) s = .next (({ s with executor := { s.executor with haltRequest := true } } :
            State).respond ⟨0x13, tag, .accepted, []⟩)) ∧
        (∀ b, s.executor.standoffPending = false →
          (s.executor.state = .idle ∧ s.executor.inMaterial = false ∧ b = false) ∨
            (s.executor.state = .dwell ∧ b = false ∧ s.executor.dwellTimer ≠ .stopped) ∨
            ((∃ h, s.executor.state = .standoff h) ∧ s.executor.inMaterial = false ∧ b = true) →
          ∃ t, exec (.halt tag) s = .next t ∧ t.executor.state = .hold b ∧ t.executor.haltRequest = false ∧
            t.executor.dwellTimer = s.executor.dwellTimer ∧ t.executor.reentry = s.executor.reentry ∧
            t.executor.position = s.executor.position ∧ t.executor.queue = s.executor.queue ∧
            t.part = s.part ∧ ExecutorOnly s t ∧
            t.report.responses = s.report.responses ++ [.held ⟨0x13, tag, .accepted, []⟩])))

/-- R44, R45, R128, R145, R174: RESUME is accepted in HOLD and in STANDOFF reached from HOLD, and refused with STATE
otherwise. In material a part-done CUT goes on at speed 0 from its distance with the dwell timer stopped, and with no
record and an empty queue DWELL is entered with the timer started afresh, with a record waiting DWELL without it; out of
material a part-done TRAVEL goes on, and with no record IDLE is entered, and where the four conditions of R145 then hold
the part is PARKED and a waiting blade table commits and has its close answered; HOLD entered from STANDOFF, and
STANDOFF reached from HOLD, become STANDOFF. That the state reads DWELL, its timer stopped, until a waiting record
begins is deduced (log 13), and so is STANDOFF for a part-done or waiting record until its re-entry begins at the next
frame (log 20). That a part-done CUT of a dry-run block, out of material, goes on in the same way is deduced (log 36),
and so is that no re-entry point stands once a part-done record goes on (log 37). -/
def Obligations.ResumeLeavesHold : Prop :=
  ∀ (tag : Tag) (s : State), Reaches s →
    (s.part.state ≠ .running ∨ (¬ (∃ b, s.executor.state = .hold b) ∧ s.executor.state ≠ .standoff true) →
      exec (.resume tag) s = .next (s.respond ⟨0x14, tag, .refused .state, []⟩)) ∧
    (s.part.state = .running →
      (s.executor.state = .hold true ∨ s.executor.state = .standoff true →
        exec (.resume tag) s = .next (({ s with executor := { s.executor with state := .standoff false } } :
          State).respond ⟨0x14, tag, .accepted, []⟩)) ∧
      (s.executor.state = .hold false →
        (∀ cur c, s.executor.current = some cur → cur.complete = false → cur.record.body = .cut c →
          exec (.resume tag) s = .next (({ s with executor :=
            { s.executor with state := .cut, dwellTimer := .stopped, reentry := none } } : State).respond
              ⟨0x14, tag, .accepted, []⟩)) ∧
        (∀ cur x y h, s.executor.current = some cur → cur.complete = false → cur.record.body = .travel x y h →
          exec (.resume tag) s = .next (({ s with executor :=
            { s.executor with state := .travel, dwellTimer := .stopped, reentry := none } } : State).respond
              ⟨0x14, tag, .accepted, []⟩)) ∧
        (∀ b, s.executor.current = none → s.executor.inMaterial = true → s.executor.queue = [] →
          s.tables.blade = some b → 0 < b.dwellTimeout →
          ∃ t, exec (.resume tag) s = .next t ∧ t.executor.state = .dwell ∧
            t.executor.dwellTimer = .running 0 b.dwellTimeout ∧ t.executor.position = s.executor.position ∧
            ExecutorOnly s t ∧
            t.report.responses = s.report.responses ++ [.held ⟨0x14, tag, .accepted, []⟩]) ∧
        (s.executor.current = none → s.executor.inMaterial = true → s.executor.queue ≠ [] →
          exec (.resume tag) s = .next (({ s with executor :=
            { s.executor with state := .dwell, dwellTimer := .stopped } } : State).respond
              ⟨0x14, tag, .accepted, []⟩)) ∧
        (s.executor.current = none → s.executor.inMaterial = false →
          ∃ t, exec (.resume tag) s = .next t ∧ t.executor = { s.executor with state := .idle } ∧
            t.link = s.link ∧ t.planner = s.planner ∧ t.governor = s.governor ∧ t.port = s.port ∧
            (s.planner.window ≠ [] ∨ s.executor.queue ≠ [] ∨ s.planner.stream ≠ .noBlock → t.part = s.part ∧
              (s.planner.window ≠ [] ∨ s.executor.queue ≠ [] ∨ s.tables.waiting = none → t.tables = s.tables ∧
                t.report.responses = s.report.responses ++ [.held ⟨0x14, tag, .accepted, []⟩])) ∧
            (s.planner.window = [] → s.executor.queue = [] → s.planner.stream = .noBlock →
              s.part.abortFlag = false → t.part = { s.part with state := .parked } ∧
              (s.tables.waiting = none → t.tables = s.tables ∧
                t.report.responses = s.report.responses ++ [.held ⟨0x14, tag, .accepted, []⟩]) ∧
              (∀ w, s.tables.waiting = some w →
                t.tables = { s.tables with blade := w.entry, waiting := none } ∧
                (s.report.responses.length < 15 → t.report.responses = s.report.responses ++
                  [.held ⟨0x14, tag, .accepted, []⟩, .held ⟨0x0A, w.tag, .accepted, []⟩]) ∧
                (s.report.responses.length = 15 → t.report.responses = s.report.responses ++
                    [.held ⟨0x14, tag, .accepted, []⟩] ∧
                  t.report.events.link = true ∧ t.report.events.linkReason = some .responseFull))))))

/-- R47, R76, R129, R156: an ABORT acted on empties the intake queue, the window, the pending actions and the execution
queue, puts the stream context in NO-BLOCK and the memory at none, abandons an open load, sets an executing CUT's exit
to 0, and keeps the trim distance, the density and zone tables, the overrides, the lines, the position and the fault
record. In a moving CUT the abort stop goes on, with the blade table and the waiting one kept; at rest in material, in
DWELL or HOLD, the retract with purpose ABORT begins at once; at rest out of material, in IDLE, STANDOFF or HOLD, the
part is PARKED at once. PARKED, or with an abort stop in progress, it is accepted without effect; in FAULT and
RECOVERING it is refused. -/
def Obligations.AbortDropsTheProgram : Prop :=
  ∀ (tag : Tag) (s : State), Reaches s →
    (s.part.state = .fault ∨ s.part.state = .recovering →
      exec (.abort tag) s = .next (s.respond ⟨0x15, tag, .refused .state, []⟩)) ∧
    (s.part.state = .parked ∨ (s.part.state = .running ∧ s.part.abortFlag = true) →
      exec (.abort tag) s = .next (s.respond ⟨0x15, tag, .accepted, []⟩)) ∧
    (s.part.state = .running → s.part.abortFlag = false →
      ∃ t, exec (.abort tag) s = .next t ∧
        (s.report.responses ++ [.held ⟨0x15, tag, .accepted, []⟩]) <+: t.report.responses ∧
        t.link.intake = [] ∧ (∀ r, s.part.setup = some r → t.link = s.link.left r []) ∧ t.planner = { s.planner with
          stream := .noBlock, block := none, prev := none, contour := none, plannedHeading := none, actions := [],
          memory := .none, window := [], releasePoint := none, boundary := 0 } ∧
        t.executor.queue = [] ∧ t.executor.haltRequest = false ∧ t.executor.reentry = none ∧
        t.executor.dwellTimer = .stopped ∧ t.executor.position = s.executor.position ∧
        t.executor.currentTag = s.executor.currentTag ∧ t.executor.heldPlunge = s.executor.heldPlunge ∧
        (∀ cur c, t.executor.current = some cur → cur.record.body = .cut c → c.exit = 0) ∧
        t.tables.load = none ∧ t.tables.density = s.tables.density ∧ t.tables.zone = s.tables.zone ∧
        t.governor = s.governor ∧ t.port = s.port ∧ t.keptFreq = s.keptFreq ∧ t.pending = s.pending ∧
        t.part.record = s.part.record ∧ t.part.setup = s.part.setup ∧
        (s.executor.state = .cut → (∃ cur c, s.executor.current = some cur ∧ cur.record.body = .cut c ∧
            cur.complete = false ∧ 0 < cur.speed) →
          t.part.state = .running ∧ t.part.abortFlag = true ∧ t.executor.state = .cut ∧
          t.tables.blade = s.tables.blade ∧ t.tables.waiting = s.tables.waiting) ∧
        (∀ pos blk v, s.executor.state = .dwell ∨ (∃ b, s.executor.state = .hold b) →
          s.executor.inMaterial = true → s.executor.position = some pos → s.executor.block = some blk →
          s.executor.heldPlunge = some v → pos.z < blk.clear →
          t.part.state = .running ∧ t.part.abortFlag = true ∧ t.executor.state = .retract .abort ∧
          t.executor.zMove = some ⟨blk.clear, v⟩ ∧ t.executor.current = none ∧
          t.tables.blade = s.tables.blade ∧ t.tables.waiting = s.tables.waiting) ∧
        (s.executor.state = .idle ∨ (∃ b, s.executor.state = .standoff b) ∨ (∃ b, s.executor.state = .hold b) →
          s.executor.inMaterial = false →
          t.part.state = .parked ∧ t.part.abortFlag = false ∧ t.executor.state = .idle ∧
          t.executor.current = none))

/-- R153: CLEAR-FAULT is accepted in FAULT with the Executor STOPPED and the STOP input released; otherwise it is
refused, STOPPED with the input asserted in FAULT, STATE in FAULT before STOPPED and in PARKED, RUNNING and RECOVERING,
NOT-CONFIGURED in UNCONFIGURED, and nothing else changes. In the last frame of STOPPING it is refused before the stop's
end is taken and accepted after it. -/
def Obligations.ClearFaultIsJudged : Prop :=
  ∀ (tag : Tag) (s : State), Answerable s →
    (s.part.state = .fault → s.part.stopInput = true →
      exec (.clearFault tag) s = .next (s.respond ⟨0x16, tag, .refused .stopped, []⟩)) ∧
    (s.part.state = .fault → s.part.stopInput = false → s.executor.state ≠ .stopped →
      exec (.clearFault tag) s = .next (s.respond ⟨0x16, tag, .refused .state, []⟩)) ∧
    (s.part.state = .parked ∨ s.part.state = .running ∨ s.part.state = .recovering →
      exec (.clearFault tag) s = .next (s.respond ⟨0x16, tag, .refused .state, []⟩)) ∧
    (s.part.state = .unconfigured →
      exec (.clearFault tag) s = .next (s.respond ⟨0x16, tag, .refused .notConfigured, []⟩)) ∧
    (s.part.state = .fault → s.part.stopInput = false → s.executor.state = .stopped →
      ∃ t, exec (.clearFault tag) s = .next t ∧ t.part.record.cause = none ∧
        (t.part.state = .recovering ∨ t.part.state = .parked) ∧
        (s.report.responses ++ [.held ⟨0x16, tag, .accepted, []⟩]) <+: t.report.responses) ∧
    (s.part.state = .fault → s.part.stopInput = false → s.executor.state = .stopping → s.executor.speed = 0 →
      ∃ u t, exec .stopped s = .next u ∧ exec (.clearFault tag) u = .next t ∧
        t.part.record.cause = none)

/-- R45, R47, R87, R138, R154, R155: an accepted CLEAR-FAULT clears the program, the fault record, the held alarm, the
missed count and the trim distance, and keeps the setup record, the tables, the overrides, the lines, the position, the
executing block and the held plunge speed. With the blade below its target, the clear Z of the executing block or the
setup Z max, the RECOVER retract begins; with nothing to raise, or no position, the part is PARKED at once, and a
waiting blade table commits then. That the fault record without cause has tag 0 and no position is the model's (log 26).
-/
def Obligations.ClearFaultRecovers : Prop :=
  ∀ (tag : Tag) (s : State), Reaches s → s.part.state = .fault → s.part.stopInput = false →
    s.executor.state = .stopped →
    ∃ t, exec (.clearFault tag) s = .next t ∧
      t.part.record = { cause := none, tag := 0, position := none, further := 0 } ∧
      (∀ r, s.part.setup = some r → t.link = s.link.left r []) ∧ t.link.intake = [] ∧ t.planner.window = [] ∧
      t.planner.actions = [] ∧ t.planner.stream = .noBlock ∧
      t.planner.block = none ∧ t.planner.memory = .none ∧ t.planner.trimDist = 0 ∧ t.tables.load = none ∧
      t.executor.queue = [] ∧ t.executor.current = none ∧ t.executor.reentry = none ∧
      t.port.held.alarm = false ∧ t.port.missed = 0 ∧ t.port.lines = s.port.lines ∧
      t.part.setup = s.part.setup ∧ t.tables.density = s.tables.density ∧ t.tables.zone = s.tables.zone ∧
      t.governor = s.governor ∧ t.executor.position = s.executor.position ∧
      t.executor.currentTag = s.executor.currentTag ∧ t.executor.block = s.executor.block ∧
      t.executor.heldPlunge = s.executor.heldPlunge ∧ (s.tables.waiting = none → t.report.events = s.report.events) ∧
      t.report.marks = s.report.marks ∧ t.report.enables = s.report.enables ∧ t.pending = s.pending ∧
      (s.tables.waiting = none → t.tables.blade = s.tables.blade ∧ t.tables.waiting = none) ∧
      (t.part.state = .parked → ∀ w, s.tables.waiting = some w → t.tables.blade = w.entry ∧ t.tables.waiting = none) ∧
      (t.part.state = .recovering → t.tables.blade = s.tables.blade ∧ t.tables.waiting = s.tables.waiting) ∧
      (∀ pos r, s.executor.position = some pos → s.part.setup = some r →
        let target := match s.executor.block with
          | some b => b.clear
          | none => r.zMax
        (pos.z < target → t.part.state = .recovering ∧ t.executor.state = .retract .recover ∧
          t.executor.zMove = some ⟨target, s.executor.heldPlunge.getD r.zAirSpeed⟩) ∧
        (target ≤ pos.z → t.part.state = .parked ∧ t.executor.state = .idle)) ∧
      (s.executor.position = none → t.part.state = .parked ∧ t.executor.state = .idle)

/-! ## The lines -/

/-- R93, R130, R141, R148 to R150, R152: a change of the STOP input from released to asserted raises STOP: a further
fault in FAULT, none in UNCONFIGURED, where the level is noted; held asserted it raises nothing more, and its release
raises nothing. In PARKED, RUNNING and RECOVERING it is the first cause: the part is FAULT, the fault record is filled,
the FAULT event is raised, the lines the mask selects are off, the trim request is withdrawn, timers, halt request,
re-entry point and abort flag are gone, and the Executor is STOPPING in a CUT or TRAVEL that moves and STOPPED at speed
0 or without a position. -/
def Obligations.StopInputRaisesStop : Prop :=
  ∀ s : State, s.part.inReset = false →
    exec .stopReleased s = .next { s with part := { s.part with stopInput := false } } ∧
    (s.part.stopInput = true → exec .stopAsserted s = .next s) ∧
    (s.part.stopInput = false →
      (s.part.state = .unconfigured →
        exec .stopAsserted s = .next { s with part := { s.part with stopInput := true } }) ∧
      (s.part.state = .fault →
        exec .stopAsserted s = .next { s with part := { s.part with
          stopInput := true
          record := { s.part.record with further := min 255 (s.part.record.further + 1) } } }) ∧
      (s.part.state = .parked ∨ s.part.state = .running ∨ s.part.state = .recovering →
        ∃ t, exec .stopAsserted s = .next t ∧ t.part =
          { s.part with
            state := .fault
            stopInput := true
            abortFlag := false
            record := { cause := some .stop, tag := s.executor.currentTag, position := s.executor.position,
                        further := 0 } } ∧
          t.report = { s.report with events :=
            { s.report.events with fault := true, faultCode := some .stop, faultTag := s.executor.currentTag } } ∧
          (∀ n, n < 8 → t.port.lines.getLsbD n = (s.port.lines.getLsbD n && !s.port.dropMask.getLsbD n)) ∧
          t.port.trimRequest = false ∧ t.port.held = s.port.held ∧ t.port.missed = s.port.missed ∧
          t.executor.position = s.executor.position ∧ t.executor.current = s.executor.current ∧
          t.executor.queue = s.executor.queue ∧ t.executor.block = s.executor.block ∧
          t.executor.heldPlunge = s.executor.heldPlunge ∧ t.executor.haltRequest = false ∧
          t.executor.reentry = none ∧ t.executor.lockTimer = .stopped ∧ t.executor.trimTimer = .stopped ∧
          t.executor.dwellTimer = .stopped ∧ t.executor.zMove = none ∧
          (∀ cur, s.executor.state = .cut ∨ s.executor.state = .travel → s.executor.current = some cur →
            cur.record.body.isPath = true → cur.complete = false → 0 < cur.speed → s.executor.position ≠ none →
            t.executor.state = .stopping) ∧
          (s.executor.position = none ∨ s.executor.speed = 0 → t.executor.state = .stopped) ∧
          t.planner = s.planner ∧ t.tables = s.tables ∧ t.link = s.link ∧ t.governor = s.governor ∧
          t.keptFreq = s.keptFreq ∧ t.pending = s.pending))

/-! ## What a frame starts -/

/-- R17, R66, R78 to R81, R83, R98, R107, R113 to R119, R121, R140, R176: with no record in progress a frame begins the
record at the head of the execution queue, performs its actions, and carries out the first frame of its work: the Z move
of a BLOCK-START, which sets the executing block and resets the Load Governor; a TRAVEL from the setpoints as they
stand; the spin-up of an ENTER, whose lock timer runs; a CUT from rest; a SWIVEL; the retract of a LIFT, or its rotation
in a dry-run block; the retract of a LEAVE. A PIVOT with the forced flag raises TRIM-FORCED with its tag. As the
Executor takes the record the Planner of a part at work releases behind it as many as its rules call for
(`Begun.released`). -/
def Obligations.FrameBeginsTheNextRecord : Prop :=
  ∀ (s : State) (b : BladeEntry) (r : Setup) (pos : Position) (q : Record) (rest : List Record),
    Free b r pos s → s.executor.state.begins = true → s.executor.queue = q :: rest →
    let turned := fun (rotation : Int) (rate : Nat) =>
      let step := max 1 (rate * r.period / 1000)
      if rotation.natAbs ≤ step then rotation else if 0 < rotation then (step : Int) else -(step : Int)
    let first := fun (bound exit len : Nat) =>
      let least := min (min (max 1 (r.accel * r.period / 1000)) bound) (reach r.accel exit len)
      if least < 1 ∧ 0 < len then 1 else least
    (∀ top clear dry tag, q.body = .blockStart top clear dry tag → pos.z < clear ∨ (dry = true ∧ pos.z ≠ clear) →
      ∃ t, exec .frame s = .next t ∧ Begun q rest s t ∧ t.executor.state = .travel ∧
        t.executor.block = some ⟨top, clear, dry⟩ ∧
        t.executor.position = some { pos with z := (if pos.z ≤ clear then min clear (pos.z + r.zAirSpeed * r.period)
          else max clear (pos.z - r.zAirSpeed * r.period)) } ∧
        t.governor = { s.governor with override := 100, evalCount := 0, jamCount := 0 } ∧
        t.report.events = s.report.events) ∧
    (∀ x y h, q.body = .travel x y (some h) →
      let len := vecLength (x - pos.x) (y - pos.y)
      let turn := Machine.rotationOf pos.heading h
      let part := turned turn b.airRate
      let d := min len (first r.travelSpeed 0 len * r.period)
      ¬ (len = 0 ∧ turn = 0) →
      ∃ t cur pos', exec .frame s = .next t ∧ Begun q rest s t ∧ t.executor.state = .travel ∧
        t.executor.current = some cur ∧ cur.len = len ∧ cur.dist = d ∧ cur.startX = pos.x ∧ cur.startY = pos.y ∧
        cur.turn = turn - part ∧ cur.complete = decide (len ≤ d ∧ turn - part = 0) ∧
        t.executor.position = some pos' ∧ pos'.z = pos.z ∧
        pos'.heading = (((pos.heading : Int) + part) % 36000).toNat ∧
        (0 < len → pos'.x = along pos.x x d len ∧ pos'.y = along pos.y y d len) ∧
        t.governor = s.governor ∧ t.report.events = s.report.events) ∧
    (∀ x y h v, q.body = .enter x y h v → (∀ blk, s.executor.block = some blk → blk.dry = false) →
      ∃ t, exec .frame s = .next t ∧ Begun q rest s t ∧ t.executor.state = .spinup ∧
        t.executor.lockTimer = .running r.period b.lockTimeout ∧ t.executor.spinupFrame = some s.port.frameNo ∧
        t.executor.zMove = some ⟨r.zCut, v⟩ ∧ t.executor.position = some pos ∧ t.governor = s.governor ∧
        t.report.events = s.report.events) ∧
    (∀ c, q.body = .cut c →
      let v := first (max 1 (c.cap * min s.governor.operator s.governor.override / 100)) c.exit c.len
      let d := v * r.period
      d < c.len →
      ∃ t cur, exec .frame s = .next t ∧ Begun q rest s t ∧ t.executor.state = .cut ∧
        t.executor.current = some cur ∧ cur.dist = d ∧ cur.speed = v ∧ cur.len = c.len ∧ cur.complete = false ∧
        t.executor.position = some { pos with
          x := along c.x0 c.x1 d c.len
          y := along c.y0 c.y1 d c.len
          heading := cutHeading b.lead t.executor.queue c d } ∧
        t.governor = s.governor.afterFrame (!s.executor.dry) c.snap.ceiling ∧
        t.report.events = s.report.events) ∧
    (∀ p, q.body = .pivot p →
      let events := if p.forced = true then { s.report.events with trimForced := true, trimForcedTag := q.tag }
        else s.report.events
      (∀ part rate, p.rotation ≠ 0 → part = turned p.rotation rate →
        (p.cls = .swivel ∧ rate = b.swivelRate) ∨
          (p.cls = .lift ∧ rate = b.airRate ∧ ∃ blk, s.executor.block = some blk ∧ blk.dry = true) →
        ∃ t cur, exec .frame s = .next t ∧ Begun q rest s t ∧
          t.executor.state = (if p.cls = .swivel then .swivel else .rotate) ∧
          t.executor.current = some cur ∧ cur.turn = p.rotation - part ∧
          t.executor.position = some { pos with heading := (((pos.heading : Int) + part) % 36000).toNat } ∧
          t.governor = s.governor ∧ t.report.events = events) ∧
      (∀ blk v, p.cls = .lift → p.plunge = some v → s.executor.block = some blk → blk.dry = false →
        pos.z < blk.clear →
        ∃ t, exec .frame s = .next t ∧ Begun q rest s t ∧ t.executor.state = .retract .lift ∧
          t.executor.position = some { pos with z := min blk.clear (pos.z + v * r.period) } ∧
          t.governor = s.governor ∧ t.report.events = events)) ∧
    ∀ g f blk, q.body = .leave g f → s.executor.block = some blk → pos.z < blk.clear →
      ∃ t, exec .frame s = .next t ∧ Begun q rest s t ∧ t.executor.state = .retract .leave ∧
        t.executor.position = some { pos with z := min blk.clear (pos.z + g * r.period) } ∧
        t.governor = s.governor ∧ t.report.events = s.report.events

/-- R83, R107, R123, R124, R145, Table 3.5: a record whose work takes no time is followed by the next in the same frame,
the actions of both are performed in order, and the release rules are applied behind them. With the execution queue
empty at the start of a frame the Executor enters DWELL in material, with the dwell timer started, or at once the
standoff retract when the timeout is 0, and IDLE out of it; the part is then PARKED when no block is open and the window
is empty, and a waiting blade table commits. A BLOCK-DONE that leaves the queue empty ends in IDLE in its own frame out
of material (Table 3.5; the model's deduction, log 31); in material, and an ACTIONS anywhere, it stays the complete
record of that frame, whose state is named as it was before (log 31), and the rest is looked for at the start of the
next; a BLOCK-DONE raises its event with the block tag. -/
def Obligations.ZeroTimeRecordsAndRest : Prop :=
  (∀ (s : State) (b : BladeEntry) (r : Setup) (pos : Position) (q next : Record) (rest : List Record) (c : CutRecord),
    Free b r pos s → s.executor.state.begins = true → s.executor.queue = q :: next :: rest → next.body = .cut c →
    max 1 (r.accel * r.period / 1000) * r.period < c.len →
    (q.body = .actions ∨ (∃ tag, q.body = .blockDone tag) ∨
      (∃ top clear dry tag, q.body = .blockStart top clear dry tag ∧
        (pos.z = clear ∨ (dry = false ∧ clear ≤ pos.z))) ∨
      (∃ x y h p blk, q.body = .enter x y h p ∧ s.executor.block = some blk ∧ blk.dry = true) ∨
      (q.body = .travel pos.x pos.y (some pos.heading) ∧ pos.heading < 36000) ∨
      (∃ g blk, q.body = .leave g false ∧ s.executor.block = some blk ∧ blk.clear ≤ pos.z)) →
    ∃ t cur, exec .frame s = .next t ∧ t.executor.state = .cut ∧ t.executor.currentTag = next.tag ∧
      t.executor.current = some cur ∧ cur.record = next ∧ rest <+: t.executor.queue ∧
      Performs (q.actions ++ next.actions) s t ∧
      (s.part.state = .parked ∨ s.part.state = .running → s.link.intake ≠ [] ∨ s.planner.actions = [] →
        Released rest s t) ∧
      (∀ tag, q.body = .blockDone tag →
        t.report.events = { s.report.events with blockDone := true, blockDoneTag := tag }) ∧
      (∀ top clear dry tag, q.body = .blockStart top clear dry tag →
        t.executor.block = some ⟨top, clear, dry⟩ ∧ t.governor.override = 100) ∧
      ((∀ tag, q.body ≠ .blockDone tag) → t.report.events = s.report.events)) ∧
  (∀ (s : State) (b : BladeEntry) (r : Setup) (pos : Position) (cur : Current),
    Free b r pos s → s.executor.state.begins = true → s.executor.queue = [] → s.executor.current = some cur →
    ∃ t, exec .frame s = .next t ∧ t.executor.current = none ∧ t.executor.queue = [] ∧
      t.executor.currentTag = s.executor.currentTag ∧ t.planner = s.planner ∧ t.governor = s.governor ∧
      t.link = s.link ∧
      (s.executor.inMaterial = true → 0 < b.dwellTimeout → t.executor.state = .dwell ∧
        t.executor.dwellTimer = .running r.period b.dwellTimeout ∧ t.executor.position = some pos ∧
        FrameOnly s t) ∧
      (s.executor.inMaterial = true → b.dwellTimeout = 0 → ∀ blk v, s.executor.block = some blk →
        s.executor.heldPlunge = some v → pos.z < blk.clear → t.executor.state = .retract .standoff ∧
        t.executor.reentry = some ⟨pos.x, pos.y, pos.heading, v⟩ ∧ t.executor.dwellTimer = .stopped ∧
        t.executor.position = some { pos with z := min blk.clear (pos.z + v * r.period) } ∧ FrameOnly s t) ∧
      (s.executor.inMaterial = false → t.executor.state = .idle ∧ t.executor.position = some pos ∧
        (s.part.state = .running → s.planner.stream = .noBlock → s.planner.window = [] →
          t.part = { s.part with state := .parked }) ∧
        (s.part.state ≠ .running ∨ s.planner.stream ≠ .noBlock ∨ s.planner.window ≠ [] → t.part = s.part) ∧
        (s.tables.waiting = none ∨ s.planner.window ≠ [] → t.tables = s.tables ∧ t.report = s.report) ∧
        (∀ w, s.tables.waiting = some w → s.planner.window = [] →
          t.tables = { s.tables with blade := w.entry, waiting := none }))) ∧
  ∀ (s : State) (b : BladeEntry) (r : Setup) (pos : Position) (q : Record),
    Free b r pos s → pos.heading < 36000 → s.executor.state.begins = true → s.executor.queue = [q] →
    q.body = .actions ∨ (∃ tag, q.body = .blockDone tag) →
    s.planner.window = [] → s.planner.actions = [] ∨ s.link.intake ≠ [] →
    ∃ t, exec .frame s = .next t ∧ t.executor.currentTag = q.tag ∧ t.executor.queue = [] ∧
      t.executor.position = some pos ∧ Performs q.actions s t ∧
      (q.body = .actions → s.tables.waiting = none → t.report.events = s.report.events) ∧
      (∀ tag, q.body = .blockDone tag → s.tables.waiting = none →
        t.report.events = { s.report.events with blockDone := true, blockDoneTag := tag }) ∧
      (s.executor.inMaterial = false → q.body ≠ .actions → t.executor.state = .idle ∧ t.executor.current = none ∧
        (s.part.state = .running → s.planner.stream = .noBlock → t.part.state = .parked)) ∧
      (s.executor.inMaterial = true ∨ q.body = .actions → t.executor.state = s.executor.state ∧
        t.executor.dwellTimer = .stopped ∧ t.part = s.part ∧
        ∃ cur, t.executor.current = some cur ∧ cur.record = q ∧ cur.complete = true)

/-- R107, R121, R122, R125, R128: in STANDOFF a waiting CUT or PIVOT, or a CUT part done, first re-enters the foam: the
spin-up starts at the re-entry point with the lock timer running, and the record waits. An ACTIONS is performed and
STANDOFF stays, with its re-entry point. A LEAVE is begun; its retract is complete at once, and its trim starts in the
same frame. At the end of the re-entry plunge the waiting CUT is begun, or the part-done one goes on from rest at its
distance, and the re-entry point is absent; for the part-done one that is deduced (log 37). -/
def Obligations.StandoffReentersTheFoam : Prop :=
  ∀ (s : State) (b : BladeEntry) (r : Setup) (pos : Position), Framing b r s → Quiet s →
    s.executor.haltRequest = false → s.part.abortFlag = false → s.executor.position = some pos →
    s.executor.standoffPending = false →
    (s.executor.state = .standoff false → s.executor.stepDone = false → s.executor.reentering = false →
      (∀ e, s.executor.reentry = some e →
        (s.executor.free = true ∧ ∃ q rest, s.executor.queue = q :: rest ∧
          ((∃ c, q.body = .cut c) ∨ ∃ p, q.body = .pivot p)) ∨
          (∃ cur, s.executor.current = some cur ∧ cur.complete = false) →
        ∃ t, exec .frame s = .next t ∧ t.executor.state = .spinup ∧ t.executor.reentering = true ∧
          t.executor.lockTimer = .running r.period b.lockTimeout ∧ t.executor.spinupFrame = some s.port.frameNo ∧
          t.executor.zMove = some ⟨r.zCut, e.plunge⟩ ∧ t.executor.reentry = s.executor.reentry ∧
          t.executor.current = s.executor.current ∧ t.executor.position = some pos ∧ FrameOnly s t ∧
          t.governor = s.governor) ∧
      (∀ q, s.executor.free = true → s.executor.queue = [q] → q.body = .actions → s.planner.window = [] →
        s.planner.actions = [] ∨ s.link.intake ≠ [] →
        ∃ t, exec .frame s = .next t ∧ t.executor.state = .standoff false ∧ t.executor.currentTag = q.tag ∧
          t.executor.current = none ∧ t.executor.queue = [] ∧ t.executor.reentry = s.executor.reentry ∧
          t.executor.position = some pos ∧ Performs q.actions s t ∧ t.tables = s.tables ∧
          t.governor = s.governor) ∧
      (∀ q rest g blk, s.executor.free = true → s.executor.queue = q :: rest → q.body = .leave g true →
        s.executor.block = some blk → blk.dry = false → blk.clear ≤ pos.z →
        ∃ t, exec .frame s = .next t ∧ Begun q rest s t ∧ t.executor.state = .trim ∧
          t.port.trimRequest = true ∧ t.executor.trimTimer = .running r.period b.trimTimeout ∧
          t.executor.trimFrame = some s.port.frameNo ∧ t.executor.position = some pos ∧
          t.governor = s.governor)) ∧
    (s.executor.state = .plunge → s.executor.reentering = true → s.executor.stepDone = true →
      let first := fun (c : CutRecord) (left : Nat) =>
        let bound := max 1 (c.cap * min s.governor.operator s.governor.override / 100)
        let least := min (min (max 1 (r.accel * r.period / 1000)) bound) (reach r.accel c.exit left)
        if least < 1 ∧ 0 < left then 1 else least
      (∀ q rest c, s.executor.free = true → s.executor.queue = q :: rest → q.body = .cut c →
        first c c.len * r.period < c.len →
        ∃ t cur, exec .frame s = .next t ∧ Begun q rest s t ∧ t.executor.state = .cut ∧
          t.executor.reentering = false ∧ t.executor.current = some cur ∧ cur.speed = first c c.len ∧
          cur.dist = first c c.len * r.period) ∧
      (∀ cur c, s.executor.current = some cur → cur.complete = false → cur.record.body = .cut c →
        let v := first c (cur.len - cur.dist)
        cur.dist + v * r.period < cur.len →
        ∃ t, exec .frame s = .next t ∧ t.executor.state = .cut ∧ t.executor.reentering = false ∧
          t.executor.reentry = none ∧
          t.executor.current = some { cur with dist := cur.dist + v * r.period, speed := v } ∧ FrameOnly s t))

/-- R113, R119, R121, R122, R126, R129: the frame after a step is complete starts the next step of the record, under a
halt request or an abort stop too: after the retract of a LEAVE its TRIM; after the retract of a LIFT its rotation, or
at once the TRIM when there is nothing to turn; after the rotation the TRIM when the trim flag is set, and else the
plunge to the Z cut at the PIVOT's plunge speed. A TRIM sets the trim request and its timer. -/
def Obligations.StepsOfARecordFollow : Prop :=
  ∀ (s : State) (b : BladeEntry) (r : Setup) (pos : Position) (cur : Current),
    Framing b r s → Quiet s → s.executor.position = some pos → s.executor.current = some cur →
    cur.complete = false → s.executor.stepDone = true → s.executor.reentering = false →
    (∀ blk, s.executor.block = some blk → blk.dry = false) →
    (∀ p g, (s.executor.state = .retract .leave ∧ cur.record.body = .leave g true) ∨
        (s.executor.state = .retract .lift ∧ cur.record.body = .pivot p ∧ p.rotation = 0 ∧ p.trim = true) ∨
        (s.executor.state = .rotate ∧ cur.record.body = .pivot p ∧ p.trim = true) →
      ∃ t, exec .frame s = .next t ∧ t.executor.state = .trim ∧ t.port.trimRequest = true ∧
        t.executor.trimTimer = .running r.period b.trimTimeout ∧ t.executor.trimFrame = some s.port.frameNo ∧
        t.executor.position = some pos ∧ FrameOnly s t ∧ t.governor = s.governor) ∧
    (∀ p, s.executor.state = .retract .lift → cur.record.body = .pivot p → p.rotation ≠ 0 →
      let step := max 1 (b.airRate * r.period / 1000)
      let part := if p.rotation.natAbs ≤ step then p.rotation
        else if 0 < p.rotation then (step : Int) else -(step : Int)
      ∃ t, exec .frame s = .next t ∧ t.executor.state = .rotate ∧
        t.executor.current = some { cur with turn := p.rotation - part } ∧
        t.executor.position = some { pos with heading := (((pos.heading : Int) + part) % 36000).toNat } ∧
        FrameOnly s t ∧ t.governor = s.governor) ∧
    ∀ p v, s.executor.state = .rotate → cur.record.body = .pivot p → p.trim = false → p.plunge = some v →
      r.zCut < pos.z →
      ∃ t, exec .frame s = .next t ∧ t.executor.state = .plunge ∧
        t.executor.position = some { pos with z := max r.zCut (pos.z - v * r.period) } ∧
        FrameOnly s t ∧ t.governor = s.governor

/-! ## What moves in a frame -/

/-- R54, R92, R113, R114, R117 to R120, R126, R129: in a frame of a vertical move, the Z move of a BLOCK-START, a
plunge, that of a re-entry too, or a retract of any purpose, the Z setpoint moves one step of speed times T toward the
target, or onto it, and X, Y and the heading hold still; in a frame of a SWIVEL or a ROTATE the heading turns by one
step of its rate in the rotation's direction, or by what is left of it, and X, Y and Z hold still. What reaches its end
completes the record where it is the last step of it, and else the step. A halt request or an abort stop changes none of
this. -/
def Obligations.VerticalMovesAndTurnsTakeOneStep : Prop :=
  (∀ (s : State) (b : BladeEntry) (r : Setup) (pos : Position) (m : ZMove),
    Framing b r s → Quiet s → s.executor.stepDone = false → s.executor.position = some pos →
    s.executor.zMove = some m →
    (s.executor.reentering = false ∧ ∃ cur, s.executor.current = some cur ∧ cur.complete = false ∧
      (s.executor.state = .plunge ∨ s.executor.state = .retract .leave ∨ s.executor.state = .retract .lift ∨
        (s.executor.state = .travel ∧ ∃ top clear dry tag, cur.record.body = .blockStart top clear dry tag))) ∨
      (s.executor.reentering = true ∧ s.executor.state = .plunge) ∨ s.executor.state = .retract .standoff ∨
      s.executor.state = .retract .abort ∨ s.executor.state = .retract .recover →
    let z := if pos.z ≤ m.target then min m.target (pos.z + m.speed * r.period)
      else max m.target (pos.z - m.speed * r.period)
    ∃ t, exec .frame s = .next t ∧ t.executor.position = some { pos with z := z } ∧
      t.executor.state = s.executor.state ∧ FrameOnly s t ∧ t.governor = s.governor ∧
      (z ≠ m.target → t.executor.zMove = some m ∧ t.executor.current = s.executor.current ∧
        t.executor.stepDone = false) ∧
      (z = m.target →
        (∀ cur, s.executor.current = some cur → s.executor.reentering = false →
          s.executor.state = .plunge ∨ s.executor.state = .travel ∨
            (s.executor.state = .retract .leave ∧ ∃ g, cur.record.body = .leave g false) →
          t.executor.current = some { cur with complete := true, speed := 0 }) ∧
        (s.executor.reentering = true ∨ s.executor.state = .retract .lift ∨ s.executor.state = .retract .standoff ∨
          s.executor.state = .retract .abort ∨ s.executor.state = .retract .recover ∨
          (s.executor.state = .retract .leave ∧ s.executor.dry = false ∧
            ∃ cur g, s.executor.current = some cur ∧ cur.record.body = .leave g true) →
          t.executor.current = s.executor.current ∧ t.executor.stepDone = true))) ∧
  ∀ (s : State) (b : BladeEntry) (r : Setup) (pos : Position) (cur : Current) (rate : Nat),
    Framing b r s → Quiet s → s.executor.stepDone = false → s.executor.position = some pos →
    s.executor.current = some cur → cur.complete = false → s.executor.reentering = false →
    (s.executor.state = .swivel ∧ rate = b.swivelRate) ∨ (s.executor.state = .rotate ∧ rate = b.airRate) →
    let step := max 1 (rate * r.period / 1000)
    let part := if cur.turn.natAbs ≤ step then cur.turn else if 0 < cur.turn then (step : Int) else -(step : Int)
    let last := cur.turn = part ∧ (s.executor.state = .swivel ∨ s.executor.dry = true)
    ∃ t c, exec .frame s = .next t ∧
      t.executor.position = some { pos with heading := (((pos.heading : Int) + part) % 36000).toNat } ∧
      t.executor.current = some c ∧ c.record = cur.record ∧ c.turn = cur.turn - part ∧
      (last → c.complete = true) ∧ (¬ last → c.complete = false) ∧
      (t.executor.stepDone = true ↔ cur.turn = part ∧ ¬ last) ∧
      t.executor.state = s.executor.state ∧ FrameOnly s t ∧ t.governor = s.governor

/-- R99, R109 to R113, R115, R126, R129, R130: in a frame of a TRAVEL record the speed follows the rule with exit 0 and
the travel speed as bound, or, under a halt request or an abort stop, falls by a to no less than 0 and no more than the
braking limit; X and Y follow the record up to its target, the heading turns in parallel, and the record is complete
when both are. A CUT under a halt request or an abort stop slows in the same way, with its own exit, and a TRAVEL or CUT
in STOPPING by the step of E, where the turn of a TRAVEL stands still and no frame is counted. There is no creep floor.
A slowing frame that reaches the end of its record, at an exit of 0 or with neither a CUT nor an ACTIONS next, ends
there, complete and at speed 0 (at an exit above 0 before a record of another kind deduced, log 23). That a TRAVEL whose
XY move is over turns on under a halt request or an abort stop is deduced (log 32), and so is the look-ahead heading of
a CUT in STOPPING (log 10). -/
def Obligations.TravelAndSlowingFrames : Prop :=
  ∀ (s : State) (b : BladeEntry) (r : Setup) (pos : Position) (cur : Current),
    Framing b r s → Quiet s → s.executor.position = some pos → s.executor.current = some cur →
    cur.complete = false → s.executor.reentering = false → s.executor.stepDone = false →
    let slowing := s.executor.haltRequest = true ∨ s.part.abortFlag = true
    let a := max 1 (r.accel * r.period / 1000)
    (∀ x y h, s.executor.state = .travel → cur.record.body = .travel x y h →
      (slowing → 0 < cur.speed ∨ cur.len ≤ cur.dist) →
      let limit := reach r.accel 0 (cur.len - cur.dist)
      let least := min (min (cur.speed + a) r.travelSpeed) limit
      let step := max 1 (b.airRate * r.period / 1000)
      let part := if cur.turn.natAbs ≤ step then cur.turn else if 0 < cur.turn then (step : Int) else -(step : Int)
      ∃ (v d : Nat) (t : State) (pos' : Position), exec .frame s = .next t ∧
        (slowing → v = min (cur.speed - a) limit) ∧
        (¬ slowing → v = if least < 1 ∧ 0 < cur.len - cur.dist then 1 else least) ∧
        d = (if cur.dist < cur.len then min cur.len (cur.dist + v * r.period) else cur.dist) ∧
        t.executor.current = some { cur with
          dist := d
          speed := (if cur.len ≤ d then 0 else v)
          turn := cur.turn - part
          complete := decide (cur.len ≤ d ∧ cur.turn - part = 0) } ∧
        t.executor.position = some pos' ∧ pos'.z = pos.z ∧
        pos'.heading = (((pos.heading : Int) + part) % 36000).toNat ∧
        (cur.dist < cur.len → pos'.x = along cur.startX x d cur.len ∧ pos'.y = along cur.startY y d cur.len) ∧
        (cur.len ≤ cur.dist → pos'.x = pos.x ∧ pos'.y = pos.y) ∧
        t.executor.state = .travel ∧ t.governor = s.governor ∧ FrameOnly s t) ∧
    (∀ (exit slow : Nat), 0 < cur.speed →
      (s.executor.state = .cut ∧ slowing ∧ slow = a ∧ (∃ c, cur.record.body = .cut c ∧ c.exit = exit)) ∨
        (s.executor.state = .stopping ∧ slow = max 1 (r.stopDecel * r.period / 1000) ∧
          ((∃ c, cur.record.body = .cut c ∧ c.exit = exit) ∨
            (exit = 0 ∧ ∃ x y h, cur.record.body = .travel x y h))) →
      let v := min (cur.speed - slow) (reach r.accel exit (cur.len - cur.dist))
      let d := cur.dist + v * r.period
      (d < cur.len →
        ∃ t, exec .frame s = .next t ∧ t.executor.state = s.executor.state ∧
          t.executor.current = some { cur with dist := d, speed := v } ∧ FrameOnly s t ∧
          (∀ c, cur.record.body = .cut c →
            t.executor.position = some { pos with
              x := along c.x0 c.x1 d cur.len
              y := along c.y0 c.y1 d cur.len
              heading := cutHeading b.lead s.executor.queue c d } ∧
            t.governor = s.governor.afterFrame
              (decide (s.executor.state = .cut) && decide (0 < v) && !s.executor.dry) c.snap.ceiling) ∧
          (∀ x y h, cur.record.body = .travel x y h →
            t.executor.position = some { pos with
              x := along cur.startX x d cur.len
              y := along cur.startY y d cur.len } ∧
            t.governor = s.governor)) ∧
      (cur.len ≤ d →
        exit = 0 ∨ (∀ q, s.executor.queue.head? = some q → q.body ≠ .actions ∧ ∀ k, q.body ≠ .cut k) →
        ∃ t, exec .frame s = .next t ∧ t.executor.state = s.executor.state ∧
          t.executor.current = some { cur with dist := cur.len, speed := 0, complete := true } ∧ FrameOnly s t ∧
          t.governor = s.governor ∧
          (∀ c, cur.record.body = .cut c → t.executor.position = some { pos with
            x := along c.x0 c.x1 cur.len cur.len
            y := along c.y0 c.y1 cur.len cur.len
            heading := cutHeading b.lead s.executor.queue c cur.len }) ∧
          (∀ x y h, cur.record.body = .travel x y h → t.executor.position = some { pos with
            x := along cur.startX x cur.len cur.len
            y := along cur.startY y cur.len cur.len })))

/-- R99, R103, R109 to R112: in a frame of a CUT the speed is the least of v + a, the scaled cap and the braking limit,
with the creep floor. A frame that ends within the record adds speed times T to its distance; X and Y are the point at
that distance, Z holds still, and outside a dry-run block the frame is counted, the sixteenth leaving an evaluation due
with the CUT's load ceiling. One that reaches the record's end ends there, complete and at speed 0, when the exit is 0
or neither a CUT nor an ACTIONS is next; that the speed is 0 with an exit above 0 before a record of another kind is
deduced (log 23). The heading is that of the CUT that holds the point the lead distance ahead, along the CUTs up to the
first record of another kind, or of the last of them when the point lies beyond. -/
def Obligations.CutFrameFollowsItsSpeedRule : Prop :=
  (∀ (s : State) (b : BladeEntry) (r : Setup) (pos : Position) (cur : Current) (c : CutRecord),
    Framing b r s → Calm s → s.executor.position = some pos → s.executor.current = some cur →
    cur.complete = false → cur.record.body = .cut c → s.executor.reentering = false → s.executor.state = .cut →
    let a := max 1 (r.accel * r.period / 1000)
    let bound := max 1 (c.cap * min s.governor.operator s.governor.override / 100)
    let least := min (min (cur.speed + a) bound) (reach r.accel c.exit (cur.len - cur.dist))
    let v := if least < 1 ∧ 0 < cur.len - cur.dist then 1 else least
    let d := cur.dist + v * r.period
    v ≤ bound ∧
    (d < cur.len →
      ∃ t, exec .frame s = .next t ∧ t.executor.current = some { cur with dist := d, speed := v } ∧
        t.executor.position = some { pos with
          x := along c.x0 c.x1 d cur.len
          y := along c.y0 c.y1 d cur.len
          heading := cutHeading b.lead s.executor.queue c d } ∧
        t.executor.state = .cut ∧ FrameOnly s t ∧
        t.governor = s.governor.afterFrame (!s.executor.dry) c.snap.ceiling) ∧
    (cur.len ≤ d →
      c.exit = 0 ∨ (∀ q, s.executor.queue.head? = some q → q.body ≠ .actions ∧ ∀ k, q.body ≠ .cut k) →
      ∃ t pos', exec .frame s = .next t ∧
        t.executor.current = some { cur with dist := cur.len, speed := 0, complete := true } ∧
        t.executor.position = some pos' ∧ pos'.x = c.x1 ∧ pos'.y = c.y1 ∧ pos'.z = pos.z ∧
        pos'.heading = cutHeading b.lead s.executor.queue c cur.len ∧
        t.executor.state = .cut ∧ FrameOnly s t ∧ t.governor = s.governor)) ∧
  ∀ (lead dist : Nat) (queue : List Record) (c : CutRecord),
    let cuts := pathCuts c queue
    let upTo := fun n : Nat => ((cuts.take n).map fun k => k.len).sum
    (∀ (i : Nat) (k : CutRecord), cuts[i]? = some k → i = 0 ∨ upTo i < dist + lead → dist + lead ≤ upTo (i + 1) →
      cutHeading lead queue c dist = k.heading) ∧
    (∀ k, cuts.getLast? = some k → upTo cuts.length < dist + lead → cutHeading lead queue c dist = k.heading)

/-- R17, R78 to R81, R83, R107, R109 to R112, R118, R126, R129, R130: a frame of a CUT that passes its end with exit
above 0 goes through every ACTIONS, and every CUT with exit above 0 that is no longer than what is left of the excess,
to the CUT in which the frame ends: one longer than what is left, or one with exit 0, or with a record of another kind
behind it, or with none behind it and none to be released. In the first case that CUT is current, at that distance and
at the speed kept or its scaled cap if that is less, X and Y lie at that distance along it, and the frame is counted
with its load ceiling; in the others it is complete, at speed 0, at its end point (at an exit above 0 before a record of
another kind deduced, log 23). The tag and plunge speed are its own, the records passed are left behind, the actions of
all of them performed in order, and what the release rules call for released behind them, where no ACTIONS record is to
be made too; with an abort stop in progress nothing is. So it is too while the Executor slows by a under a halt request
or an abort stop. In a fault stop the same holds of the way, but the actions are dropped, no frame is counted and the
Planner does nothing. The carry itself obeys the same rules. -/
def Obligations.CarryEntersTheNextCut : Prop :=
  (∀ (s : State) (b : BladeEntry) (r : Setup) (pos : Position) (cur : Current) (c0 : CutRecord)
    (before : List Record) (q : Record) (rest : List Record) (c : CutRecord),
    Framing b r s → Quiet s → s.executor.stepDone = false → s.executor.position = some pos →
    s.executor.current = some cur → cur.complete = false → cur.record.body = .cut c0 → cur.dist < cur.len →
    s.executor.queue = before ++ q :: rest → q.body = .cut c → 0 < c0.exit →
    (∀ m ∈ before, m.body = .actions ∨ ∃ k, m.body = .cut k ∧ 0 < k.exit) →
    let running := s.executor.state = .cut ∧ (s.part.state = .parked ∨ s.part.state = .running) ∧
      s.executor.reentering = false
    let slowing := s.executor.haltRequest = true ∨ s.part.abortFlag = true
    let stopping := s.executor.state = .stopping ∧ s.part.state = .fault ∧ s.part.abortFlag = false
    let a := max 1 (r.accel * r.period / 1000)
    let e := max 1 (r.stopDecel * r.period / 1000)
    let brake := reach r.accel c0.exit (cur.len - cur.dist)
    let fast := max 1 (min (min (cur.speed + a)
      (max 1 (c0.cap * min s.governor.operator s.governor.override / 100))) brake)
    let skip := ((before.filterMap fun m => m.body.cut?).map fun k => k.len).sum
    ∀ v : Nat, (running ∧ ¬ slowing ∧ v = fast) ∨
      (0 < cur.speed ∧ ((running ∧ slowing ∧ v = min (cur.speed - a) brake) ∨
        (stopping ∧ v = min (cur.speed - e) brake))) →
    cur.len + skip ≤ cur.dist + v * r.period →
    let left := cur.dist + v * r.period - cur.len - skip
    left < c.len ∨ c.exit = 0 ∨ (∃ m more, rest = m :: more ∧ m.body ≠ .actions ∧ ∀ k, m.body ≠ .cut k) ∨
      (rest = [] ∧ (stopping ∨ (s.planner.window = [] ∧ (s.planner.actions = [] ∨ s.link.intake ≠ [])))) →
    ∃ t pos', exec .frame s = .next t ∧ t.executor.position = some pos' ∧ pos'.z = pos.z ∧
      t.executor.currentTag = q.tag ∧ t.executor.heldPlunge = some c.snap.plunge ∧
      rest <+: t.executor.queue ∧ t.report.responses = s.report.responses ∧ t.report.events = s.report.events ∧
      t.link = s.link ∧ t.tables = s.tables ∧ t.part.record = s.part.record ∧ t.pending = s.pending ∧
      (running → t.executor.state = .cut ∧
        Performs ((before ++ [q]).flatMap fun m => m.actions) s t ∧
        (s.part.abortFlag = false → s.link.intake ≠ [] ∨ s.planner.actions = [] → Released rest s t) ∧
        (s.part.abortFlag = true → t.executor.queue = rest ∧ t.planner = s.planner)) ∧
      (stopping → t.executor.state = .stopping ∧ t.executor.queue = rest ∧ t.planner = s.planner ∧
        t.report = s.report ∧ t.port.lines = s.port.lines ∧ t.part = s.part ∧ t.governor = s.governor) ∧
      (left < c.len →
        (∃ cur', t.executor.current = some cur' ∧ cur'.record = q ∧ cur'.dist = left ∧ cur'.len = c.len ∧
          cur'.complete = false ∧
          cur'.speed = min v (max 1 (c.cap * min s.governor.operator s.governor.override / 100))) ∧
        pos'.x = along c.x0 c.x1 left c.len ∧ pos'.y = along c.y0 c.y1 left c.len ∧
        pos'.heading = cutHeading b.lead t.executor.queue c left ∧
        (running → t.governor = s.governor.afterFrame (!s.executor.dry) c.snap.ceiling)) ∧
      (c.len ≤ left →
        (∃ cur', t.executor.current = some cur' ∧ cur'.record = q ∧ cur'.dist = c.len ∧ cur'.len = c.len ∧
          cur'.complete = true ∧ cur'.speed = 0) ∧
        pos'.x = along c.x0 c.x1 c.len c.len ∧ pos'.y = along c.y0 c.y1 c.len c.len ∧
        pos'.heading = cutHeading b.lead t.executor.queue c c.len ∧ t.governor = s.governor)) ∧
  ∀ (s : State) (n exit excess skip speed : Nat) (before : List Record) (q : Record) (rest : List Record)
    (c : CutRecord),
    0 < exit → s.executor.queue = before ++ q :: rest → q.body = .cut c → excess < skip + c.len → skip ≤ excess →
    (before = [] ∧ skip = 0) ∨ (∃ m, before = [m] ∧ ((m.body = .actions ∧ skip = 0) ∨
      ∃ k, m.body = .cut k ∧ 0 < k.exit ∧ k.len = skip)) →
    (s.executor.state = .cut ∧ (s.part.state = .parked ∨ s.part.state = .running)) ∨
      (s.executor.state = .stopping ∧ s.part.state = .fault) →
    let t := carry (n + 2) exit excess speed s
    ∃ cur, t.executor.current = some cur ∧ cur.record = q ∧ cur.dist = excess - skip ∧
      cur.len = c.len ∧ cur.complete = false ∧
      cur.speed = min speed (max 1 (c.cap * min s.governor.operator s.governor.override / 100)) ∧
      t.executor.currentTag = q.tag ∧ t.executor.heldPlunge = some c.snap.plunge ∧
      rest <+: t.executor.queue ∧ t.executor.position = s.executor.position ∧
      t.report.responses = s.report.responses ∧ t.report.events = s.report.events ∧
      (s.executor.state = .cut → Performs (before.flatMap (fun m => m.actions) ++ q.actions) s t ∧
        (s.part.abortFlag = false → s.link.intake ≠ [] ∨ s.planner.actions = [] → Released rest s t) ∧
        (s.part.abortFlag = true → t.executor.queue = rest ∧ t.planner = s.planner)) ∧
      (s.executor.state = .stopping → t.executor.queue = rest ∧ t.planner = s.planner ∧ t.report = s.report ∧
        t.port = s.port)

/-- R99, R106, R108, R116, R122, R125, R127, R130, R145: a frame that begins nothing and moves nothing: one spent in
SPINUP or TRIM with its record in progress, in the SPINUP of a re-entry, in HOLD or STANDOFF reached from HOLD, with
records waiting or not, in STOPPED, in DWELL or STANDOFF with nothing to begin; and one with records waiting while the
position is absent. It leaves the position, or its absence, the state, the current record and the execution queue as
they were; every running timer adds T, and a stopped one stays stopped; the spin-up and trim frames, once set, stay. So
does a frame in IDLE with nothing held, but that the part becomes PARKED when no block is open and the window is empty,
and a waiting blade table commits. -/
def Obligations.TimersAddT : Prop :=
  let later := fun (r : Setup) (t : Timer) => match t with
    | .stopped => .stopped
    | .running elapsed timeout => .running (elapsed + r.period) timeout
  let held := fun (r : Setup) (s t : State) =>
    t.executor.position = s.executor.position ∧ t.executor.state = s.executor.state ∧
    t.executor.current = s.executor.current ∧ t.executor.queue = s.executor.queue ∧
    t.executor.currentTag = s.executor.currentTag ∧ t.executor.reentry = s.executor.reentry ∧
    t.executor.lockTimer = later r s.executor.lockTimer ∧ t.executor.trimTimer = later r s.executor.trimTimer ∧
    t.executor.dwellTimer = later r s.executor.dwellTimer ∧
    (∀ f, s.executor.spinupFrame = some f → t.executor.spinupFrame = some f) ∧
    (∀ f, s.executor.trimFrame = some f → t.executor.trimFrame = some f) ∧ t.governor = s.governor
  (∀ (s : State) (b : BladeEntry) (r : Setup),
    Framing b r s → Calm s → s.executor.standoffPending = false →
    ((s.executor.state = .spinup ∨ s.executor.state = .trim) ∧ s.executor.reentering = false ∧
        ∃ cur, s.executor.current = some cur ∧ cur.complete = false) ∨
      (s.executor.state = .spinup ∧ s.executor.reentering = true) ∨ (∃ h, s.executor.state = .hold h) ∨
      s.executor.state = .standoff true ∨ s.executor.state = .stopped ∨
      (s.executor.state = .dwell ∧ s.executor.current = none ∧ s.executor.queue = [] ∧
        s.executor.reentering = false) ∨
      (s.executor.state = .standoff false ∧ s.executor.free = true ∧ s.executor.queue = []) ∨
      (s.executor.position = none ∧ s.executor.queue ≠ [] ∧ s.executor.state ≠ .stopping ∧
        ∀ cur, s.executor.current = some cur → cur.complete = true ∧ cur.speed = 0) →
    ∃ t, exec .frame s = .next t ∧ held r s t ∧ FrameOnly s t) ∧
  ∀ (s : State) (b : BladeEntry) (r : Setup),
    Framing b r s → Calm s → s.executor.standoffPending = false → s.executor.state = .idle →
    s.executor.current = none → s.executor.queue = [] → s.executor.reentering = false →
    ∃ t, exec .frame s = .next t ∧ held r s t ∧ t.link = s.link ∧ t.planner = s.planner ∧
      t.port.lines = s.port.lines ∧ t.pending = s.pending ∧
      (s.part.state = .running → s.planner.stream = .noBlock → s.planner.window = [] →
        t.part = { s.part with state := .parked }) ∧
      (s.part.state ≠ .running ∨ s.planner.stream ≠ .noBlock ∨ s.planner.window ≠ [] → t.part = s.part) ∧
      (s.tables.waiting = none ∨ s.planner.window ≠ [] → t.tables = s.tables ∧ t.report = s.report) ∧
      ∀ w, s.tables.waiting = some w → s.planner.window = [] →
        t.tables = { s.tables with blade := w.entry, waiting := none } ∧
        (s.report.responses.length < 16 →
          t.report.responses = s.report.responses ++ [.held ⟨0x0A, w.tag, .accepted, []⟩])

/-! ## What a frame sends -/

/-- R89, R93, R116, R122, R132 to R135, R179, Tables 8.1 and 12.5: every frame period of a sending part, with the blade
table present where the work needs it (log 19), ends with one setpoint frame of 28 bytes, filled from the state as it
then is: the frame number, which then grows by one, 65535 being followed by 0; the mode; the setpoints, or 0 while the
position is absent; the frequency, which becomes the kept one but in STOPPING, where the kept one stays; the trim
request; the lines; the status slot and its value; and the CRC of these 24 bytes. The first frame sent in SPINUP is the
spin-up frame, the first with the trim request the trim frame. The setup record, the held return values and the waiting
commands stay. While the sending flag is clear, before SETUP, a frame period sends nothing and changes nothing. -/
def Obligations.FrameSendsASetpointFrame : Prop :=
  (∀ s : State, s.port.sending = false → exec .frame s = .next s) ∧
  ∀ (s : State), s.part.inReset = false → s.port.sending = true → bladeMissing s = false →
    ∃ t, exec .frame s = .next t ∧ t.port.frameNo = s.port.frameNo + 1 ∧ t.port.outLane.length = 28 ∧
      (let mode : Byte := if t.executor.position = none then 0 else if t.executor.state = .stopped then 2 else 1
       let setpoints := match t.executor.position with
         | none => List.replicate 14 0
         | some q => s32 q.x ++ s32 q.y ++ u32 q.z ++ u16 q.heading
       let hertz := if t.executor.position = none then 0 else frequency t
       let trim : Byte := if t.port.trimRequest = true ∧ t.executor.position ≠ none then 1 else 0
       let slot := s.port.frameNo.toNat % 8
       let value := match slot with
         | 0 => 256 * partStateCode t.part.state + 16 * purposeCode t.executor.state + execStateCode t.executor.state
         | 1 => min t.governor.operator t.governor.override
         | 2 => t.executor.currentTag.toNat
         | 3 => causeCode t.part.record.cause
         | 4 => t.link.intake.length
         | 5 => t.planner.window.length
         | 6 => t.executor.queue.length
         | _ => min 65535 (t.planner.trimDist / 100000)
       let body := tagBytes s.port.frameNo ++ [mode] ++ setpoints ++ u16 hertz ++ [trim] ++ [t.port.lines] ++
         [BitVec.ofNat 8 slot] ++ u16 value
       body.length = 24 ∧ t.port.outLane = [0xA5, 0xC3] ++ body ++ tagBytes (crc body)) ∧
      (s.executor.state ≠ .spinup → t.executor.state = .spinup → t.executor.spinupFrame = some s.port.frameNo) ∧
      (s.executor.state ≠ .trim → t.executor.state = .trim →
        t.port.trimRequest = true ∧ t.executor.trimFrame = some s.port.frameNo) ∧
      t.keptFreq = (if t.executor.state = .stopping then s.keptFreq else frequency t) ∧
      t.port.sending = true ∧ t.port.held = s.port.held ∧ t.part.setup = s.part.setup ∧ t.pending = s.pending ∧
      t.link = s.link

/-- R6, R89 to R95, Table 6.1: the frequency of a frame goes by the Executor's state at its end as the table gives it,
and is 0 in a dry-run block and with the blade table absent; the kept frequency follows it outside STOPPING. It is 0 or
within f_min..f_max of the active blade table, and so is the kept frequency after it, if it was before. Along a CUT it
is the speed over the pitch target, rounded up, but f_min where that is less and f_max where it is more: within the
pitch-limited speed the stroke pitch stays within the pitch max, and below the upper clamp within the target. -/
def Obligations.FrequencyFollowsSpeedAndPitch : Prop :=
  (∀ s : State,
    (s.tables.blade = none → frequency s = 0) ∧
    (∀ blk, s.executor.block = some blk → blk.dry = true → frequency s = 0) ∧
    (s.executor.state ≠ .stopping → (keepFrequency s).keptFreq = frequency s) ∧
    (s.executor.state = .stopping → (keepFrequency s).keptFreq = s.keptFreq) ∧
    (s.executor.inMaterial = true ↔ ∃ pos blk, s.executor.position = some pos ∧ s.executor.block = some blk ∧
      blk.dry = false ∧ pos.z < blk.top) ∧
    ∀ b : BladeEntry, s.tables.blade = some b → (∀ blk, s.executor.block = some blk → blk.dry = false) →
      (∀ cur k, s.executor.state = .cut → s.executor.current = some cur → cur.record.body = .cut k →
        frequency s = cutFrequency b cur.speed k.snap.pitchTarget) ∧
      (s.executor.state = .spinup ∨ s.executor.state = .plunge ∨ s.executor.state = .retract .lift ∨
        s.executor.state = .rotate → frequency s = b.fPlunge) ∧
      (∀ cur p, s.executor.state = .trim → s.executor.current = some cur → cur.record.body = .pivot p →
        frequency s = b.fPlunge) ∧
      (∀ cur g f, s.executor.state = .trim → s.executor.current = some cur → cur.record.body = .leave g f →
        frequency s = 0) ∧
      (s.executor.state = .swivel ∨ s.executor.state = .dwell → frequency s = b.fMin) ∧
      ((∃ h, s.executor.state = .hold h) ∨ s.executor.state = .retract .leave ∨
        s.executor.state = .retract .standoff ∨ s.executor.state = .retract .abort ∨
        s.executor.state = .retract .recover →
        frequency s = if s.executor.inMaterial = true then b.fMin else 0) ∧
      (s.executor.state = .travel ∨ s.executor.state = .idle ∨ (∃ h, s.executor.state = .standoff h) ∨
        s.executor.state = .stopped → frequency s = 0) ∧
      (s.executor.state = .stopping →
        frequency s = if 0 < s.executor.speed then s.keptFreq else 0)) ∧
  (∀ (s : State) (b : BladeEntry), s.tables.blade = some b → b.fMin ≤ b.fPlunge → b.fPlunge ≤ b.fMax →
    s.keptFreq = 0 ∨ (b.fMin ≤ s.keptFreq ∧ s.keptFreq ≤ b.fMax) →
    (frequency s = 0 ∨ (b.fMin ≤ frequency s ∧ frequency s ≤ b.fMax)) ∧
    ((keepFrequency s).keptFreq = 0 ∨
      (b.fMin ≤ (keepFrequency s).keptFreq ∧ (keepFrequency s).keptFreq ≤ b.fMax))) ∧
  (∀ (b : BladeEntry) (v pitch : Nat), 0 < pitch → b.fMin ≤ b.fMax →
    (v * 1000 ≤ b.fMin * pitch → cutFrequency b v pitch = b.fMin) ∧
    (b.fMax * pitch < v * 1000 → cutFrequency b v pitch = b.fMax) ∧
    ∀ f, b.fMin ≤ f → f ≤ b.fMax → v * 1000 ≤ f * pitch → f * pitch < v * 1000 + pitch →
      cutFrequency b v pitch = f) ∧
  ∀ (b : BladeEntry) (v pitch pitchMax : Nat), 0 < pitch → pitch ≤ pitchMax → 0 < b.fMin → b.fMin ≤ b.fMax →
    v ≤ b.fMax * pitchMax / 1000 →
    b.fMin ≤ cutFrequency b v pitch ∧ cutFrequency b v pitch ≤ b.fMax ∧
    v * 1000 ≤ pitchMax * cutFrequency b v pitch ∧
    (v * 1000 ≤ b.fMax * pitch → v * 1000 ≤ pitch * cutFrequency b v pitch) ∧
    (b.fMin * pitch < v * 1000 → v * 1000 ≤ b.fMax * pitch → (cutFrequency b v pitch - 1) * pitch < v * 1000)

/-- R137: at each sending the Port judges the period just ended: answered, the flag is cleared; not answered, the missed
count grows by one, up to 255, and DRIVE-LINK falls due exactly when it becomes 3; the first frame judges none, and
clears the flag (deduced, log 14). So FRAME leaves the received flag clear and the missed count as this judging gives
it, and a DRIVE-LINK that had fallen due before leaves the part in FAULT (a FRAME takes what an earlier one left due:
the model's choice, log 3; so it does an end of a standoff retract, a HOLD entry, the end of an abort stop or of a
recovery, an evaluation, a BLADE-JAM, a lock, trim or dwell expiry and the end of STOPPING, in this order, and it goes
on as on the state after these events' own commands, where none of them leaves another due: the model's choice too, logs
3 and 22); DRIVE_LINK raises the fault once it has fallen due. -/
def Obligations.MissedFramesRaiseDriveLink : Prop :=
  (∀ s : State, s.port.linkDue = false →
    (s.port.sentAny = false → (judgePeriod s).port.missed = s.port.missed ∧ (judgePeriod s).port.linkDue = false) ∧
    (s.port.sentAny = true → s.port.received = true → (judgePeriod s).port.received = false ∧
      (judgePeriod s).port.missed = s.port.missed ∧ (judgePeriod s).port.linkDue = false) ∧
    (s.port.sentAny = true → s.port.received = false → s.port.missed ≤ 255 →
      (judgePeriod s).port.missed = (if s.port.missed = 255 then 255 else s.port.missed + 1) ∧
      ((judgePeriod s).port.linkDue = true ↔ (judgePeriod s).port.missed = 3))) ∧
  (∀ s : State, s.part.inReset = false → s.port.sending = true → bladeMissing s = false →
    ∃ t, exec .frame s = .next t ∧ t.port.sentAny = true ∧ t.port.received = false ∧
      (s.port.sentAny = false ∨ s.port.received = true → t.port.missed = s.port.missed ∧ t.port.linkDue = false) ∧
      (s.port.sentAny = true → s.port.received = false →
        t.port.missed = (if 255 ≤ s.port.missed then 255 else s.port.missed + 1) ∧
        (t.port.linkDue = true ↔ t.port.missed = 3)) ∧
      (s.port.linkDue = true → s.part.state ≠ .unconfigured →
        t.part.state = .fault ∧ (s.part.state ≠ .fault → t.part.record.cause ≠ none))) ∧
  (∀ s : State, s.part.inReset = false → s.port.linkDue = true →
    ∃ t, exec .driveLink s = .next t ∧ t.port.linkDue = false ∧ t.port.missed = s.port.missed ∧
      t.planner = s.planner ∧ t.tables = s.tables ∧ t.governor = s.governor ∧
      (s.part.state = .parked ∨ s.part.state = .running ∨ s.part.state = .recovering →
        t.part.state = .fault ∧ t.part.record =
          { cause := some .driveLink, tag := s.executor.currentTag, position := s.executor.position, further := 0 }) ∧
      (s.part.state = .fault → t = { s with
        port := { s.port with linkDue := false }
        part := { s.part with record :=
          { s.part.record with further := min 255 (s.part.record.further + 1) } } })) ∧
  ∀ s : State, s.part.inReset = false → s.port.sending = true → bladeMissing s = false →
    let run := fun (u : State) (c : Instr) => match exec c u with
      | .next t => t
      | _ => u
    let events : List Instr := [.standoff, .holdEntry, .abortStopEnd, .recoverRetractEnd, .governorEvaluation,
      .bladeJam, .lockTimeout, .trimTimeout, .dwellTimeout, .driveLink, .stopped]
    let after := events.foldl run s
    (∀ c ∈ events, run after c = after) → exec .frame s = exec .frame after

/-! ## The Load Governor -/

/-- R99 to R101, Table 6.3: an evaluation that has fallen due compares the held load with the ceiling C and with floor(C
× 80 / 100), changes the governor override and the jam count by the table, and the effective override is the lesser of
the two from then on. One that lowers the override from above 25 to 25 raises GOVERNOR with datum 25; any other raises
nothing. BLADE-JAM falls due when the jam count comes to 8. -/
def Obligations.EvaluationFollowsTable63 : Prop :=
  ∀ (s : State) (c : Nat), s.part.inReset = false → s.governor.evalDue = some c →
    25 ≤ s.governor.override → s.governor.override ≤ 100 → s.governor.jamCount ≤ 8 →
    ∃ t, exec .governorEvaluation s = .next t ∧
      (c < s.port.held.load → 25 < s.governor.override →
        t.governor.override = (if s.governor.override - 10 < 25 then 25 else s.governor.override - 10) ∧
        t.governor.jamCount = 0) ∧
      (c < s.port.held.load → s.governor.override = 25 →
        t.governor.override = 25 ∧
        t.governor.jamCount = (if s.governor.jamCount = 8 then 8 else s.governor.jamCount + 1)) ∧
      (c * 80 / 100 ≤ s.port.held.load → s.port.held.load ≤ c →
        t.governor.override = s.governor.override ∧ t.governor.jamCount = 0) ∧
      (s.port.held.load < c * 80 / 100 →
        t.governor.override = (if 100 < s.governor.override + 5 then 100 else s.governor.override + 5) ∧
        t.governor.jamCount = 0) ∧
      (25 < s.governor.override → t.governor.override = 25 → t.report = { s.report with
        events := { s.report.events with governor := true, governorValue := 25 } }) ∧
      (s.governor.override = 25 ∨ t.governor.override ≠ 25 → t.report = s.report) ∧
      (t.governor.jamDue = true ↔
        s.governor.jamDue = true ∨ (t.governor.jamCount = 8 ∧ s.governor.jamCount ≠ 8)) ∧
      t.governor.effective = min s.governor.operator t.governor.override ∧
      t.governor.evalDue = none ∧ t.governor.evalCount = s.governor.evalCount ∧
      t.governor.operator = s.governor.operator ∧ t.executor = s.executor ∧ t.planner = s.planner ∧
      t.keptFreq = s.keptFreq ∧
      t.part = s.part ∧ t.port = s.port ∧ t.tables = s.tables

/-! ## Expiries and ends -/

/-- R102, R108, R116, R122, R125: BLADE-JAM, once it has fallen due, is raised with the tag of the record executing, as
first cause or in FAULT as a further fault; the jam count stays, and nothing is raised again. The lock timer's expiry in
SPINUP raises LOCK-TIMEOUT, the trim timer's in TRIM raises TRIM-TIMEOUT; the timers stop, the trim request is withdrawn
and the Executor is STOPPED, its setpoints frozen. -/
def Obligations.JamAndTimeoutsAreFaults : Prop :=
  (∀ s : State, s.part.inReset = false → s.governor.jamDue = true →
    ∃ t, exec .bladeJam s = .next t ∧ t.governor = { s.governor with jamDue := false } ∧
      exec .bladeJam t = .next t ∧
      (s.part.state = .parked ∨ s.part.state = .running ∨ s.part.state = .recovering →
        t.part.state = .fault ∧ t.part.record =
          { cause := some .bladeJam, tag := s.executor.currentTag, position := s.executor.position, further := 0 }) ∧
      (s.part.state = .fault → t.part.record.cause = s.part.record.cause ∧
        t.part.record.further = min 255 (s.part.record.further + 1)) ∧
      t.planner = s.planner ∧ t.tables = s.tables ∧ t.link = s.link) ∧
  ∀ (s : State) (elapsed timeout : Nat) (c : Instr) (code : FaultCode), s.part.inReset = false →
    s.part.state = .running → timeout ≤ elapsed →
    ((c = .lockTimeout ∧ code = .lockTimeout ∧ s.executor.state = .spinup ∧
      s.executor.lockTimer = .running elapsed timeout) ∨
     (c = .trimTimeout ∧ code = .trimTimeout ∧ s.executor.state = .trim ∧
      s.executor.trimTimer = .running elapsed timeout)) →
    ∃ t, exec c s = .next t ∧ t.part.state = .fault ∧
      t.part.record = { cause := some code, tag := s.executor.currentTag, position := s.executor.position,
                        further := 0 } ∧
      t.executor.state = .stopped ∧ t.executor.lockTimer = .stopped ∧ t.executor.trimTimer = .stopped ∧
      t.executor.position = s.executor.position ∧ t.executor.queue = s.executor.queue ∧
      t.port.trimRequest = false ∧ t.planner = s.planner ∧ t.tables = s.tables ∧ t.governor = s.governor ∧
      t.link = s.link

/-- R124 to R127: the dwell timer's expiry takes the setpoints and the held plunge speed as the re-entry point and stops
the timer. In HOLD the RETRACT with purpose STANDOFF begins, to the clear Z at the held plunge speed; in DWELL it begins
in the next frame (log 12), in which Z rises its first step, records waiting or not, and the re-entry point stays; a
HALT that comes before that frame begins it at once, as in HOLD (log 29). The end of a standoff retract raises STANDOFF
with the current record tag and the X and Y of the re-entry point, and enters STANDOFF, reached from HOLD when the
retract was begun in HOLD or a halt request is set, which it clears. -/
def Obligations.DwellTimeoutAndStandoff : Prop :=
  (∀ (s : State) (elapsed timeout v : Nat) (pos : Position) (blk : ExecBlock), s.part.inReset = false →
    s.executor.dwellTimer = .running elapsed timeout → timeout ≤ elapsed → s.executor.position = some pos →
    s.executor.heldPlunge = some v → s.executor.block = some blk → pos.z < blk.clear →
    ∃ t, exec .dwellTimeout s = .next t ∧
      (s.executor.state = .dwell → t = { s with executor := { s.executor with
        dwellTimer := .stopped
        reentry := some ⟨pos.x, pos.y, pos.heading, v⟩
        standoffPending := true } }) ∧
      (∀ b, s.executor.state = .hold b → t.executor.state = .retract .standoff ∧
        t.executor.zMove = some ⟨blk.clear, v⟩ ∧ t.executor.reentry = some ⟨pos.x, pos.y, pos.heading, v⟩ ∧
        t.executor.dwellTimer = .stopped ∧ t.executor.beganInHold = true ∧ t.executor.position = s.executor.position ∧
        t.executor.queue = s.executor.queue ∧ ExecutorOnly s t ∧ t.report = s.report ∧ t.part = s.part)) ∧
  (∀ (s : State) (b : BladeEntry) (r : Setup) (pos : Position) (blk : ExecBlock) (v : Nat),
    Framing b r s → Calm s → s.executor.state = .dwell → s.executor.free = true → s.executor.reentering = false →
    s.executor.standoffPending = true → s.executor.position = some pos → s.executor.block = some blk →
    s.executor.heldPlunge = some v → pos.z < blk.clear →
    let z := min blk.clear (pos.z + v * r.period)
    ∃ t, exec .frame s = .next t ∧ t.executor.state = .retract .standoff ∧
      t.executor.position = some { pos with z := z } ∧
      t.executor.zMove = (if z = blk.clear then none else some ⟨blk.clear, v⟩) ∧
      (t.executor.stepDone = true ↔ z = blk.clear) ∧ t.executor.current = none ∧
      t.executor.reentry = s.executor.reentry ∧ t.executor.standoffPending = false ∧
      t.executor.beganInHold = false ∧ FrameOnly s t ∧ t.governor = s.governor) ∧
  (∀ (tag : Tag) (s : State) (pos : Position) (blk : ExecBlock) (v : Nat), Reaches s →
    s.part.state = .running → s.part.abortFlag = false → s.executor.haltRequest = false →
    s.executor.state = .dwell → s.executor.standoffPending = true → s.executor.position = some pos →
    s.executor.block = some blk → s.executor.heldPlunge = some v → pos.z < blk.clear →
    ∃ t, exec (.halt tag) s = .next t ∧ t.executor.state = .retract .standoff ∧
      t.executor.zMove = some ⟨blk.clear, v⟩ ∧ t.executor.beganInHold = true ∧ t.executor.haltRequest = false ∧
      t.executor.standoffPending = false ∧ t.executor.reentry = s.executor.reentry ∧
      t.executor.position = some pos ∧ t.executor.queue = s.executor.queue ∧ t.part = s.part ∧ ExecutorOnly s t ∧
      t.report.responses = s.report.responses ++ [.held ⟨0x13, tag, .accepted, []⟩]) ∧
  ∀ (s : State) (q : Reentry), s.part.inReset = false → s.executor.state = .retract .standoff →
    s.executor.stepDone = true → s.executor.reentry = some q →
    exec .standoff s = .next { s with
      executor := { s.executor with
        state := .standoff (s.executor.beganInHold || s.executor.haltRequest)
        haltRequest := false
        stepDone := false
        beganInHold := false }
      report := { s.report with events := { s.report.events with
        standoff := true
        standoffTag := s.executor.currentTag
        standoffX := q.x
        standoffY := q.y } } }

/-- R126, R127: the Executor enters HOLD under a halt request, which it clears: along a CUT or TRAVEL at speed 0, with
XY motion still to make and the record part done, or at its end; in any other state once the record is complete; and in
the plunge of a re-entry once the plunge is complete, with the record it was made for waiting in the queue or part done.
A complete record is current no longer, a part-done one stays current, at speed 0, and the queue stays; in material the
dwell timer is started. -/
def Obligations.HoldIsEntered : Prop :=
  (∀ (s : State) (cur : Current) (b : BladeEntry), s.part.inReset = false →
    s.part.abortFlag = false → s.executor.haltRequest = true → s.executor.current = some cur →
    ((s.executor.state = .cut ∨ s.executor.state = .travel) ∧
        (cur.complete = true ∨ (cur.record.body.isPath = true ∧ cur.speed = 0 ∧ cur.dist < cur.len))) ∨
      (cur.complete = true ∧ s.executor.reentering = false ∧
        (s.executor.state = .plunge ∨ s.executor.state = .swivel ∨ s.executor.state = .rotate ∨
          s.executor.state = .trim ∨ s.executor.state = .retract .leave ∨ s.executor.state = .retract .lift)) →
    s.executor.standoffPending = false → s.tables.blade = some b → 0 < b.dwellTimeout →
    s.executor.dwellTimer = .stopped →
    ∃ t, exec .holdEntry s = .next t ∧ t.executor.state = .hold false ∧ t.executor.haltRequest = false ∧
      t.executor.current = (if cur.complete then none else some cur) ∧
      t.executor.position = s.executor.position ∧ t.executor.queue = s.executor.queue ∧
      (s.executor.inMaterial = true → t.executor.dwellTimer = .running 0 b.dwellTimeout) ∧
      (s.executor.inMaterial = false → t.executor.dwellTimer = .stopped) ∧
      ExecutorOnly s t ∧ t.report = s.report ∧ t.part = s.part) ∧
  ∀ (s : State) (b : BladeEntry), s.part.inReset = false →
    s.part.abortFlag = false → s.executor.haltRequest = true →
    s.executor.state = .plunge → s.executor.reentering = true → s.executor.stepDone = true →
    s.executor.standoffPending = false → s.tables.blade = some b → 0 < b.dwellTimeout →
    s.executor.dwellTimer = .stopped →
    ∃ t, exec .holdEntry s = .next t ∧ t.executor.state = .hold false ∧ t.executor.haltRequest = false ∧
      t.executor.reentering = false ∧ t.executor.reentry = s.executor.reentry ∧
      (s.executor.current = none → t.executor.current = none) ∧
      (∀ cur, s.executor.current = some cur →
        t.executor.current = (if cur.complete then none else some { cur with speed := 0 })) ∧
      t.executor.position = s.executor.position ∧ t.executor.queue = s.executor.queue ∧
      (s.executor.inMaterial = true → t.executor.dwellTimer = .running 0 b.dwellTimeout) ∧
      (s.executor.inMaterial = false → t.executor.dwellTimer = .stopped) ∧
      ExecutorOnly s t ∧ t.report = s.report ∧ t.part = s.part

/-- R45, R120, R129, R130, R155, R157: an abort stop that has come to rest in material, with what it let run complete (a
CUT or TRAVEL at speed 0 or at its end, another record, or the plunge of a re-entry), begins the RETRACT with purpose
ABORT in the next frame, in which Z rises its first step at the held plunge speed: no record is current and the dwell
timer is stopped. At rest out of material, or with the retract of purpose ABORT complete, an abort stop ends, and with
the RECOVER retract complete a recovery ends: the Executor is IDLE with no current record, the abort flag is clear, the
part is PARKED, and a waiting blade table commits. In STOPPING at speed 0 the Executor enters STOPPED, and nothing else
changes; above 0 STOPPED is out of its condition and changes nothing (the model's deduction, log 1). -/
def Obligations.AbortStopAndRecoveryEnd : Prop :=
  (∀ (s : State) (b : BladeEntry) (r : Setup) (pos : Position) (blk : ExecBlock) (v : Nat),
    Framing b r s → Quiet s → s.part.abortFlag = true → s.executor.state.begins = true → s.executor.atRest = true →
    s.executor.inMaterial = true → s.executor.position = some pos → s.executor.block = some blk →
    s.executor.heldPlunge = some v → pos.z < blk.clear →
    let z := min blk.clear (pos.z + v * r.period)
    ∃ t, exec .frame s = .next t ∧ t.executor.state = .retract .abort ∧
      t.executor.position = some { pos with z := z } ∧
      t.executor.zMove = (if z = blk.clear then none else some ⟨blk.clear, v⟩) ∧
      (t.executor.stepDone = true ↔ z = blk.clear) ∧ t.executor.current = none ∧
      t.executor.dwellTimer = .stopped ∧ t.executor.reentering = false ∧ t.executor.standoffPending = false ∧
      FrameOnly s t ∧ t.governor = s.governor) ∧
  (∀ (s : State) (c : Instr), s.part.inReset = false → s.planner.window = [] → s.executor.queue = [] →
    ((c = .abortStopEnd ∧ s.part.abortFlag = true ∧
      ((s.executor.state = .retract .abort ∧ s.executor.stepDone = true) ∨
       (s.executor.atRest = true ∧ s.executor.inMaterial = false))) ∨
     (c = .recoverRetractEnd ∧ s.part.abortFlag = false ∧ s.executor.state = .retract .recover ∧
      s.executor.stepDone = true)) →
    ∃ t, exec c s = .next t ∧ t.executor.state = .idle ∧ t.executor.current = none ∧
      t.part = { s.part with abortFlag := false, state := .parked } ∧ t.executor.position = s.executor.position ∧
      t.planner = s.planner ∧ t.governor = s.governor ∧ t.port = s.port ∧ t.link = s.link ∧
      (s.tables.waiting = none → t.tables = s.tables ∧ t.report = s.report) ∧
      (∀ w, s.tables.waiting = some w → s.report.responses.length < 16 →
        t.tables = { s.tables with blade := w.entry, waiting := none } ∧
        t.report.responses = s.report.responses ++ [.held ⟨0x0A, w.tag, .accepted, []⟩])) ∧
  ∀ s : State, s.part.inReset = false → s.executor.state = .stopping →
    (s.executor.speed = 0 →
      exec .stopped s = .next { s with executor := { s.executor with state := .stopped } }) ∧
    (0 < s.executor.speed → exec .stopped s = .next s)

/-! ## Return frames and the return lane -/

/-- R136, R179, Table 12.5: the 23 bytes of a valid return frame, found while hunting, have their values held (load at
most 250, heading modulo 36000), answer the period and set the missed count to 0; a frame whose CRC differs, and every
frame before SETUP, changes nothing but the reception. A lane that falls idle within a frame discards what came of it.
That it leaves a kept sync byte in hunting (log 15), and that the drive-ready byte is held as its five flags (log 16),
are deduced. -/
def Obligations.ReturnFrameIsHeld : Prop :=
  (∀ (s : State) (kept : Bool) (echo : FrameNo) (x y z heading : Nat) (ready flags load : Byte) (c : BitVec 16),
    s.part.inReset = false → s.port.rx = .hunt kept → x < 2 ^ 32 → y < 2 ^ 32 → z < 2 ^ 32 → heading < 65536 →
    let body := tagBytes echo ++ u32 x ++ u32 y ++ u32 z ++ u16 heading ++ [ready, flags, load]
    ∃ t, exec (.returnFrame ([0xA5, 0x5A] ++ body ++ tagBytes c)) s = .next t ∧
      (s.port.sending = true → c = crc body →
        t.port.held = { x := x, y := y, z := z, heading := heading % 36000, ready := ready.setWidth 5,
                        alarm := flags.getLsbD 0, lock := flags.getLsbD 1, trimDone := flags.getLsbD 2,
                        load := min 250 load.toNat, echo := echo } ∧
        t.port.received = true ∧ t.port.missed = 0 ∧ t.port.rx = .hunt false ∧ t.governor = s.governor ∧
        t.tables = s.tables ∧ t.link = s.link ∧ t.pending = s.pending) ∧
      (s.port.sending = false ∨ c ≠ crc body → t = { s with port := { s.port with rx := .hunt false } })) ∧
  ∀ s : State, s.part.inReset = false →
    (∀ got left, s.port.rx = .body got left →
      exec .partialFrameDiscard s = .next { s with port := { s.port with rx := .hunt false } }) ∧
    (∀ kept, s.port.rx = .hunt kept → exec .partialFrameDiscard s = .next s)

/-- R13, R78 to R81, R83, R106, R116, R122, R136, R138, R148, R149: what the 23 bytes of a valid return frame hand on,
in every configured part state. A LOCK that echoes the spin-up frame or a later one stops the lock timer and starts the
plunge, an earlier one does not; a trim-done in time withdraws the request and completes a LEAVE, or starts the plunge
of a LIFT, and one too early does nothing. That the state is PLUNGE at once, and moves with the next frame, is deduced
(log 20). An Executor without a position adopts the actual one, also in FAULT and while STOPPED, and the TRAVEL and
ENTER of each stab closed before take its heading, which lets the release rules go on behind it in a part at work
without an abort stop; with one, nothing is adopted. An alarm raises DRIVE only when none was held: the first cause in
PARKED, RUNNING and RECOVERING, a further fault in FAULT. -/
def Obligations.ReturnFrameHandsOn : Prop :=
  ∀ (s : State) (kept : Bool) (echo : FrameNo) (x y z heading : Nat) (ready flags load : Byte),
    s.part.inReset = false → s.port.rx = .hunt kept → s.port.sending = true → s.part.state ≠ .unconfigured →
    x < 2 ^ 32 → y < 2 ^ 32 → z < 2 ^ 32 → heading < 65536 →
    let body := tagBytes echo ++ u32 x ++ u32 y ++ u32 z ++ u16 heading ++ [ready, flags, load]
    let alarm := flags.getLsbD 0
    let lock := flags.getLsbD 1
    let trimDone := flags.getLsbD 2
    ∃ t, exec (.returnFrame ([0xA5, 0x5A] ++ body ++ tagBytes (crc body))) s = .next t ∧
      t.port.held.alarm = alarm ∧
      (∀ f pos, s.executor.state = .spinup → s.executor.spinupFrame = some f → s.executor.position = some pos →
        lock = true → alarm = false →
        ((echo - f).toNat < 32768 → t.executor = { s.executor with state := .plunge, lockTimer := .stopped }) ∧
        (32768 ≤ (echo - f).toNat → t.executor = s.executor)) ∧
      (∀ f pos, s.executor.state = .spinup → s.executor.spinupFrame = some f → s.executor.position = some pos →
        lock = false → alarm = false → t.executor = s.executor) ∧
      (∀ f pos cur g tr, s.executor.state = .trim → s.executor.trimFrame = some f → s.executor.position = some pos →
        s.executor.current = some cur → cur.record.body = .leave g tr → trimDone = true → alarm = false →
        (echo - f).toNat < 32768 →
        t.port.trimRequest = false ∧ t.executor = { s.executor with
          trimTimer := .stopped, zMove := none, stepDone := false
          current := some { cur with complete := true, speed := 0 } }) ∧
      (∀ f pos cur p v r, s.executor.state = .trim → s.executor.trimFrame = some f → s.executor.position = some pos →
        s.part.setup = some r → s.executor.current = some cur → cur.record.body = .pivot p → p.plunge = some v →
        r.zCut < pos.z → trimDone = true → alarm = false → (echo - f).toNat < 32768 →
        t.port.trimRequest = false ∧ t.executor =
          { s.executor with state := .plunge, trimTimer := .stopped, zMove := some ⟨r.zCut, v⟩, stepDone := false }) ∧
      (∀ f pos, s.executor.state = .trim → s.executor.trimFrame = some f → s.executor.position = some pos →
        trimDone = false ∨ 32768 ≤ (echo - f).toNat → alarm = false →
        t.port.trimRequest = s.port.trimRequest ∧ t.executor = s.executor) ∧
      (∀ pos, s.executor.position = some pos → t.executor.position = some pos ∧ t.planner = s.planner ∧
        t.executor.queue = s.executor.queue ∧ (alarm = false ∨ s.port.held.alarm = true → t.part = s.part)) ∧
      (s.executor.position = none → t.executor.position = some ⟨(x : Int), (y : Int), z, heading % 36000⟩ ∧
        (let headed := fun w : WindowEntry => if w.ofOpenContour = true then w.record else match w.record.body with
          | .travel x1 y1 none => { w.record with body := .travel x1 y1 (some (heading % 36000)) }
          | .enter x1 y1 none v => { w.record with body := .enter x1 y1 (some (heading % 36000)) v }
          | _ => w.record
         (s.link.intake ≠ [] ∨ s.planner.actions = [] →
            t.records = s.executor.queue ++ s.planner.window.map headed ∧ t.planner.actions = s.planner.actions) ∧
         (s.part.state = .parked ∨ s.part.state = .running → s.part.abortFlag = false →
            s.link.intake ≠ [] ∨ s.planner.actions = [] →
            Released s.executor.queue { s with planner := { s.planner with
              window := s.planner.window.map fun w => { w with record := headed w } } } t) ∧
         (s.part.state = .fault ∨ s.part.state = .recovering →
            t.planner.window.map (fun w => w.record) = s.planner.window.map headed ∧
            t.executor.queue = s.executor.queue ∧ t.planner.actions = s.planner.actions))) ∧
      (alarm = true → s.port.held.alarm = false →
        s.part.state = .parked ∨ s.part.state = .running ∨ s.part.state = .recovering →
        t.part.state = .fault ∧ t.part.record =
          { cause := some .drive, tag := s.executor.currentTag, position := t.executor.position, further := 0 }) ∧
      (s.part.state = .fault → t.part = { s.part with record := { s.part.record with
        further := if alarm = true ∧ s.port.held.alarm = false then min 255 (s.part.record.further + 1)
          else s.part.record.further } }) ∧
      (alarm = false ∨ s.port.held.alarm = true → t.part.record = s.part.record ∧
        (s.part.state = .running ∨ s.part.state = .recovering → t.part.state = s.part.state))

/-- R173, R175, R176, R177, Table 11.4, Table 12.4: the response at the head of the queue goes first; otherwise the
enabled pending event of highest priority, whose flag is cleared, or the oldest mark with the lost flag; otherwise the
lane is idle. That a set lost flag is sent as 1 is the model's choice (log 33). -/
def Obligations.ArbiterChoosesByPriority : Prop :=
  ∀ s : State, s.part.inReset = false →
    (∀ r rest, s.report.responses = .held r :: rest →
      exec .returnLaneChoice s = .next { s with report := { s.report with
        responses := rest
        lane := some (packetBytes 0x20 r.tag
          ([r.kind, BitVec.ofNat 8 (resultCode r.result), BitVec.ofNat 8 (resultReason r.result)] ++ r.data)) } }) ∧
    (s.report.responses = [] →
      (s.report.events.fault = true → s.report.enables.getLsbD 0 = true →
        exec .returnLaneChoice s = .next { s with report := { s.report with
          events := { s.report.events with fault := false }
          lane := some (packetBytes 0x21 s.report.events.faultTag
            [1, BitVec.ofNat 8 (causeCode s.report.events.faultCode)]) } }) ∧
      (s.report.events.fault = false ∨ s.report.enables.getLsbD 0 = false →
        (∀ m rest, s.report.marks = m :: rest → s.report.enables.getLsbD 1 = true →
          exec .returnLaneChoice s = .next { s with report := { s.report with
            marks := rest, lost := false
            lane := some (packetBytes 0x21 m [2, BitVec.ofNat 8 s.report.lost.toNat]) } }) ∧
        (s.report.marks = [] ∨ s.report.enables.getLsbD 1 = false →
          (s.report.events.blockDone = true → s.report.enables.getLsbD 2 = true →
            exec .returnLaneChoice s = .next { s with report := { s.report with
              events := { s.report.events with blockDone := false }
              lane := some (packetBytes 0x21 s.report.events.blockDoneTag [3]) } }) ∧
          (s.report.events.blockDone = false ∨ s.report.enables.getLsbD 2 = false →
            (s.report.events.standoff = true → s.report.enables.getLsbD 3 = true →
              exec .returnLaneChoice s = .next { s with report := { s.report with
                events := { s.report.events with standoff := false }
                lane := some (packetBytes 0x21 s.report.events.standoffTag
                  ([4] ++ s32 s.report.events.standoffX ++ s32 s.report.events.standoffY)) } }) ∧
            (s.report.events.standoff = false ∨ s.report.enables.getLsbD 3 = false →
              (s.report.events.trimForced = true → s.report.enables.getLsbD 4 = true →
                exec .returnLaneChoice s = .next { s with report := { s.report with
                  events := { s.report.events with trimForced := false }
                  lane := some (packetBytes 0x21 s.report.events.trimForcedTag [5]) } }) ∧
              (s.report.events.trimForced = false ∨ s.report.enables.getLsbD 4 = false →
                (s.report.events.governor = true → s.report.enables.getLsbD 5 = true →
                  exec .returnLaneChoice s = .next { s with report := { s.report with
                    events := { s.report.events with governor := false }
                    lane := some (packetBytes 0x21 0 [6, BitVec.ofNat 8 s.report.events.governorValue]) } }) ∧
                (s.report.events.governor = false ∨ s.report.enables.getLsbD 5 = false →
                  (s.report.events.link = true → s.report.enables.getLsbD 6 = true →
                    exec .returnLaneChoice s = .next { s with report := { s.report with
                      events := { s.report.events with link := false }
                      lane := some (packetBytes 0x21 0
                        [7, BitVec.ofNat 8 (linkReasonCode s.report.events.linkReason)]) } }) ∧
                  (s.report.events.link = false ∨ s.report.enables.getLsbD 6 = false →
                    exec .returnLaneChoice s = .next { s with report := { s.report with lane := none } }))))))))

/-! ## Whole-machine rules -/

/-- R1, R69, R96, R98, R104, R131, R149, R164, R173, R176, R179: every queue, list and count stays within its bound, and
no response place stays reserved, whatever the step. -/
def Obligations.BoundsAreKept : Prop := ∀ s t : State, Bounded s → step s = .next t → Bounded t

/-- The bounds hold right after reset. -/
def Obligations.BoundsHoldAtReset : Prop := Bounded State.reset

/-- R2, R16, R144: the model stops nowhere but where a table that the spec's laws keep present is absent: with the blade
table present and the law of R32 kept in a non-empty zone table, every command answers a next state (log 19). -/
def Obligations.EveryCommandAnswersANextState : Prop :=
  ∀ (c : Instr) (s : State), s.tables.consistent → s.tables.blade ≠ none → s.tables.zone ≠ [] →
    ∃ t, exec c s = .next t
end

