-- ==== Sys2Proof/Laws/State.lean ====
section
/-! SUPPORT. One lemma per field per update of one block: each update changes its own block and no other. -/

namespace Sys2Proof.Machine

/-! ### setLink -/

@[simp] theorem State.setLink_link (s : State) (x : LinkReceiver) : (s.setLink x).link = x := rfl
@[simp] theorem State.setLink_tables (s : State) (x : LinkReceiver) : (s.setLink x).tables = s.tables := rfl
@[simp] theorem State.setLink_planner (s : State) (x : LinkReceiver) : (s.setLink x).planner = s.planner := rfl
@[simp] theorem State.setLink_executor (s : State) (x : LinkReceiver) : (s.setLink x).executor = s.executor := rfl
@[simp] theorem State.setLink_keptFreq (s : State) (x : LinkReceiver) : (s.setLink x).keptFreq = s.keptFreq := rfl
@[simp] theorem State.setLink_governor (s : State) (x : LinkReceiver) : (s.setLink x).governor = s.governor := rfl
@[simp] theorem State.setLink_port (s : State) (x : LinkReceiver) : (s.setLink x).port = s.port := rfl
@[simp] theorem State.setLink_part (s : State) (x : LinkReceiver) : (s.setLink x).part = s.part := rfl
@[simp] theorem State.setLink_report (s : State) (x : LinkReceiver) : (s.setLink x).report = s.report := rfl
@[simp] theorem State.setLink_pending (s : State) (x : LinkReceiver) : (s.setLink x).pending = s.pending := rfl

/-! ### setTables -/

@[simp] theorem State.setTables_link (s : State) (x : TableStore) : (s.setTables x).link = s.link := rfl
@[simp] theorem State.setTables_tables (s : State) (x : TableStore) : (s.setTables x).tables = x := rfl
@[simp] theorem State.setTables_planner (s : State) (x : TableStore) : (s.setTables x).planner = s.planner := rfl
@[simp] theorem State.setTables_executor (s : State) (x : TableStore) : (s.setTables x).executor = s.executor := rfl
@[simp] theorem State.setTables_keptFreq (s : State) (x : TableStore) : (s.setTables x).keptFreq = s.keptFreq := rfl
@[simp] theorem State.setTables_governor (s : State) (x : TableStore) : (s.setTables x).governor = s.governor := rfl
@[simp] theorem State.setTables_port (s : State) (x : TableStore) : (s.setTables x).port = s.port := rfl
@[simp] theorem State.setTables_part (s : State) (x : TableStore) : (s.setTables x).part = s.part := rfl
@[simp] theorem State.setTables_report (s : State) (x : TableStore) : (s.setTables x).report = s.report := rfl
@[simp] theorem State.setTables_pending (s : State) (x : TableStore) : (s.setTables x).pending = s.pending := rfl

/-! ### setPlanner -/

@[simp] theorem State.setPlanner_link (s : State) (x : Planner) : (s.setPlanner x).link = s.link := rfl
@[simp] theorem State.setPlanner_tables (s : State) (x : Planner) : (s.setPlanner x).tables = s.tables := rfl
@[simp] theorem State.setPlanner_planner (s : State) (x : Planner) : (s.setPlanner x).planner = x := rfl
@[simp] theorem State.setPlanner_executor (s : State) (x : Planner) : (s.setPlanner x).executor = s.executor := rfl
@[simp] theorem State.setPlanner_keptFreq (s : State) (x : Planner) : (s.setPlanner x).keptFreq = s.keptFreq := rfl
@[simp] theorem State.setPlanner_governor (s : State) (x : Planner) : (s.setPlanner x).governor = s.governor := rfl
@[simp] theorem State.setPlanner_port (s : State) (x : Planner) : (s.setPlanner x).port = s.port := rfl
@[simp] theorem State.setPlanner_part (s : State) (x : Planner) : (s.setPlanner x).part = s.part := rfl
@[simp] theorem State.setPlanner_report (s : State) (x : Planner) : (s.setPlanner x).report = s.report := rfl
@[simp] theorem State.setPlanner_pending (s : State) (x : Planner) : (s.setPlanner x).pending = s.pending := rfl

/-! ### setExecutor -/

@[simp] theorem State.setExecutor_link (s : State) (x : Executor) : (s.setExecutor x).link = s.link := rfl
@[simp] theorem State.setExecutor_tables (s : State) (x : Executor) : (s.setExecutor x).tables = s.tables := rfl
@[simp] theorem State.setExecutor_planner (s : State) (x : Executor) : (s.setExecutor x).planner = s.planner := rfl
@[simp] theorem State.setExecutor_executor (s : State) (x : Executor) : (s.setExecutor x).executor = x := rfl
@[simp] theorem State.setExecutor_keptFreq (s : State) (x : Executor) : (s.setExecutor x).keptFreq = s.keptFreq := rfl
@[simp] theorem State.setExecutor_governor (s : State) (x : Executor) : (s.setExecutor x).governor = s.governor := rfl
@[simp] theorem State.setExecutor_port (s : State) (x : Executor) : (s.setExecutor x).port = s.port := rfl
@[simp] theorem State.setExecutor_part (s : State) (x : Executor) : (s.setExecutor x).part = s.part := rfl
@[simp] theorem State.setExecutor_report (s : State) (x : Executor) : (s.setExecutor x).report = s.report := rfl
@[simp] theorem State.setExecutor_pending (s : State) (x : Executor) : (s.setExecutor x).pending = s.pending := rfl

/-! ### setKeptFreq -/

@[simp] theorem State.setKeptFreq_link (s : State) (x : Nat) : (s.setKeptFreq x).link = s.link := rfl
@[simp] theorem State.setKeptFreq_tables (s : State) (x : Nat) : (s.setKeptFreq x).tables = s.tables := rfl
@[simp] theorem State.setKeptFreq_planner (s : State) (x : Nat) : (s.setKeptFreq x).planner = s.planner := rfl
@[simp] theorem State.setKeptFreq_executor (s : State) (x : Nat) : (s.setKeptFreq x).executor = s.executor := rfl
@[simp] theorem State.setKeptFreq_keptFreq (s : State) (x : Nat) : (s.setKeptFreq x).keptFreq = x := rfl
@[simp] theorem State.setKeptFreq_governor (s : State) (x : Nat) : (s.setKeptFreq x).governor = s.governor := rfl
@[simp] theorem State.setKeptFreq_port (s : State) (x : Nat) : (s.setKeptFreq x).port = s.port := rfl
@[simp] theorem State.setKeptFreq_part (s : State) (x : Nat) : (s.setKeptFreq x).part = s.part := rfl
@[simp] theorem State.setKeptFreq_report (s : State) (x : Nat) : (s.setKeptFreq x).report = s.report := rfl
@[simp] theorem State.setKeptFreq_pending (s : State) (x : Nat) : (s.setKeptFreq x).pending = s.pending := rfl

/-! ### setGovernor -/

@[simp] theorem State.setGovernor_link (s : State) (x : Governor) : (s.setGovernor x).link = s.link := rfl
@[simp] theorem State.setGovernor_tables (s : State) (x : Governor) : (s.setGovernor x).tables = s.tables := rfl
@[simp] theorem State.setGovernor_planner (s : State) (x : Governor) : (s.setGovernor x).planner = s.planner := rfl
@[simp] theorem State.setGovernor_executor (s : State) (x : Governor) : (s.setGovernor x).executor = s.executor := rfl
@[simp] theorem State.setGovernor_keptFreq (s : State) (x : Governor) : (s.setGovernor x).keptFreq = s.keptFreq := rfl
@[simp] theorem State.setGovernor_governor (s : State) (x : Governor) : (s.setGovernor x).governor = x := rfl
@[simp] theorem State.setGovernor_port (s : State) (x : Governor) : (s.setGovernor x).port = s.port := rfl
@[simp] theorem State.setGovernor_part (s : State) (x : Governor) : (s.setGovernor x).part = s.part := rfl
@[simp] theorem State.setGovernor_report (s : State) (x : Governor) : (s.setGovernor x).report = s.report := rfl
@[simp] theorem State.setGovernor_pending (s : State) (x : Governor) : (s.setGovernor x).pending = s.pending := rfl

/-! ### setPort -/

@[simp] theorem State.setPort_link (s : State) (x : Port) : (s.setPort x).link = s.link := rfl
@[simp] theorem State.setPort_tables (s : State) (x : Port) : (s.setPort x).tables = s.tables := rfl
@[simp] theorem State.setPort_planner (s : State) (x : Port) : (s.setPort x).planner = s.planner := rfl
@[simp] theorem State.setPort_executor (s : State) (x : Port) : (s.setPort x).executor = s.executor := rfl
@[simp] theorem State.setPort_keptFreq (s : State) (x : Port) : (s.setPort x).keptFreq = s.keptFreq := rfl
@[simp] theorem State.setPort_governor (s : State) (x : Port) : (s.setPort x).governor = s.governor := rfl
@[simp] theorem State.setPort_port (s : State) (x : Port) : (s.setPort x).port = x := rfl
@[simp] theorem State.setPort_part (s : State) (x : Port) : (s.setPort x).part = s.part := rfl
@[simp] theorem State.setPort_report (s : State) (x : Port) : (s.setPort x).report = s.report := rfl
@[simp] theorem State.setPort_pending (s : State) (x : Port) : (s.setPort x).pending = s.pending := rfl

/-! ### setPart -/

@[simp] theorem State.setPart_link (s : State) (x : Part) : (s.setPart x).link = s.link := rfl
@[simp] theorem State.setPart_tables (s : State) (x : Part) : (s.setPart x).tables = s.tables := rfl
@[simp] theorem State.setPart_planner (s : State) (x : Part) : (s.setPart x).planner = s.planner := rfl
@[simp] theorem State.setPart_executor (s : State) (x : Part) : (s.setPart x).executor = s.executor := rfl
@[simp] theorem State.setPart_keptFreq (s : State) (x : Part) : (s.setPart x).keptFreq = s.keptFreq := rfl
@[simp] theorem State.setPart_governor (s : State) (x : Part) : (s.setPart x).governor = s.governor := rfl
@[simp] theorem State.setPart_port (s : State) (x : Part) : (s.setPart x).port = s.port := rfl
@[simp] theorem State.setPart_part (s : State) (x : Part) : (s.setPart x).part = x := rfl
@[simp] theorem State.setPart_report (s : State) (x : Part) : (s.setPart x).report = s.report := rfl
@[simp] theorem State.setPart_pending (s : State) (x : Part) : (s.setPart x).pending = s.pending := rfl

/-! ### setReport -/

@[simp] theorem State.setReport_link (s : State) (x : Report) : (s.setReport x).link = s.link := rfl
@[simp] theorem State.setReport_tables (s : State) (x : Report) : (s.setReport x).tables = s.tables := rfl
@[simp] theorem State.setReport_planner (s : State) (x : Report) : (s.setReport x).planner = s.planner := rfl
@[simp] theorem State.setReport_executor (s : State) (x : Report) : (s.setReport x).executor = s.executor := rfl
@[simp] theorem State.setReport_keptFreq (s : State) (x : Report) : (s.setReport x).keptFreq = s.keptFreq := rfl
@[simp] theorem State.setReport_governor (s : State) (x : Report) : (s.setReport x).governor = s.governor := rfl
@[simp] theorem State.setReport_port (s : State) (x : Report) : (s.setReport x).port = s.port := rfl
@[simp] theorem State.setReport_part (s : State) (x : Report) : (s.setReport x).part = s.part := rfl
@[simp] theorem State.setReport_report (s : State) (x : Report) : (s.setReport x).report = x := rfl
@[simp] theorem State.setReport_pending (s : State) (x : Report) : (s.setReport x).pending = s.pending := rfl

/-! ### setPending -/

@[simp] theorem State.setPending_link (s : State) (x : List Instr) : (s.setPending x).link = s.link := rfl
@[simp] theorem State.setPending_tables (s : State) (x : List Instr) : (s.setPending x).tables = s.tables := rfl
@[simp] theorem State.setPending_planner (s : State) (x : List Instr) : (s.setPending x).planner = s.planner := rfl
@[simp] theorem State.setPending_executor (s : State) (x : List Instr) : (s.setPending x).executor = s.executor := rfl
@[simp] theorem State.setPending_keptFreq (s : State) (x : List Instr) : (s.setPending x).keptFreq = s.keptFreq := rfl
@[simp] theorem State.setPending_governor (s : State) (x : List Instr) : (s.setPending x).governor = s.governor := rfl
@[simp] theorem State.setPending_port (s : State) (x : List Instr) : (s.setPending x).port = s.port := rfl
@[simp] theorem State.setPending_part (s : State) (x : List Instr) : (s.setPending x).part = s.part := rfl
@[simp] theorem State.setPending_report (s : State) (x : List Instr) : (s.setPending x).report = s.report := rfl
@[simp] theorem State.setPending_pending (s : State) (x : List Instr) : (s.setPending x).pending = x := rfl

/-! ### setPartState and the raising of events -/

@[simp] theorem State.setPartState_link (s : State) (p : PartState) : (s.setPartState p).link = s.link := rfl
@[simp] theorem State.setPartState_tables (s : State) (p : PartState) : (s.setPartState p).tables = s.tables := rfl
@[simp] theorem State.setPartState_planner (s : State) (p : PartState) : (s.setPartState p).planner = s.planner := rfl
@[simp] theorem State.setPartState_executor (s : State) (p : PartState) : (s.setPartState p).executor = s.executor := rfl
@[simp] theorem State.setPartState_keptFreq (s : State) (p : PartState) : (s.setPartState p).keptFreq = s.keptFreq := rfl
@[simp] theorem State.setPartState_governor (s : State) (p : PartState) : (s.setPartState p).governor = s.governor := rfl
@[simp] theorem State.setPartState_port (s : State) (p : PartState) : (s.setPartState p).port = s.port := rfl
@[simp] theorem State.setPartState_part (s : State) (p : PartState) : (s.setPartState p).part = { s.part with state := p } := rfl
@[simp] theorem State.setPartState_report (s : State) (p : PartState) : (s.setPartState p).report = s.report := rfl
@[simp] theorem State.setPartState_pending (s : State) (p : PartState) : (s.setPartState p).pending = s.pending := rfl

@[simp] theorem raiseFaultEvent_link (c : FaultCode) (t : Tag) (s : State) : (raiseFaultEvent c t s).link = s.link := rfl
@[simp] theorem raiseFaultEvent_tables (c : FaultCode) (t : Tag) (s : State) : (raiseFaultEvent c t s).tables = s.tables := rfl
@[simp] theorem raiseFaultEvent_planner (c : FaultCode) (t : Tag) (s : State) : (raiseFaultEvent c t s).planner = s.planner := rfl
@[simp] theorem raiseFaultEvent_executor (c : FaultCode) (t : Tag) (s : State) : (raiseFaultEvent c t s).executor = s.executor := rfl
@[simp] theorem raiseFaultEvent_keptFreq (c : FaultCode) (t : Tag) (s : State) : (raiseFaultEvent c t s).keptFreq = s.keptFreq := rfl
@[simp] theorem raiseFaultEvent_governor (c : FaultCode) (t : Tag) (s : State) : (raiseFaultEvent c t s).governor = s.governor := rfl
@[simp] theorem raiseFaultEvent_port (c : FaultCode) (t : Tag) (s : State) : (raiseFaultEvent c t s).port = s.port := rfl
@[simp] theorem raiseFaultEvent_part (c : FaultCode) (t : Tag) (s : State) : (raiseFaultEvent c t s).part = s.part := rfl
@[simp] theorem raiseFaultEvent_pending (c : FaultCode) (t : Tag) (s : State) : (raiseFaultEvent c t s).pending = s.pending := rfl
@[simp] theorem raiseFaultEvent_enables (c : FaultCode) (t : Tag) (s : State) : (raiseFaultEvent c t s).report.enables = s.report.enables := rfl
@[simp] theorem raiseFaultEvent_responses (c : FaultCode) (t : Tag) (s : State) : (raiseFaultEvent c t s).report.responses = s.report.responses := rfl
@[simp] theorem raiseFaultEvent_marks (c : FaultCode) (t : Tag) (s : State) : (raiseFaultEvent c t s).report.marks = s.report.marks := rfl
@[simp] theorem raiseFaultEvent_lost (c : FaultCode) (t : Tag) (s : State) : (raiseFaultEvent c t s).report.lost = s.report.lost := rfl
@[simp] theorem raiseFaultEvent_lane (c : FaultCode) (t : Tag) (s : State) : (raiseFaultEvent c t s).report.lane = s.report.lane := rfl

@[simp] theorem raiseBlockDone_link (t : Tag) (s : State) : (raiseBlockDone t s).link = s.link := rfl
@[simp] theorem raiseBlockDone_tables (t : Tag) (s : State) : (raiseBlockDone t s).tables = s.tables := rfl
@[simp] theorem raiseBlockDone_planner (t : Tag) (s : State) : (raiseBlockDone t s).planner = s.planner := rfl
@[simp] theorem raiseBlockDone_executor (t : Tag) (s : State) : (raiseBlockDone t s).executor = s.executor := rfl
@[simp] theorem raiseBlockDone_keptFreq (t : Tag) (s : State) : (raiseBlockDone t s).keptFreq = s.keptFreq := rfl
@[simp] theorem raiseBlockDone_governor (t : Tag) (s : State) : (raiseBlockDone t s).governor = s.governor := rfl
@[simp] theorem raiseBlockDone_port (t : Tag) (s : State) : (raiseBlockDone t s).port = s.port := rfl
@[simp] theorem raiseBlockDone_part (t : Tag) (s : State) : (raiseBlockDone t s).part = s.part := rfl
@[simp] theorem raiseBlockDone_pending (t : Tag) (s : State) : (raiseBlockDone t s).pending = s.pending := rfl
@[simp] theorem raiseBlockDone_enables (t : Tag) (s : State) : (raiseBlockDone t s).report.enables = s.report.enables := rfl
@[simp] theorem raiseBlockDone_responses (t : Tag) (s : State) : (raiseBlockDone t s).report.responses = s.report.responses := rfl
@[simp] theorem raiseBlockDone_marks (t : Tag) (s : State) : (raiseBlockDone t s).report.marks = s.report.marks := rfl
@[simp] theorem raiseBlockDone_lost (t : Tag) (s : State) : (raiseBlockDone t s).report.lost = s.report.lost := rfl
@[simp] theorem raiseBlockDone_lane (t : Tag) (s : State) : (raiseBlockDone t s).report.lane = s.report.lane := rfl

@[simp] theorem raiseStandoff_link (t : Tag) (x y : Int) (s : State) : (raiseStandoff t x y s).link = s.link := rfl
@[simp] theorem raiseStandoff_tables (t : Tag) (x y : Int) (s : State) : (raiseStandoff t x y s).tables = s.tables := rfl
@[simp] theorem raiseStandoff_planner (t : Tag) (x y : Int) (s : State) : (raiseStandoff t x y s).planner = s.planner := rfl
@[simp] theorem raiseStandoff_executor (t : Tag) (x y : Int) (s : State) : (raiseStandoff t x y s).executor = s.executor := rfl
@[simp] theorem raiseStandoff_keptFreq (t : Tag) (x y : Int) (s : State) : (raiseStandoff t x y s).keptFreq = s.keptFreq := rfl
@[simp] theorem raiseStandoff_governor (t : Tag) (x y : Int) (s : State) : (raiseStandoff t x y s).governor = s.governor := rfl
@[simp] theorem raiseStandoff_port (t : Tag) (x y : Int) (s : State) : (raiseStandoff t x y s).port = s.port := rfl
@[simp] theorem raiseStandoff_part (t : Tag) (x y : Int) (s : State) : (raiseStandoff t x y s).part = s.part := rfl
@[simp] theorem raiseStandoff_pending (t : Tag) (x y : Int) (s : State) : (raiseStandoff t x y s).pending = s.pending := rfl
@[simp] theorem raiseStandoff_enables (t : Tag) (x y : Int) (s : State) : (raiseStandoff t x y s).report.enables = s.report.enables := rfl
@[simp] theorem raiseStandoff_responses (t : Tag) (x y : Int) (s : State) : (raiseStandoff t x y s).report.responses = s.report.responses := rfl
@[simp] theorem raiseStandoff_marks (t : Tag) (x y : Int) (s : State) : (raiseStandoff t x y s).report.marks = s.report.marks := rfl
@[simp] theorem raiseStandoff_lost (t : Tag) (x y : Int) (s : State) : (raiseStandoff t x y s).report.lost = s.report.lost := rfl
@[simp] theorem raiseStandoff_lane (t : Tag) (x y : Int) (s : State) : (raiseStandoff t x y s).report.lane = s.report.lane := rfl

@[simp] theorem raiseTrimForced_link (t : Tag) (s : State) : (raiseTrimForced t s).link = s.link := rfl
@[simp] theorem raiseTrimForced_tables (t : Tag) (s : State) : (raiseTrimForced t s).tables = s.tables := rfl
@[simp] theorem raiseTrimForced_planner (t : Tag) (s : State) : (raiseTrimForced t s).planner = s.planner := rfl
@[simp] theorem raiseTrimForced_executor (t : Tag) (s : State) : (raiseTrimForced t s).executor = s.executor := rfl
@[simp] theorem raiseTrimForced_keptFreq (t : Tag) (s : State) : (raiseTrimForced t s).keptFreq = s.keptFreq := rfl
@[simp] theorem raiseTrimForced_governor (t : Tag) (s : State) : (raiseTrimForced t s).governor = s.governor := rfl
@[simp] theorem raiseTrimForced_port (t : Tag) (s : State) : (raiseTrimForced t s).port = s.port := rfl
@[simp] theorem raiseTrimForced_part (t : Tag) (s : State) : (raiseTrimForced t s).part = s.part := rfl
@[simp] theorem raiseTrimForced_pending (t : Tag) (s : State) : (raiseTrimForced t s).pending = s.pending := rfl
@[simp] theorem raiseTrimForced_enables (t : Tag) (s : State) : (raiseTrimForced t s).report.enables = s.report.enables := rfl
@[simp] theorem raiseTrimForced_responses (t : Tag) (s : State) : (raiseTrimForced t s).report.responses = s.report.responses := rfl
@[simp] theorem raiseTrimForced_marks (t : Tag) (s : State) : (raiseTrimForced t s).report.marks = s.report.marks := rfl
@[simp] theorem raiseTrimForced_lost (t : Tag) (s : State) : (raiseTrimForced t s).report.lost = s.report.lost := rfl
@[simp] theorem raiseTrimForced_lane (t : Tag) (s : State) : (raiseTrimForced t s).report.lane = s.report.lane := rfl

@[simp] theorem raiseGovernor_link (v : Nat) (s : State) : (raiseGovernor v s).link = s.link := rfl
@[simp] theorem raiseGovernor_tables (v : Nat) (s : State) : (raiseGovernor v s).tables = s.tables := rfl
@[simp] theorem raiseGovernor_planner (v : Nat) (s : State) : (raiseGovernor v s).planner = s.planner := rfl
@[simp] theorem raiseGovernor_executor (v : Nat) (s : State) : (raiseGovernor v s).executor = s.executor := rfl
@[simp] theorem raiseGovernor_keptFreq (v : Nat) (s : State) : (raiseGovernor v s).keptFreq = s.keptFreq := rfl
@[simp] theorem raiseGovernor_governor (v : Nat) (s : State) : (raiseGovernor v s).governor = s.governor := rfl
@[simp] theorem raiseGovernor_port (v : Nat) (s : State) : (raiseGovernor v s).port = s.port := rfl
@[simp] theorem raiseGovernor_part (v : Nat) (s : State) : (raiseGovernor v s).part = s.part := rfl
@[simp] theorem raiseGovernor_pending (v : Nat) (s : State) : (raiseGovernor v s).pending = s.pending := rfl
@[simp] theorem raiseGovernor_enables (v : Nat) (s : State) : (raiseGovernor v s).report.enables = s.report.enables := rfl
@[simp] theorem raiseGovernor_responses (v : Nat) (s : State) : (raiseGovernor v s).report.responses = s.report.responses := rfl
@[simp] theorem raiseGovernor_marks (v : Nat) (s : State) : (raiseGovernor v s).report.marks = s.report.marks := rfl
@[simp] theorem raiseGovernor_lost (v : Nat) (s : State) : (raiseGovernor v s).report.lost = s.report.lost := rfl
@[simp] theorem raiseGovernor_lane (v : Nat) (s : State) : (raiseGovernor v s).report.lane = s.report.lane := rfl

@[simp] theorem raiseLink_link (r : LinkReason) (s : State) : (raiseLink r s).link = s.link := rfl
@[simp] theorem raiseLink_tables (r : LinkReason) (s : State) : (raiseLink r s).tables = s.tables := rfl
@[simp] theorem raiseLink_planner (r : LinkReason) (s : State) : (raiseLink r s).planner = s.planner := rfl
@[simp] theorem raiseLink_executor (r : LinkReason) (s : State) : (raiseLink r s).executor = s.executor := rfl
@[simp] theorem raiseLink_keptFreq (r : LinkReason) (s : State) : (raiseLink r s).keptFreq = s.keptFreq := rfl
@[simp] theorem raiseLink_governor (r : LinkReason) (s : State) : (raiseLink r s).governor = s.governor := rfl
@[simp] theorem raiseLink_port (r : LinkReason) (s : State) : (raiseLink r s).port = s.port := rfl
@[simp] theorem raiseLink_part (r : LinkReason) (s : State) : (raiseLink r s).part = s.part := rfl
@[simp] theorem raiseLink_pending (r : LinkReason) (s : State) : (raiseLink r s).pending = s.pending := rfl
@[simp] theorem raiseLink_enables (r : LinkReason) (s : State) : (raiseLink r s).report.enables = s.report.enables := rfl
@[simp] theorem raiseLink_responses (r : LinkReason) (s : State) : (raiseLink r s).report.responses = s.report.responses := rfl
@[simp] theorem raiseLink_marks (r : LinkReason) (s : State) : (raiseLink r s).report.marks = s.report.marks := rfl
@[simp] theorem raiseLink_lost (r : LinkReason) (s : State) : (raiseLink r s).report.lost = s.report.lost := rfl
@[simp] theorem raiseLink_lane (r : LinkReason) (s : State) : (raiseLink r s).report.lane = s.report.lane := rfl

end Sys2Proof.Machine
end

