-- ==== Sys2Proof/Laws/Ops.lean ====
section
/-! SUPPORT. What each shared operation of Machine/Ops.lean can do, said once. -/

namespace Sys2Proof.Machine

/-! ## Reset -/

theorem unlessReset_of_running {s : State} (h : s.part.inReset = false) (f : State → State) :
    unlessReset s f = f s := by simp [unlessReset, h]

theorem unlessReset_of_reset {s : State} (h : s.part.inReset = true) (f : State → State) : unlessReset s f = s := by
  simp [unlessReset, h]

/-! ## Responses and marks -/

/-- A response joins the tail, or is lost and LINK is raised. -/
theorem postResponse_cases (r : Response) (s : State) :
    (s.report.responses.length < Config.responseCap ∧
      postResponse r s = s.setReport { s.report with responses := s.report.responses ++ [.held r] }) ∨
    (Config.responseCap ≤ s.report.responses.length ∧ postResponse r s = raiseLink .responseFull s) := by
  unfold postResponse
  split
  · exact .inl ⟨‹_›, rfl⟩
  · exact .inr ⟨by omega, rfl⟩

theorem postResponse_of_room {r : Response} {s : State} (h : s.report.responses.length < Config.responseCap) :
    postResponse r s = s.setReport { s.report with responses := s.report.responses ++ [.held r] } := by
  simp [postResponse, h]

@[simp] theorem postResponse_link (r : Response) (s : State) : (postResponse r s).link = s.link := by
  unfold postResponse; split <;> rfl
@[simp] theorem postResponse_tables (r : Response) (s : State) : (postResponse r s).tables = s.tables := by
  unfold postResponse; split <;> rfl
@[simp] theorem postResponse_planner (r : Response) (s : State) : (postResponse r s).planner = s.planner := by
  unfold postResponse; split <;> rfl
@[simp] theorem postResponse_executor (r : Response) (s : State) : (postResponse r s).executor = s.executor := by
  unfold postResponse; split <;> rfl
@[simp] theorem postResponse_keptFreq (r : Response) (s : State) : (postResponse r s).keptFreq = s.keptFreq := by
  unfold postResponse; split <;> rfl
@[simp] theorem postResponse_governor (r : Response) (s : State) : (postResponse r s).governor = s.governor := by
  unfold postResponse; split <;> rfl
@[simp] theorem postResponse_port (r : Response) (s : State) : (postResponse r s).port = s.port := by
  unfold postResponse; split <;> rfl
@[simp] theorem postResponse_part (r : Response) (s : State) : (postResponse r s).part = s.part := by
  unfold postResponse; split <;> rfl
@[simp] theorem postResponse_pending (r : Response) (s : State) : (postResponse r s).pending = s.pending := by
  unfold postResponse; split <;> rfl

/-- Filling a place changes neither the number of places nor any that is not reserved. -/
@[simp] theorem fillPlace_length (r : Response) (ps : List Place) : (fillPlace r ps).length = ps.length := by
  induction ps with
  | nil => rfl
  | cons p rest ih => cases p <;> simp [fillPlace, ih]

/-- With no place reserved before it, the place just reserved at the tail takes the response. -/
theorem fillPlace_reserved (r : Response) (ps : List Place) (h : ∀ p ∈ ps, p ≠ .reserved) :
    fillPlace r (ps ++ [.reserved]) = ps ++ [.held r] := by
  induction ps with
  | nil => rfl
  | cons p rest ih =>
    cases p with
    | reserved => exact absurd rfl (h _ (by simp))
    | held q =>
      have := ih fun p hp => h p (by simp [hp])
      simp [fillPlace, this]

@[simp] theorem reportMark_link (t : Tag) (s : State) : (reportMark t s).link = s.link := by
  unfold reportMark; split <;> rfl
@[simp] theorem reportMark_tables (t : Tag) (s : State) : (reportMark t s).tables = s.tables := by
  unfold reportMark; split <;> rfl
@[simp] theorem reportMark_planner (t : Tag) (s : State) : (reportMark t s).planner = s.planner := by
  unfold reportMark; split <;> rfl
@[simp] theorem reportMark_executor (t : Tag) (s : State) : (reportMark t s).executor = s.executor := by
  unfold reportMark; split <;> rfl
@[simp] theorem reportMark_keptFreq (t : Tag) (s : State) : (reportMark t s).keptFreq = s.keptFreq := by
  unfold reportMark; split <;> rfl
@[simp] theorem reportMark_governor (t : Tag) (s : State) : (reportMark t s).governor = s.governor := by
  unfold reportMark; split <;> rfl
@[simp] theorem reportMark_port (t : Tag) (s : State) : (reportMark t s).port = s.port := by
  unfold reportMark; split <;> rfl
@[simp] theorem reportMark_part (t : Tag) (s : State) : (reportMark t s).part = s.part := by
  unfold reportMark; split <;> rfl
@[simp] theorem reportMark_pending (t : Tag) (s : State) : (reportMark t s).pending = s.pending := by
  unfold reportMark; split <;> rfl
@[simp] theorem reportMark_responses (t : Tag) (s : State) :
    (reportMark t s).report.responses = s.report.responses := by
  unfold reportMark; split <;> rfl
@[simp] theorem reportMark_enables (t : Tag) (s : State) : (reportMark t s).report.enables = s.report.enables := by
  unfold reportMark; split <;> rfl
@[simp] theorem reportMark_events (t : Tag) (s : State) : (reportMark t s).report.events = s.report.events := by
  unfold reportMark; split <;> rfl

/-- The mark report queue never grows beyond its capacity (R176). -/
theorem reportMark_marks_length (t : Tag) (s : State) (h : s.report.marks.length ≤ Config.markCap) :
    (reportMark t s).report.marks.length ≤ Config.markCap := by
  unfold reportMark
  split
  · simp; omega
  · exact h

/-! ## Immediate packets -/

/-- What becomes of an immediate packet: refused by the Link Receiver, handed to its owner, or discarded. -/
theorem handImmediate_cases (kind : Byte) (tag : Tag) (owner : State → State × Reply) (s : State) :
    (s.part.state = .unconfigured ∧ isSetupQueryMask kind = false ∧
      handImmediate kind tag owner s = postResponse ⟨kind, tag, .refused .notConfigured, []⟩ s) ∨
    ((s.part.state ≠ .unconfigured ∨ isSetupQueryMask kind = true) ∧
      s.report.responses.length < Config.responseCap ∧
      handImmediate kind tag owner s =
        answer ((owner (reservePlace s)).2.response kind tag) (owner (reservePlace s)).1) ∨
    ((s.part.state ≠ .unconfigured ∨ isSetupQueryMask kind = true) ∧
      Config.responseCap ≤ s.report.responses.length ∧
      handImmediate kind tag owner s = raiseLink .responseFull s) := by
  unfold handImmediate
  split
  · exact .inl ⟨‹_ ∧ _›.1, ‹_ ∧ _›.2, rfl⟩
  · rename_i h
    have h' : s.part.state ≠ .unconfigured ∨ isSetupQueryMask kind = true := by
      by_cases hu : s.part.state = .unconfigured
      · exact .inr (by simpa [hu] using h)
      · exact .inl hu
    split
    · exact .inr (.inl ⟨h', ‹_›, rfl⟩)
    · exact .inr (.inr ⟨h', by omega, rfl⟩)

theorem handImmediate_of_room {kind : Byte} {tag : Tag} {owner : State → State × Reply} {s : State}
    (hu : s.part.state ≠ .unconfigured ∨ isSetupQueryMask kind = true)
    (hr : s.report.responses.length < Config.responseCap) :
    handImmediate kind tag owner s =
      answer ((owner (reservePlace s)).2.response kind tag) (owner (reservePlace s)).1 := by
  rcases handImmediate_cases kind tag owner s with ⟨h1, h2, -⟩ | ⟨-, -, h⟩ | ⟨-, h2, -⟩
  · rcases hu with hu | hu
    · exact absurd h1 hu
    · simp [h2] at hu
  · exact h
  · omega

/-! ## Actions -/

@[simp] theorem performAction_link (s : State) (a : Action) : (performAction s a).link = s.link := by
  cases a <;> simp [performAction]
@[simp] theorem performAction_tables (s : State) (a : Action) : (performAction s a).tables = s.tables := by
  cases a <;> simp [performAction]
@[simp] theorem performAction_planner (s : State) (a : Action) : (performAction s a).planner = s.planner := by
  cases a <;> simp [performAction]
@[simp] theorem performAction_executor (s : State) (a : Action) : (performAction s a).executor = s.executor := by
  cases a <;> simp [performAction]
@[simp] theorem performAction_keptFreq (s : State) (a : Action) : (performAction s a).keptFreq = s.keptFreq := by
  cases a <;> simp [performAction]
@[simp] theorem performAction_governor (s : State) (a : Action) : (performAction s a).governor = s.governor := by
  cases a <;> simp [performAction]
@[simp] theorem performAction_part (s : State) (a : Action) : (performAction s a).part = s.part := by
  cases a <;> simp [performAction]
@[simp] theorem performAction_pending (s : State) (a : Action) : (performAction s a).pending = s.pending := by
  cases a <;> simp [performAction]
@[simp] theorem performAction_responses (s : State) (a : Action) :
    (performAction s a).report.responses = s.report.responses := by cases a <;> simp [performAction]

/-- Actions touch the Report Unit's marks and the auxiliary lines, and nothing else. -/
theorem performActions_induct {P : State → Prop} (hstep : ∀ s a, P s → P (performAction s a)) :
    ∀ (as : List Action) (s : State), P s → P (performActions s as) := by
  intro as
  induction as with
  | nil => exact fun s h => h
  | cons a rest ih => exact fun s h => ih _ (hstep s a h)

@[simp] theorem performActions_link (s : State) (as : List Action) : (performActions s as).link = s.link :=
  performActions_induct (P := fun t => t.link = s.link) (by simp) as s rfl
@[simp] theorem performActions_tables (s : State) (as : List Action) : (performActions s as).tables = s.tables :=
  performActions_induct (P := fun t => t.tables = s.tables) (by simp) as s rfl
@[simp] theorem performActions_planner (s : State) (as : List Action) : (performActions s as).planner = s.planner :=
  performActions_induct (P := fun t => t.planner = s.planner) (by simp) as s rfl
@[simp] theorem performActions_executor (s : State) (as : List Action) :
    (performActions s as).executor = s.executor :=
  performActions_induct (P := fun t => t.executor = s.executor) (by simp) as s rfl
@[simp] theorem performActions_keptFreq (s : State) (as : List Action) :
    (performActions s as).keptFreq = s.keptFreq :=
  performActions_induct (P := fun t => t.keptFreq = s.keptFreq) (by simp) as s rfl
@[simp] theorem performActions_governor (s : State) (as : List Action) :
    (performActions s as).governor = s.governor :=
  performActions_induct (P := fun t => t.governor = s.governor) (by simp) as s rfl
@[simp] theorem performActions_part (s : State) (as : List Action) : (performActions s as).part = s.part :=
  performActions_induct (P := fun t => t.part = s.part) (by simp) as s rfl
@[simp] theorem performActions_pending (s : State) (as : List Action) :
    (performActions s as).pending = s.pending :=
  performActions_induct (P := fun t => t.pending = s.pending) (by simp) as s rfl
@[simp] theorem performActions_responses (s : State) (as : List Action) :
    (performActions s as).report.responses = s.report.responses :=
  performActions_induct (P := fun t => t.report.responses = s.report.responses) (by simp) as s rfl

/-! ## Faults -/

/-- What the raising of a fault does goes by the part state alone (R148). -/
theorem raiseFault_cases (c : FaultCode) (s : State) :
    (s.part.state = .unconfigured ∧ raiseFault c s = s) ∨
    (s.part.state = .fault ∧ raiseFault c s = furtherFault s) ∨
    ((s.part.state = .parked ∨ s.part.state = .running ∨ s.part.state = .recovering) ∧
      raiseFault c s = enterFault c s) := by
  unfold raiseFault
  split <;> simp_all

theorem raiseFault_of_working {c : FaultCode} {s : State}
    (h : s.part.state = .parked ∨ s.part.state = .running ∨ s.part.state = .recovering) :
    raiseFault c s = enterFault c s := by
  rcases h with h | h | h <;> simp [raiseFault, h]

theorem raiseFault_of_fault {c : FaultCode} {s : State} (h : s.part.state = .fault) :
    raiseFault c s = furtherFault s := by simp [raiseFault, h]

@[simp] theorem raiseFault_link (c : FaultCode) (s : State) : (raiseFault c s).link = s.link := by
  unfold raiseFault; split <;> rfl
@[simp] theorem raiseFault_tables (c : FaultCode) (s : State) : (raiseFault c s).tables = s.tables := by
  unfold raiseFault; split <;> rfl
@[simp] theorem raiseFault_planner (c : FaultCode) (s : State) : (raiseFault c s).planner = s.planner := by
  unfold raiseFault; split <;> rfl
@[simp] theorem raiseFault_keptFreq (c : FaultCode) (s : State) : (raiseFault c s).keptFreq = s.keptFreq := by
  unfold raiseFault; split <;> rfl
@[simp] theorem raiseFault_governor (c : FaultCode) (s : State) : (raiseFault c s).governor = s.governor := by
  unfold raiseFault; split <;> rfl
@[simp] theorem raiseFault_pending (c : FaultCode) (s : State) : (raiseFault c s).pending = s.pending := by
  unfold raiseFault; split <;> rfl
@[simp] theorem raiseFault_responses (c : FaultCode) (s : State) :
    (raiseFault c s).report.responses = s.report.responses := by unfold raiseFault; split <;> rfl
@[simp] theorem raiseFault_marks (c : FaultCode) (s : State) :
    (raiseFault c s).report.marks = s.report.marks := by unfold raiseFault; split <;> rfl
@[simp] theorem raiseFault_queue (c : FaultCode) (s : State) :
    (raiseFault c s).executor.queue = s.executor.queue := by unfold raiseFault; split <;> rfl
@[simp] theorem raiseFault_position (c : FaultCode) (s : State) :
    (raiseFault c s).executor.position = s.executor.position := by unfold raiseFault; split <;> rfl
@[simp] theorem raiseFault_setup (c : FaultCode) (s : State) : (raiseFault c s).part.setup = s.part.setup := by
  unfold raiseFault; split <;> rfl
@[simp] theorem raiseFault_inReset (c : FaultCode) (s : State) :
    (raiseFault c s).part.inReset = s.part.inReset := by unfold raiseFault; split <;> rfl
@[simp] theorem raiseFault_held (c : FaultCode) (s : State) : (raiseFault c s).port.held = s.port.held := by
  unfold raiseFault; split <;> rfl
@[simp] theorem raiseFault_missed (c : FaultCode) (s : State) : (raiseFault c s).port.missed = s.port.missed := by
  unfold raiseFault; split <;> rfl
@[simp] theorem raiseFault_sending (c : FaultCode) (s : State) : (raiseFault c s).port.sending = s.port.sending := by
  unfold raiseFault; split <;> rfl


end Sys2Proof.Machine
end

