-- ==== Sys2Proof/Laws/Link.lean ====
section
/-! SUPPORT. A whole packet on the forward lane reaches the sorting of R160; a whole return frame its judging. -/

namespace Sys2Proof.Machine

/-! ## Bytes -/

/-- A 16-bit value is spelled by its two bytes. -/
theorem beNat_tagBytes (t : Tag) : beNat (tagBytes t) = t.toNat := by
  have : t.toNat < 65536 := t.isLt
  simp [beNat, tagBytes, u16, Nat.mod_eq_of_lt (by omega : t.toNat / 256 < 256)]
  omega

@[simp] theorem tagBytes_length (t : Tag) : (tagBytes t).length = 2 := rfl

theorem ofNat_beNat_tagBytes (t : Tag) : BitVec.ofNat 16 (beNat (tagBytes t)) = t := by
  rw [beNat_tagBytes]; simp

/-- The field that stands between two runs of bytes. -/
theorem fieldU_mid (pre mid post : List Byte) : fieldU (pre ++ (mid ++ post)) pre.length mid.length = beNat mid := by
  simp [fieldU]

/-! ## The forward lane -/

@[simp] theorem setRx_setRx (a b : Reception) (s : State) : setRx a (setRx b s) = setRx a s := rfl

/-- While a packet is counted, each byte is stored, and the last one has it judged (R159). -/
theorem forward_body (len : Byte) (s : State) :
    ∀ (bs got : List Byte) (left : Nat), bs.length = left → 0 < left →
      receiveForward bs (setRx (.body len got left) s) = judgePacket len (got ++ bs) (setRx (.hunt false) s) := by
  intro bs
  induction bs with
  | nil => intro got left h h0; simp at h; omega
  | cons b rest ih =>
    intro got left h h0
    have hb : forwardByte (setRx (.body len got left) s) b =
        if left ≤ 1 then judgePacket len (got ++ [b]) (setRx (.hunt false) s)
        else setRx (.body len (got ++ [b]) (left - 1)) s := rfl
    show receiveForward rest (forwardByte _ b) = _
    rw [hb]
    split
    · have : rest = [] := List.length_eq_zero_iff.mp (by simp at h; omega)
      subst this; rfl
    · rw [ih (got ++ [b]) (left - 1) (by simp at h; omega) (by omega)]
      simp

/-- A packet found by its sync pair, whatever byte was kept before it, is judged whole (R159). -/
theorem receiveForward_framed {s : State} {kept : Bool} {len : Byte} {body : List Byte}
    (hrx : s.link.rx = .hunt kept) (hlen : len.toNat ≤ 48) (hbody : body.length = len.toNat + 5) :
    receiveForward (Config.sync1 :: Config.packetSync2 :: len :: body) s =
      judgePacket len body (setRx (.hunt false) s) := by
  have h1 : forwardByte s Config.sync1 = setRx (.hunt true) s := by
    unfold forwardByte
    rw [hrx]
    cases kept <;> simp [Config.sync1, Config.packetSync2]
  have h2 : forwardByte (setRx (.hunt true) s) Config.packetSync2 = setRx .length s := rfl
  have h3 : forwardByte (setRx .length s) len = setRx (.body len [] (len.toNat + 5)) s := by
    show (if Config.payloadCap < len.toNat then _ else _) = _
    rw [if_neg (by simp [Config.payloadCap]; omega)]; rfl
  show receiveForward body (forwardByte (forwardByte (forwardByte s _) _) len) = _
  rw [h1, h2, h3, forward_body len s body [] _ hbody (by omega)]
  simp

/-- A whole packet with the CRC that its bytes call for reaches the sorting (R160). -/
theorem receiveForward_packet {s : State} {kept : Bool} (kind : Byte) (tag : Tag) (payload : List Byte)
    (hrx : s.link.rx = .hunt kept) (hlen : payload.length ≤ 48) :
    receiveForward (packetBytes kind tag payload) s = sortPacket kind tag payload (setRx (.hunt false) s) := by
  have hn : (BitVec.ofNat 8 payload.length).toNat = payload.length := by simp; omega
  have hsplit : packetBytes kind tag payload = Config.sync1 :: Config.packetSync2 :: BitVec.ofNat 8 payload.length ::
      (kind :: (tagBytes tag ++ payload) ++ crcBytes (coveredBytes kind tag payload)) := by
    simp [packetBytes, coveredBytes]
  rw [hsplit, receiveForward_framed hrx (by omega) (by simp [crcBytes, hn]; omega)]
  unfold judgePacket
  rw [hn]
  have htake : (kind :: (tagBytes tag ++ payload) ++ crcBytes (coveredBytes kind tag payload)).take
      (payload.length + 3) = kind :: (tagBytes tag ++ payload) := by
    have : (kind :: (tagBytes tag ++ payload)).length = payload.length + 3 := by simp; omega
    rw [← this, List.take_left']; rfl
  have hcrc : fieldU (kind :: (tagBytes tag ++ payload) ++ crcBytes (coveredBytes kind tag payload))
      (payload.length + 3) 2 = (crc (coveredBytes kind tag payload)).toNat := by
    have h := fieldU_mid (kind :: (tagBytes tag ++ payload)) (crcBytes (coveredBytes kind tag payload)) []
    have hl : (kind :: (tagBytes tag ++ payload)).length = payload.length + 3 := by simp; omega
    rw [hl] at h
    simp only [List.append_nil] at h
    exact h.trans (beNat_tagBytes _)
  have htag : fieldU (kind :: (tagBytes tag ++ payload) ++ crcBytes (coveredBytes kind tag payload)) 1 2 =
      tag.toNat := by
    have h := fieldU_mid [kind] (tagBytes tag) (payload ++ crcBytes (coveredBytes kind tag payload))
    simpa [beNat_tagBytes] using h
  have hpay : ((kind :: (tagBytes tag ++ payload) ++ crcBytes (coveredBytes kind tag payload)).drop 3).take
      payload.length = payload := by
    obtain ⟨a, b, hab⟩ : ∃ a b, tagBytes tag = [a, b] := ⟨_, _, rfl⟩
    simp [hab]
  dsimp only
  rw [htake, hcrc, htag, hpay]
  simp [coveredBytes]

/-! ## The incoming drive lane -/

/-- While a return frame is counted, each byte is stored, and the last one has it judged (R179). -/
theorem drive_body (s : State) :
    ∀ (bs got : List Byte) (left : Nat), bs.length = left → 0 < left →
      receiveDrive bs (s.setPort { s.port with rx := .body got left }) =
        judgeReturn (got ++ bs) (s.setPort { s.port with rx := .hunt false }) := by
  intro bs
  induction bs with
  | nil => intro got left h h0; simp at h; omega
  | cons b rest ih =>
    intro got left h h0
    have hb : driveByte (s.setPort { s.port with rx := .body got left }) b =
        if left ≤ 1 then judgeReturn (got ++ [b]) (s.setPort { s.port with rx := .hunt false })
        else s.setPort { s.port with rx := .body (got ++ [b]) (left - 1) } := rfl
    show receiveDrive rest (driveByte _ b) = _
    rw [hb]
    split
    · have : rest = [] := List.length_eq_zero_iff.mp (by simp at h; omega)
      subst this; rfl
    · rw [ih (got ++ [b]) (left - 1) (by simp at h; omega) (by omega)]
      simp

/-- A return frame found by its sync pair is judged whole (R179). -/
theorem receiveDrive_framed {s : State} {kept : Bool} {body : List Byte} (hrx : s.port.rx = .hunt kept)
    (hbody : body.length = 21) :
    receiveDrive (Config.sync1 :: Config.returnSync2 :: body) s =
      judgeReturn body (s.setPort { s.port with rx := .hunt false }) := by
  have h1 : driveByte s Config.sync1 = s.setPort { s.port with rx := .hunt true } := by
    unfold driveByte
    rw [hrx]
    cases kept <;> simp [Config.sync1, Config.returnSync2]
  have h2 : driveByte (s.setPort { s.port with rx := .hunt true }) Config.returnSync2 =
      s.setPort { s.port with rx := .body [] 21 } := rfl
  show receiveDrive body (driveByte (driveByte s _) _) = _
  rw [h1, h2, drive_body s body [] 21 hbody (by omega)]
  simp

end Sys2Proof.Machine
end

