-- ==== Sys2Proof/Laws/Bytes.lean ====
section
/-! SUPPORT. The fields of a payload read back what was written (12.2). -/

namespace Sys2Proof.Machine

@[simp] theorem u8_length (n : Nat) : (u8 n).length = 1 := rfl
@[simp] theorem u16_length (n : Nat) : (u16 n).length = 2 := rfl
@[simp] theorem u32_length (n : Nat) : (u32 n).length = 4 := rfl
@[simp] theorem s32_length (i : Int) : (s32 i).length = 4 := rfl

theorem beNat_u8 (n : Nat) (h : n < 256) : beNat (u8 n) = n := by simp [beNat, u8]; omega

theorem beNat_u16 (n : Nat) (h : n < 65536) : beNat (u16 n) = n := by simp [beNat, u16]; omega

theorem beNat_u32 (n : Nat) (h : n < 4294967296) : beNat (u32 n) = n := by simp [beNat, u32, u16]; omega

/-- An s32 field reads back the number written. -/
theorem asS32_s32 (i : Int) (h : -2 ^ 31 ≤ i ∧ i < 2 ^ 31) : asS32 (beNat (s32 i)) = i := by
  have hlt : (BitVec.ofInt 32 i).toNat < 4294967296 := (BitVec.ofInt 32 i).isLt
  rw [s32, beNat_u32 _ hlt, asS32, BitVec.ofNat_toNat, BitVec.setWidth_eq, BitVec.toInt_ofInt]
  apply Int.bmod_eq_of_le <;> omega

/-- The field between two runs of bytes, by its offset and width. -/
theorem fieldU_at (pre mid post : List Byte) (n m : Nat) (hn : pre.length = n) (hm : mid.length = m) :
    fieldU (pre ++ mid ++ post) n m = beNat mid := by
  subst hn hm
  simpa using fieldU_mid pre mid post

/-- The fields of a BLOCK payload. -/
theorem block_fields {p : Packet} {height : Nat} {ox oy : Int} {dry : Byte}
    (hp : p.payload = u32 height ++ s32 ox ++ s32 oy ++ [dry]) (hh : height < 2 ^ 32)
    (hx : -2 ^ 31 ≤ ox ∧ ox < 2 ^ 31) (hy : -2 ^ 31 ≤ oy ∧ oy < 2 ^ 31) :
    blockHeight p = height ∧ blockOx p = ox ∧ blockOy p = oy ∧ blockDry p = (dry != 0) := by
  have h0 := fieldU_at [] (u32 height) (s32 ox ++ s32 oy ++ [dry]) 0 4 rfl rfl
  have h1 := fieldU_at (u32 height) (s32 ox) (s32 oy ++ [dry]) 4 4 rfl rfl
  have h2 := fieldU_at (u32 height ++ s32 ox) (s32 oy) [dry] 8 4 rfl rfl
  have h3 := fieldU_at (u32 height ++ s32 ox ++ s32 oy) [dry] [] 12 1 rfl rfl
  simp only [List.nil_append, List.append_nil, List.append_assoc] at h0 h1 h2 h3
  have hd : beNat [dry] = dry.toNat := by simp [beNat]
  simp only [blockHeight, blockOx, blockOy, blockDry, fieldS, hp, List.append_assoc, h0, h1, h2, h3, asS32_s32 _ hx,
    asS32_s32 _ hy, beNat_u32 height hh, hd, true_and]
  rcases Decidable.em (dry = 0) with h | h
  · subst h; rfl
  · have : dry.toNat ≠ 0 := fun e => h (BitVec.eq_of_toNat_eq (by simpa using e))
    simp [flagByte, bne, this]
    exact h

/-- The point of a CONTOUR or CUT payload. -/
theorem point_fields {p : Packet} {x y : Int} {post : List Byte} (hp : p.payload = s32 x ++ s32 y ++ post)
    (hx : -2 ^ 31 ≤ x ∧ x < 2 ^ 31) (hy : -2 ^ 31 ≤ y ∧ y < 2 ^ 31) : pointX p = x ∧ pointY p = y := by
  have h0 := fieldU_at [] (s32 x) (s32 y ++ post) 0 4 rfl rfl
  have h1 := fieldU_at (s32 x) (s32 y) post 4 4 rfl rfl
  simp only [List.nil_append, List.append_assoc] at h0 h1
  simp only [pointX, pointY, fieldS, hp, List.append_assoc, h0, h1, asS32_s32 _ hx, asS32_s32 _ hy, and_self]

/-- The requested feed of a CUT payload. -/
theorem feed_field {p : Packet} {x y : Int} {feed : Nat} (hp : p.payload = s32 x ++ s32 y ++ u16 feed)
    (hf : feed < 65536) : cutFeed p = feed := by
  have h := fieldU_at (s32 x ++ s32 y) (u16 feed) [] 8 2 rfl rfl
  simp only [List.append_nil] at h
  rw [cutFeed, hp, h, beNat_u16 feed hf]

end Sys2Proof.Machine
end

