-- ==== Sys2Proof/Laws/Planner.lean ====
section
/-! SUPPORT. What releasing, appending and the Planner's moments can do. -/

namespace Sys2Proof.Machine

/-- What the Planner's own work between two packets leaves alone: everything but its window, pending actions, memory and
release point, the execution queue, the dwell timer, and PARKED becoming RUNNING. -/
structure PlanFrame (s t : State) : Prop where
  link : t.link = s.link
  tables : t.tables = s.tables
  keptFreq : t.keptFreq = s.keptFreq
  governor : t.governor = s.governor
  port : t.port = s.port
  report : t.report = s.report
  pending : t.pending = s.pending
  setup : t.part.setup = s.part.setup
  record : t.part.record = s.part.record
  abortFlag : t.part.abortFlag = s.part.abortFlag
  stopInput : t.part.stopInput = s.part.stopInput
  inReset : t.part.inReset = s.part.inReset
  state : t.part.state = s.part.state ∨ (s.part.state = .parked ∧ t.part.state = .running)
  stream : t.planner.stream = s.planner.stream
  block : t.planner.block = s.planner.block
  prev : t.planner.prev = s.planner.prev
  contour : t.planner.contour = s.planner.contour
  plannedHeading : t.planner.plannedHeading = s.planner.plannedHeading
  trimDist : t.planner.trimDist = s.planner.trimDist
  executor : t.executor = { s.executor with queue := t.executor.queue, dwellTimer := t.executor.dwellTimer }

theorem PlanFrame.rfl' (s : State) : PlanFrame s s := by constructor <;> simp

theorem PlanFrame.trans {s t u : State} (h : PlanFrame s t) (k : PlanFrame t u) : PlanFrame s u where
  link := k.link.trans h.link
  tables := k.tables.trans h.tables
  keptFreq := k.keptFreq.trans h.keptFreq
  governor := k.governor.trans h.governor
  port := k.port.trans h.port
  report := k.report.trans h.report
  pending := k.pending.trans h.pending
  setup := k.setup.trans h.setup
  record := k.record.trans h.record
  abortFlag := k.abortFlag.trans h.abortFlag
  stopInput := k.stopInput.trans h.stopInput
  inReset := k.inReset.trans h.inReset
  state := by
    rcases h.state with h1 | ⟨h1, h2⟩ <;> rcases k.state with k1 | ⟨k1, k2⟩
    · exact .inl (k1.trans h1)
    · exact .inr ⟨h1 ▸ k1, k2⟩
    · exact .inr ⟨h1, k1.trans h2⟩
    · rw [h2] at k1; cases k1
  stream := k.stream.trans h.stream
  block := k.block.trans h.block
  prev := k.prev.trans h.prev
  contour := k.contour.trans h.contour
  plannedHeading := k.plannedHeading.trans h.plannedHeading
  trimDist := k.trimDist.trans h.trimDist
  executor := by
    have hk := k.executor
    rw [hk, h.executor]

/-- The blocks behind the Planner see no more of its work than `PlannerOnly` says. -/
theorem PlanFrame.only {s t : State} (h : PlanFrame s t) : PlannerOnly s t where
  keptFreq := h.keptFreq
  governor := h.governor
  port := h.port
  pending := h.pending
  part := by
    have a := h.setup; have b := h.record; have c := h.abortFlag; have d := h.stopInput; have e := h.inReset
    revert a b c d e
    generalize t.part = tp
    generalize s.part = sp
    intros
    cases tp; cases sp; simp_all
  executor := h.executor

theorem PlannerOnly.trans {s t u : State} (h : PlannerOnly s t) (k : PlannerOnly t u) : PlannerOnly s u where
  keptFreq := k.keptFreq.trans h.keptFreq
  governor := k.governor.trans h.governor
  port := k.port.trans h.port
  pending := k.pending.trans h.pending
  part := by rw [k.part, h.part]
  executor := by rw [k.executor, h.executor]

theorem takeIntake_only (rest : List Packet) (s : State) : PlannerOnly s (takeIntake rest s) := by
  constructor <;> rfl

@[simp] theorem takeIntake_tables (rest : List Packet) (s : State) : (takeIntake rest s).tables = s.tables := rfl
@[simp] theorem takeIntake_planner (rest : List Packet) (s : State) : (takeIntake rest s).planner = s.planner := rfl
@[simp] theorem takeIntake_executor (rest : List Packet) (s : State) : (takeIntake rest s).executor = s.executor := rfl
@[simp] theorem takeIntake_keptFreq (rest : List Packet) (s : State) : (takeIntake rest s).keptFreq = s.keptFreq := rfl
@[simp] theorem takeIntake_governor (rest : List Packet) (s : State) : (takeIntake rest s).governor = s.governor := rfl
@[simp] theorem takeIntake_port (rest : List Packet) (s : State) : (takeIntake rest s).port = s.port := rfl
@[simp] theorem takeIntake_part (rest : List Packet) (s : State) : (takeIntake rest s).part = s.part := rfl
@[simp] theorem takeIntake_report (rest : List Packet) (s : State) : (takeIntake rest s).report = s.report := rfl
@[simp] theorem takeIntake_pending (rest : List Packet) (s : State) : (takeIntake rest s).pending = s.pending := rfl
@[simp] theorem takeIntake_intake (rest : List Packet) (s : State) : (takeIntake rest s).link.intake = rest := rfl
@[simp] theorem takeIntake_records (rest : List Packet) (s : State) : (takeIntake rest s).records = s.records := rfl

/-! ## Release -/

theorem releaseHead_frame (s : State) : PlanFrame s (releaseHead s) := by
  unfold releaseHead
  split
  · exact .rfl' s
  · constructor <;> simp [Planner.release]

@[simp] theorem releaseHead_actions (s : State) : (releaseHead s).planner.actions = s.planner.actions := by
  unfold releaseHead; split <;> simp [Planner.release]

/-- A release keeps the order of the records. -/
@[simp] theorem releaseHead_records (s : State) : (releaseHead s).records = s.records := by
  unfold releaseHead State.records
  split
  · rfl
  · simp [Planner.release, *]

/-- The head of the window is released. -/
theorem releaseHead_cons {s : State} {w : WindowEntry} {rest : List WindowEntry} (h : s.planner.window = w :: rest) :
    (releaseHead s).executor.queue = s.executor.queue ++ [w.record] ∧ (releaseHead s).planner.window = rest := by
  simp [releaseHead, h, Planner.release]

/-- What holds before the release rules are applied, and is kept by every release, holds after. -/
theorem releaseLoop_induct {P : State → Prop}
    (hstep : ∀ s, P s → plannerWorks s = true → headReleasable s = true → releaseCalled s = true → P (releaseHead s)) :
    ∀ n s, P s → P (releaseLoop n s) := by
  intro n
  induction n with
  | zero => exact fun s h => h
  | succ n ih =>
    intro s h
    unfold releaseLoop
    split
    · rename_i hc
      simp only [Bool.and_eq_true] at hc
      exact ih _ (hstep s h hc.1.1 hc.1.2 hc.2)
    · exact h

theorem applyReleases_frame (s : State) : PlanFrame s (applyReleases s) :=
  releaseLoop_induct (P := PlanFrame s) (fun t h _ _ _ => h.trans (releaseHead_frame t)) _ s (.rfl' s)

@[simp] theorem applyReleases_actions (s : State) : (applyReleases s).planner.actions = s.planner.actions :=
  releaseLoop_induct (P := fun t => t.planner.actions = s.planner.actions) (fun t h _ _ _ => by simpa using h) _ s rfl

@[simp] theorem applyReleases_records (s : State) : (applyReleases s).records = s.records :=
  releaseLoop_induct (P := fun t => t.records = s.records) (fun t h _ _ _ => by simpa using h) _ s rfl

/-- The execution queue never holds more than 32 records (R78, R104). -/
theorem applyReleases_queue (s : State) (h : s.executor.queue.length ≤ 32) :
    (applyReleases s).executor.queue.length ≤ 32 := by
  refine releaseLoop_induct (P := fun t => t.executor.queue.length ≤ 32) (fun t ht _ hr _ => ?_) _ s h
  unfold headReleasable at hr
  split at hr
  · rename_i w rest hw
    have hlt : t.executor.queue.length < 32 := of_decide_eq_true (Bool.and_eq_true _ _ ▸ hr).1
    rw [(releaseHead_cons hw).1]
    simp; omega
  · simp at hr

/-- One release, in queue, window and number due. -/
theorem releaseHead_counts {s : State} {w : WindowEntry} {rest : List WindowEntry} (h : s.planner.window = w :: rest) :
    (releaseHead s).executor.queue = s.executor.queue ++ [w.record] ∧ (releaseHead s).planner.window = rest ∧
    (releaseHead s).planner.dueCount = s.planner.dueCount - 1 := by
  refine ⟨by simp [releaseHead, h], by simp [releaseHead, h, Planner.release], ?_⟩
  simp only [releaseHead, h, State.setExecutor_planner, State.setPlanner_planner, Planner.release, Planner.dueCount]
  rcases s.planner.releasePoint with _ | _ | i <;> simp

/-- How many records the release rules call for, counted from the head of the window (R79 to R81). -/
def calledCount (s : State) : Nat :=
  max s.planner.dueCount (max (s.planner.window.length - 23)
    (if s.link.intake = [] then 2 - s.executor.queue.length else 0))

/-- How many records the release rules move (R78 to R83). -/
abbrev releaseCount (s : State) : Nat := s.callsFor s.executor.queue.length

theorem releaseCount_eq (s : State) : releaseCount s = min (calledCount s) (min (32 - s.executor.queue.length)
    (s.planner.window.takeWhile fun w => !w.record.body.headless).length) := rfl

theorem releaseCalled_iff (s : State) : releaseCalled s = true ↔ 0 < calledCount s := by
  have hc : Config.windowCap = 24 := rfl
  unfold releaseCalled calledCount Planner.dueCount
  cases s.planner.releasePoint <;> cases s.link.intake <;> simp <;> omega

/-- What a release loop of a working Planner does to queue, window and release point. -/
theorem releaseLoop_count : ∀ (m : Nat) (s : State), plannerWorks s = true → s.planner.window.length ≤ m →
    (releaseLoop m s).executor.queue =
      s.executor.queue ++ (s.planner.window.take (releaseCount s)).map (fun w => w.record) ∧
    (releaseLoop m s).planner.window = s.planner.window.drop (releaseCount s) ∧
    (releaseLoop m s).planner.releasePoint =
      if s.planner.dueCount ≤ releaseCount s then none else some (s.planner.dueCount - 1 - releaseCount s) := by
  have stays : ∀ s : State, releaseCount s = 0 → s.executor.queue =
      s.executor.queue ++ (s.planner.window.take (releaseCount s)).map (fun w => w.record) ∧
      s.planner.window = s.planner.window.drop (releaseCount s) ∧ s.planner.releasePoint =
        if s.planner.dueCount ≤ releaseCount s then none else some (s.planner.dueCount - 1 - releaseCount s) := by
    intro s h
    rw [h]
    unfold Planner.dueCount
    cases s.planner.releasePoint <;> simp
  intro m
  induction m with
  | zero =>
    intro s _ hl
    exact stays s (by simp [releaseCount_eq, List.length_eq_zero_iff.mp (Nat.le_zero.mp hl)])
  | succ m ih =>
    intro s hw hl
    unfold releaseLoop
    rw [hw, Bool.true_and]
    split
    · rename_i hc
      rw [Bool.and_eq_true, releaseCalled_iff] at hc
      obtain ⟨hr, hc⟩ := hc
      unfold headReleasable at hr
      split at hr
      · rename_i w rest hwin
        rw [Bool.and_eq_true, decide_eq_true_eq] at hr
        obtain ⟨hq, hh⟩ := hr
        have hq : s.executor.queue.length < 32 := hq
        obtain ⟨h1, h2, h3⟩ := releaseHead_counts hwin
        have hw' : plannerWorks (releaseHead s) = true := by simpa [plannerWorks, releaseHead, hwin] using hw
        obtain ⟨i1, i2, i3⟩ := ih (releaseHead s) hw' (by rw [h2]; rw [hwin] at hl; simpa using hl)
        have hcall : calledCount (releaseHead s) = calledCount s - 1 := by
          have hi : (releaseHead s).link = s.link := by simp [releaseHead, hwin]
          simp only [calledCount, h1, h2, h3, hi, hwin, ← Nat.sub_max_sub_right]
          congr 2
          · simp only [List.length_append, List.length_singleton]
            split <;> omega
        have hn : releaseCount s = releaseCount (releaseHead s) + 1 := by
          simp only [releaseCount_eq, hcall, h1, h2, hwin, List.takeWhile_cons, hh, if_true, List.length_append,
            List.length_cons, List.length_nil]
          omega
        rw [i1, i2, i3, h1, h2, h3, hn, hwin]
        refine ⟨by simp, by simp, ?_⟩
        by_cases hd : s.planner.dueCount ≤ releaseCount (releaseHead s) + 1
        · rw [if_pos hd, if_pos (by omega)]
        · rw [if_neg hd, if_neg (by omega)]
          congr 1; omega
      · cases hr
    · rename_i hc
      refine stays s ?_
      rw [Bool.and_eq_true, releaseCalled_iff] at hc
      unfold headReleasable at hc
      rw [releaseCount_eq]
      split at hc
      · rename_i w rest hwin
        rw [hwin]
        have h32 : Config.queueCap = 32 := rfl
        simp only [Bool.and_eq_true, decide_eq_true_eq] at hc
        cases hh : w.record.body.headless
        · simp only [hh] at hc
          simp at hc
          omega
        · simp [hh]
      · rename_i hwin
        simp [hwin]

/-- What the release rules of a working Planner do (R83). -/
theorem applyReleases_released {s : State} (h : plannerWorks s = true) :
    Released s.executor.queue s (applyReleases s) :=
  let ⟨hq, hw, hp⟩ := releaseLoop_count _ s h (Nat.le_refl _)
  ⟨hq, hw, hp⟩

/-! ## Appending -/

@[simp] theorem Planner.replan_window_length (a : Nat) (p : Planner) :
    (p.replan a).window.length = p.window.length := by
  have hb : ∀ l : List WindowEntry, (planBackward a l).1.length = l.length := by
    intro l
    induction l with
    | nil => rfl
    | cons w rest ih => unfold planBackward; split <;> simp [ih]
  have hf : ∀ (l : List WindowEntry) (b : Nat), (planForward a b l).length = l.length := by
    intro l
    induction l with
    | nil => exact fun _ => rfl
    | cons w rest ih => intro b; unfold planForward; split <;> simp [ih]
  simp only [Planner.replan, List.length_append, hf, hb, List.length_take, List.length_drop]
  omega

theorem Planner.fixMemory_window (p : Planner) : p.fixMemory.window = p.window := by
  unfold Planner.fixMemory
  split
  · split <;> rfl
  all_goals rfl

/-- Appending adds one record to the window. -/
@[simp] theorem Planner.append_window_length (a : Nat) (b : Bool) (w : WindowEntry) (p : Planner) :
    (p.append a b w).window.length = p.window.length + 1 := by
  unfold Planner.append
  split
  · rw [Planner.replan_window_length]; simp
  · split <;> simp

/-- Appending leaves the stream context, the pending actions and the trim distance alone. -/
theorem Planner.append_context (a : Nat) (b : Bool) (w : WindowEntry) (p : Planner) :
    (p.append a b w).stream = p.stream ∧ (p.append a b w).block = p.block ∧ (p.append a b w).prev = p.prev ∧
    (p.append a b w).contour = p.contour ∧ (p.append a b w).plannedHeading = p.plannedHeading ∧
    (p.append a b w).actions = p.actions ∧ (p.append a b w).trimDist = p.trimDist := by
  unfold Planner.append Planner.replan Planner.fixMemory
  repeat' split
  all_goals exact ⟨rfl, rfl, rfl, rfl, rfl, rfl, rfl⟩

theorem startsWork_frame (s : State) : PlanFrame s (startsWork s) := by
  unfold startsWork
  split
  · rename_i h; constructor <;> simp [h.2.2]
  · exact .rfl' s

@[simp] theorem startsWork_planner (s : State) : (startsWork s).planner = s.planner := by
  unfold startsWork; split <;> rfl

@[simp] theorem startsWork_executor (s : State) : (startsWork s).executor = s.executor := by
  unfold startsWork; split <;> rfl

theorem joinWindow_frame (w : WindowEntry) (s : State) : PlanFrame s (joinWindow w s) := by
  obtain ⟨c1, c2, c3, c4, c5, -, c7⟩ := Planner.append_context s.accel s.tables.waiting.isSome w s.planner
  constructor <;> simp [joinWindow, c1, c2, c3, c4, c5, c7]

theorem releaseFull_frame (s : State) : PlanFrame s (releaseFull s) := by
  unfold releaseFull
  split
  · exact applyReleases_frame s
  · exact .rfl' s

@[simp] theorem releaseFull_records (s : State) : (releaseFull s).records = s.records := by
  unfold releaseFull; split <;> simp

@[simp] theorem releaseFull_actions (s : State) : (releaseFull s).planner.actions = s.planner.actions := by
  unfold releaseFull; split <;> simp

theorem appendRecord_frame (w : WindowEntry) (s : State) : PlanFrame s (appendRecord w s) :=
  ((startsWork_frame s).trans (joinWindow_frame w _)).trans (releaseFull_frame _)

@[simp] theorem appendRecord_actions (w : WindowEntry) (s : State) :
    (appendRecord w s).planner.actions = s.planner.actions := by
  simp [appendRecord, joinWindow, (Planner.append_context _ _ w _).2.2.2.2.2.1]

/-- Setting the pending actions is no more than that. -/
theorem setActions_frame (s : State) (as : List Action) :
    PlanFrame s (s.setPlanner { s.planner with actions := as }) := by constructor <;> simp

theorem makeRecord_frame (tag : Tag) (body : Body) (j : Nat) (o : Bool) (s : State) :
    PlanFrame s (makeRecord tag body j o s) := (setActions_frame s []).trans (appendRecord_frame _ _)

/-- A record of any kind but ACTIONS takes the whole pending list (R17). -/
@[simp] theorem makeRecord_actions (tag : Tag) (body : Body) (j : Nat) (o : Bool) (s : State) :
    (makeRecord tag body j o s).planner.actions = [] := by simp [makeRecord]

theorem makeActions_frame (s : State) : PlanFrame s (makeActions s) :=
  (setActions_frame s []).trans (appendRecord_frame _ _)

@[simp] theorem makeActions_actions (s : State) : (makeActions s).planner.actions = [] := by simp [makeActions]

/-- A record that is no CUT joins the tail of the window and leaves the others as they are. -/
theorem Planner.append_records {w : WindowEntry} (h : w.record.body.cut? = none) (a : Nat) (b : Bool) (p : Planner) :
    (p.append a b w).window.map (fun e => e.record) = p.window.map (fun e => e.record) ++ [w.record] := by
  unfold Planner.append
  split
  · rename_i c hc; simp [Body.cut?, hc] at h
  · split <;> simp

theorem appendRecord_records {w : WindowEntry} {s : State} (h : w.record.body.cut? = none) :
    (appendRecord w s).records = s.records ++ [w.record] := by
  rw [appendRecord, releaseFull_records]
  simp [State.records, joinWindow, Planner.append_records h]

theorem makeRecord_records {tag : Tag} {body : Body} {j : Nat} {o : Bool} {s : State} (h : body.cut? = none) :
    (makeRecord tag body j o s).records = s.records ++ [⟨tag, s.planner.actions, body⟩] := by
  rw [makeRecord, appendRecord_records (by exact h)]; simp [State.records]

theorem makeActions_records (s : State) :
    (makeActions s).records = s.records ++ [⟨lastTag s.planner.actions, s.planner.actions, .actions⟩] := by
  rw [makeActions, appendRecord_records (by rfl)]; simp [State.records]

/-! ## A moment of the Planner -/

theorem plannerMoment_frame (s : State) : PlanFrame s (plannerMoment s) := by
  unfold plannerMoment
  dsimp only
  split
  · exact ((applyReleases_frame s).trans (makeActions_frame _)).trans (applyReleases_frame _)
  · exact applyReleases_frame s

/-- With a stream packet waiting, R19 makes no record. -/
theorem plannerMoment_of_intake {s : State} (h : s.link.intake ≠ []) : plannerMoment s = applyReleases s := by
  have : actionsDue (applyReleases s) = false := by
    unfold actionsDue
    rw [(applyReleases_frame s).link]
    cases hi : s.link.intake with
    | nil => exact absurd hi h
    | cons => simp
  simp [plannerMoment, this]

/-- With no action pending, R19 makes no record. -/
theorem plannerMoment_of_noActions {s : State} (h : s.planner.actions = []) : plannerMoment s = applyReleases s := by
  have : actionsDue (applyReleases s) = false := by simp [actionsDue, h]
  simp [plannerMoment, this]

/-- With no blade table waiting nothing commits. -/
theorem commitBlade_of_none {s : State} (h : s.tables.waiting = none) : commitBlade s = s := by
  simp [commitBlade, h]

/-! ## The queue only grows while the Planner works -/

theorem releaseHead_prefix (s : State) : s.executor.queue <+: (releaseHead s).executor.queue := by
  unfold releaseHead; split <;> simp

/-- Releases add to the tail of the execution queue. -/
theorem applyReleases_prefix (s : State) : s.executor.queue <+: (applyReleases s).executor.queue :=
  releaseLoop_induct (P := fun t => s.executor.queue <+: t.executor.queue)
    (fun t h _ _ _ => h.trans (releaseHead_prefix t)) _ s (List.prefix_refl _)

@[simp] theorem joinWindow_executor (w : WindowEntry) (s : State) : (joinWindow w s).executor = s.executor := rfl

theorem appendRecord_prefix (w : WindowEntry) (s : State) : s.executor.queue <+: (appendRecord w s).executor.queue := by
  unfold appendRecord releaseFull
  split
  · refine List.IsPrefix.trans ?_ (applyReleases_prefix _)
    simp
  · simp

theorem appendRecord_queue (w : WindowEntry) (s : State) (h : s.executor.queue.length ≤ 32) :
    (appendRecord w s).executor.queue.length ≤ 32 := by
  unfold appendRecord releaseFull
  split
  · exact applyReleases_queue _ (by simpa using h)
  · simpa using h

theorem makeActions_prefix (s : State) : s.executor.queue <+: (makeActions s).executor.queue := by
  unfold makeActions
  refine List.IsPrefix.trans ?_ (appendRecord_prefix _ _)
  simp

theorem makeActions_queue (s : State) (h : s.executor.queue.length ≤ 32) :
    (makeActions s).executor.queue.length ≤ 32 := by
  unfold makeActions
  exact appendRecord_queue _ _ (by simpa using h)

/-- A moment of the Planner adds to the tail of the execution queue, and never beyond 32 records. -/
theorem plannerMoment_prefix (s : State) : s.executor.queue <+: (plannerMoment s).executor.queue := by
  unfold plannerMoment
  dsimp only
  split
  · exact ((applyReleases_prefix s).trans (makeActions_prefix _)).trans (applyReleases_prefix _)
  · exact applyReleases_prefix s

theorem plannerMoment_queue (s : State) (h : s.executor.queue.length ≤ 32) :
    (plannerMoment s).executor.queue.length ≤ 32 := by
  unfold plannerMoment
  dsimp only
  split
  · exact applyReleases_queue _ (makeActions_queue _ (applyReleases_queue _ h))
  · exact applyReleases_queue _ h

/-! ## A commit -/

@[simp] theorem commitBlade_link (s : State) : (commitBlade s).link = s.link := by
  unfold commitBlade; split <;> [rfl; (split <;> simp)]
@[simp] theorem commitBlade_planner (s : State) : (commitBlade s).planner = s.planner := by
  unfold commitBlade; split <;> [rfl; (split <;> simp)]
@[simp] theorem commitBlade_executor (s : State) : (commitBlade s).executor = s.executor := by
  unfold commitBlade; split <;> [rfl; (split <;> simp)]
@[simp] theorem commitBlade_keptFreq (s : State) : (commitBlade s).keptFreq = s.keptFreq := by
  unfold commitBlade; split <;> [rfl; (split <;> simp)]
@[simp] theorem commitBlade_governor (s : State) : (commitBlade s).governor = s.governor := by
  unfold commitBlade; split <;> [rfl; (split <;> simp)]
@[simp] theorem commitBlade_port (s : State) : (commitBlade s).port = s.port := by
  unfold commitBlade; split <;> [rfl; (split <;> simp)]
@[simp] theorem commitBlade_part (s : State) : (commitBlade s).part = s.part := by
  unfold commitBlade; split <;> [rfl; (split <;> simp)]
@[simp] theorem commitBlade_pending (s : State) : (commitBlade s).pending = s.pending := by
  unfold commitBlade; split <;> [rfl; (split <;> simp)]
@[simp] theorem commitBlade_density (s : State) : (commitBlade s).tables.density = s.tables.density := by
  unfold commitBlade; split <;> [rfl; (split <;> simp)]
@[simp] theorem commitBlade_zone (s : State) : (commitBlade s).tables.zone = s.tables.zone := by
  unfold commitBlade; split <;> [rfl; (split <;> simp)]
@[simp] theorem commitBlade_load (s : State) : (commitBlade s).tables.load = s.tables.load := by
  unfold commitBlade; split <;> [rfl; (split <;> simp)]

/-! ## Taking a packet -/

theorem Takes.canTake {k : Byte} {r : Setup} {p : Packet} {rest : List Packet} {s : State} (h : Takes k r p rest s) :
    canTake s = true := by
  have hw : plannerWorks s = true := by
    rcases h.works with hw | hw <;> simp [plannerWorks, hw, h.noAbort]
  have hr : (decide (s.planner.window.length ≤ 22) ||
      (decide (s.planner.window.length = 23) && headReleasable s)) = true := by
    rcases h.room with h1 | ⟨h1, h2, h3⟩
    · simp [h1]
    · have hh : headReleasable s = true := by
        unfold headReleasable
        split
        · rename_i w tail hw'
          simp [h2, Config.queueCap, h3 w (by simp [hw'])]
        · rename_i hw'; simp [hw'] at h1
      simp [h1, hh]
  simp [Machine.canTake, hw, h.noStall, hr]

theorem Takes.takePacket {k : Byte} {r : Setup} {p : Packet} {rest : List Packet} {s : State}
    (h : Takes k r p rest s) : takePacket k s = some (r, p, takeIntake rest s) := by
  simp [Machine.takePacket, h.setup, h.head, h.canTake, h.kind]

/-- A packet that may be taken is dealt with, and the Planner's moment follows. -/
theorem Takes.takeAndDeal {k : Byte} {r : Setup} {p : Packet} {rest : List Packet} {s : State}
    (h : Takes k r p rest s) (deal : Setup → Packet → State → State) :
    takeAndDeal k deal s = plannerMoment (deal r p (takeIntake rest s)) := by
  simp [Machine.takeAndDeal, h.takePacket]

/-- As `Takes.takeAndDeal`, for a packet whose handling reads tables. -/
theorem Takes.takeAndTry {k : Byte} {r : Setup} {p : Packet} {rest : List Packet} {s t : State}
    (h : Takes k r p rest s) {deal : Setup → Packet → State → Except Fault State}
    (hd : deal r p (takeIntake rest s) = .ok t) : takeAndTry k deal s = .next (plannerMoment t) := by
  simp [Machine.takeAndTry, h.running, h.takePacket, hd]

end Sys2Proof.Machine
end

