-- ==== Sys2Proof/Laws/Frame.lean ====
section
/-! SUPPORT. What a frame with nothing left due comes down to, and what its close keeps and counts. -/

namespace Sys2Proof.Machine

/-- With no evaluation, jam, miss or expiry due, no end of a retract to take, and the Executor not at rest under a halt
or an abort nor at the end of a fault stop, nothing is taken before the frame. -/
theorem settle_of_quiet {s : State} (h : Quiet s)
    (hd : s.executor.stepDone = false ∨ ∀ p, s.executor.state = .retract p → p = .leave ∨ p = .lift)
    (hh : s.executor.haltRequest = false ∨ s.executor.atRest = false)
    (ha : s.part.abortFlag = false ∨ s.executor.atRest = false)
    (hs : s.executor.state ≠ .stopping ∨ s.executor.speed ≠ 0) : settle s = s := by
  have hp : ∀ p, p ≠ .leave → p ≠ .lift → ¬ (s.executor.state = .retract p ∧ s.executor.stepDone = true) := by
    rintro p h1 h2 ⟨h3, h4⟩
    rcases hd with hd | hd
    · simp [hd] at h4
    · rcases hd p h3 with e | e <;> contradiction
  have h1 : endStandoffRetract s = s := if_neg (hp .standoff (by decide) (by decide))
  have h2 : takeHoldEntry s = s := by rcases hh with hh | hh <;> simp [takeHoldEntry, hh]
  have h3 : endAbortStop s = s := by
    have hn := hp .abort (by decide) (by decide)
    rcases ha with ha | ha
    · simp [endAbortStop, abortStopOver, ha]
    · have : (decide (s.executor.state = .retract .abort) && s.executor.stepDone) = false := by
        simpa [Bool.and_eq_false_iff] using hn
      simp [endAbortStop, abortStopOver, ha, this]
  have h4 : endRecover s = s := if_neg (hp .recover (by decide) (by decide))
  have h5 : governorEvaluate s = s := by simp [governorEvaluate, h.evalDue]
  have h6 : raiseBladeJam s = s := by simp [raiseBladeJam, h.jamDue]
  have h7 : takeLockTimeout s = s := by simp [takeLockTimeout, h.lock]
  have h8 : takeTrimTimeout s = s := by simp [takeTrimTimeout, h.trim]
  have h9 : takeDwellTimeout s = s := by simp [takeDwellTimeout, h.dwell]
  have h10 : raiseDriveLink s = s := by simp [raiseDriveLink, h.linkDue]
  have h11 : takeStopped s = s := by rcases hs with hs | hs <;> simp [takeStopped, hs]
  unfold settle
  rw [h1, h2, h3, h4, h5, h6, h7, h8, h9, h10, h11]

/-- With nothing left due by an earlier frame, and the Executor not in STOPPING, nothing is taken before the frame. -/
theorem settle_of_calm {s : State} (h : Calm s) (hs : s.executor.state ≠ .stopping) : settle s = s :=
  settle_of_quiet h.toQuiet (.inl h.stepDone) (.inl h.noHalt) (.inl h.noAbort) (.inl hs)

/-- Where nothing starts, the start of the frame does nothing. -/
theorem startFrame_of_none {s : State} (h : startOnce true s = none) : startFrame s = s := by
  unfold startFrame
  split
  · cases startFuel s with
    | zero => rfl
    | succ n => simp [startLoop, h]
  · rfl

/-- A record under way, with neither a halt nor an abort in progress, takes the frame: nothing starts. -/
theorem startOnce_of_busy {s : State} {c : Current} (hc : s.executor.current = some c) (hcc : c.complete = false)
    (h : Calm s) (hr : s.executor.reentering = false) (hs : ∀ b, s.executor.state ≠ .standoff b) :
    startOnce true s = none := by
  have hf : s.executor.free = false := by simp [Executor.free, hc, hcc]
  unfold startOnce
  split
  · rfl
  · rfl
  · rfl
  · rfl
  · rfl
  · rfl
  · rfl
  · rename_i hst; exact absurd hst (hs false)
  all_goals simp [h.noAbort, hr, h.stepDone, hf]

/-- The motion of the frame, and what the Part Controller and the Table Store then do, where neither has anything to
do. -/
theorem workFrame_of_busy {s : State} (h : startOnce true s = none) (hm : (motion s).executor.state ≠ .idle) :
    workFrame s = motion s := by
  unfold workFrame
  rw [startFrame_of_none h]
  have h1 : judgeParked (motion s) = motion s := by simp [judgeParked, hm]
  rw [h1]
  unfold commitBlade
  split
  · rfl
  · simp [bladeCommits, hm]

/-! ## From the end of the motion to the sending -/

@[simp] theorem countFrame_link (s : State) : (countFrame s).link = s.link := by
  unfold countFrame; split <;> [(split <;> rfl); rfl]
@[simp] theorem countFrame_tables (s : State) : (countFrame s).tables = s.tables := by
  unfold countFrame; split <;> [(split <;> rfl); rfl]
@[simp] theorem countFrame_planner (s : State) : (countFrame s).planner = s.planner := by
  unfold countFrame; split <;> [(split <;> rfl); rfl]
@[simp] theorem countFrame_executor (s : State) : (countFrame s).executor = s.executor := by
  unfold countFrame; split <;> [(split <;> rfl); rfl]
@[simp] theorem countFrame_port (s : State) : (countFrame s).port = s.port := by
  unfold countFrame; split <;> [(split <;> rfl); rfl]
@[simp] theorem countFrame_part (s : State) : (countFrame s).part = s.part := by
  unfold countFrame; split <;> [(split <;> rfl); rfl]
@[simp] theorem countFrame_report (s : State) : (countFrame s).report = s.report := by
  unfold countFrame; split <;> [(split <;> rfl); rfl]
@[simp] theorem countFrame_pending (s : State) : (countFrame s).pending = s.pending := by
  unfold countFrame; split <;> [(split <;> rfl); rfl]

@[simp] theorem judgePeriod_link (s : State) : (judgePeriod s).link = s.link := by
  unfold judgePeriod; split <;> [rfl; (split <;> rfl)]
@[simp] theorem judgePeriod_tables (s : State) : (judgePeriod s).tables = s.tables := by
  unfold judgePeriod; split <;> [rfl; (split <;> rfl)]
@[simp] theorem judgePeriod_planner (s : State) : (judgePeriod s).planner = s.planner := by
  unfold judgePeriod; split <;> [rfl; (split <;> rfl)]
@[simp] theorem judgePeriod_executor (s : State) : (judgePeriod s).executor = s.executor := by
  unfold judgePeriod; split <;> [rfl; (split <;> rfl)]
@[simp] theorem judgePeriod_governor (s : State) : (judgePeriod s).governor = s.governor := by
  unfold judgePeriod; split <;> [rfl; (split <;> rfl)]
@[simp] theorem judgePeriod_part (s : State) : (judgePeriod s).part = s.part := by
  unfold judgePeriod; split <;> [rfl; (split <;> rfl)]
@[simp] theorem judgePeriod_report (s : State) : (judgePeriod s).report = s.report := by
  unfold judgePeriod; split <;> [rfl; (split <;> rfl)]
@[simp] theorem judgePeriod_pending (s : State) : (judgePeriod s).pending = s.pending := by
  unfold judgePeriod; split <;> [rfl; (split <;> rfl)]

@[simp] theorem keepFrequency_executor (s : State) : (keepFrequency s).executor = s.executor := by
  unfold keepFrequency; split <;> rfl
@[simp] theorem keepFrequency_link (s : State) : (keepFrequency s).link = s.link := by
  unfold keepFrequency; split <;> rfl
@[simp] theorem keepFrequency_tables (s : State) : (keepFrequency s).tables = s.tables := by
  unfold keepFrequency; split <;> rfl
@[simp] theorem keepFrequency_planner (s : State) : (keepFrequency s).planner = s.planner := by
  unfold keepFrequency; split <;> rfl
@[simp] theorem keepFrequency_governor (s : State) : (keepFrequency s).governor = s.governor := by
  unfold keepFrequency; split <;> rfl
@[simp] theorem keepFrequency_port (s : State) : (keepFrequency s).port = s.port := by
  unfold keepFrequency; split <;> rfl
@[simp] theorem keepFrequency_part (s : State) : (keepFrequency s).part = s.part := by
  unfold keepFrequency; split <;> rfl
@[simp] theorem keepFrequency_report (s : State) : (keepFrequency s).report = s.report := by
  unfold keepFrequency; split <;> rfl
@[simp] theorem keepFrequency_pending (s : State) : (keepFrequency s).pending = s.pending := by
  unfold keepFrequency; split <;> rfl

/-- What the end of a frame leaves alone: everything but the kept frequency, the Port, the counts of the Load Governor,
the stamps of the spin-up and trim frames and the timers. -/
theorem closeFrame_keeps (s : State) :
    (closeFrame s).link = s.link ∧ (closeFrame s).tables = s.tables ∧ (closeFrame s).planner = s.planner ∧
    (closeFrame s).part = s.part ∧ (closeFrame s).report = s.report ∧ (closeFrame s).pending = s.pending ∧
    (closeFrame s).executor = { s.executor with
      spinupFrame := (stampFrames s).executor.spinupFrame
      trimFrame := (stampFrames s).executor.trimFrame
      lockTimer := s.executor.lockTimer.tick s.period
      trimTimer := s.executor.trimTimer.tick s.period
      dwellTimer := s.executor.dwellTimer.tick s.period } := by
  have hp : ∀ t : State, t.part = s.part → t.period = s.period := fun t h => by simp [State.period, h]
  have h1 : (sendSetpoint (frequency s) (stampFrames (keepFrequency s))).part = s.part := by
    simp [sendSetpoint, stampFrames]
  unfold closeFrame tickTimers
  rw [hp _ h1]
  simp [sendSetpoint, stampFrames]

/-- A frame that does not end in CUT at a speed above 0 leaves the Load Governor alone (R99). -/
theorem closeFrame_governor {s : State} (h : counted s.executor = false) : (closeFrame s).governor = s.governor := by
  have hc : counted (closeFrame s).executor = false := by
    rw [(closeFrame_keeps s).2.2.2.2.2.2]; exact h
  have : (closeFrame s) = countFrame (judgePeriod (tickTimers (sendSetpoint (frequency s) (stampFrames (keepFrequency s))))) := rfl
  rw [this] at hc ⊢
  rw [countFrame_executor] at hc
  unfold countFrame
  rw [if_neg (by rw [hc]; simp)]
  simp [tickTimers, sendSetpoint, stampFrames]

/-- FRAME of a configured part with its blade table present. -/
theorem execFrame_of_framing {b : BladeEntry} {r : Setup} {s : State} (h : Framing b r s) :
    exec .frame s = .next (runFrame s) := by
  show execFrame s = _
  simp [execFrame, h.running, h.sending, bladeMissing, h.blade]

/-- A worked frame that takes nothing before its own work, starts what leads from `s` to `u`, and does not come to IDLE,
is the motion of `u` and the close of the frame. -/
theorem execFrame_of_started {b : BladeEntry} {r : Setup} {s u : State} (h : Framing b r s) (hset : settle s = s)
    (hst : startFrame s = u) (hm : (motion u).executor.state ≠ .idle) :
    exec .frame s = .next (closeFrame (motion u)) := by
  rw [execFrame_of_framing h]
  unfold runFrame workFrame
  rw [hset, hst]
  have h1 : judgeParked (motion u) = motion u := by simp [judgeParked, hm]
  rw [h1]
  have h2 : commitBlade (motion u) = motion u := by
    unfold commitBlade
    split
    · rfl
    · simp [bladeCommits, hm]
  rw [h2]

/-- The close of a frame leaves the lines and the trim request alone. -/
theorem closeFrame_port_kept (s : State) :
    (closeFrame s).port.lines = s.port.lines ∧ (closeFrame s).port.trimRequest = s.port.trimRequest := by
  unfold closeFrame
  rw [countFrame_port]
  unfold judgePeriod
  split <;> [skip; split] <;> simp [tickTimers, sendSetpoint, stampFrames, keepFrequency] <;> split <;> exact ⟨rfl, rfl⟩

/-- The close of a frame counts it by the Executor's state at its end (R99). -/
theorem closeFrame_governor_eq (s : State) :
    (closeFrame s).governor = s.governor.afterFrame (counted s.executor) s.executor.ceiling := by
  have hc : (judgePeriod (tickTimers (sendSetpoint (frequency s) (stampFrames (keepFrequency s))))).executor =
      (closeFrame s).executor := by
    unfold closeFrame; simp
  have hg : (judgePeriod (tickTimers (sendSetpoint (frequency s) (stampFrames (keepFrequency s))))).governor =
      s.governor := by
    simp [tickTimers, sendSetpoint, stampFrames]
  have hk := (closeFrame_keeps s).2.2.2.2.2.2
  unfold closeFrame countFrame
  rw [hc, hk, hg]
  have e1 : counted ({ s.executor with
      spinupFrame := (stampFrames s).executor.spinupFrame
      trimFrame := (stampFrames s).executor.trimFrame
      lockTimer := s.executor.lockTimer.tick s.period
      trimTimer := s.executor.trimTimer.tick s.period
      dwellTimer := s.executor.dwellTimer.tick s.period } : Executor) = counted s.executor := rfl
  rw [e1]
  unfold Governor.afterFrame
  cases counted s.executor
  · simp only [if_pos, Bool.false_eq_true, if_false]; exact hg
  · simp only [if_true, Bool.true_eq_false, if_false]
    by_cases h : 16 ≤ s.governor.evalCount + 1
    · rw [if_pos h, if_neg (by omega)]; rfl
    · rw [if_neg h, if_pos (by omega)]; rfl

/-- Where the work of a frame has left alone what `FrameOnly` names, the close does too. -/
theorem closeFrame_frameOnly {s u : State} (h : FrameOnly s u) : FrameOnly s (closeFrame u) := by
  obtain ⟨k1, k2, k3, k4, k5, k6, k7⟩ := closeFrame_keeps u
  have kl := (closeFrame_port_kept u).1
  obtain ⟨h1, h2, h3, h4, h5, h6, h7, h8, h9, h10, h11⟩ := h
  constructor <;> simp_all

end Sys2Proof.Machine
end

