-- ==== Sys2Proof/Laws/Plan.lean ====
section
/-! SUPPORT. Planning changes the entry and exit speeds of CUTs and nothing else; the newest CUT keeps exit 0 (R71 to
R73). -/

namespace Sys2Proof.Machine

/-- A record with its plan taken out: a CUT's entry and exit are 0. -/
def Record.unplanned (r : Record) : Record :=
  match r.body with
  | .cut c => { r with body := .cut { c with entry := 0, exit := 0 } }
  | _ => r

theorem Record.unplanned_of_cut? {r : Record} (h : r.body.cut? = none) : r.unplanned = r := by
  unfold Record.unplanned
  split
  · simp_all [Body.cut?]
  · rfl

/-- A record that is no CUT is the only one with its own plan-free form. -/
theorem Record.eq_of_unplanned {r q : Record} (h : r.unplanned = q) (hq : q.body.cut? = none) : r = q := by
  unfold Record.unplanned at h
  split at h
  · subst h; simp [Body.cut?] at hq
  · exact h

theorem Record.unplanned_tag (r : Record) : r.unplanned.tag = r.tag := by
  unfold Record.unplanned; split <;> rfl

theorem Record.unplanned_actions (r : Record) : r.unplanned.actions = r.actions := by
  unfold Record.unplanned; split <;> rfl

theorem planBackward_unplanned (a : Nat) : ∀ l : List WindowEntry,
    (planBackward a l).1.map (fun w => w.record.unplanned) = l.map (fun w => w.record.unplanned)
  | [] => rfl
  | w :: rest => by
    unfold planBackward
    split
    · rename_i c hc
      rw [List.map_cons, List.map_cons, planBackward_unplanned a rest]
      simp [Record.unplanned, hc]
    · simp [planBackward_unplanned a rest]

theorem planForward_unplanned (a : Nat) : ∀ (l : List WindowEntry) (b : Nat),
    (planForward a b l).map (fun w => w.record.unplanned) = l.map (fun w => w.record.unplanned)
  | [], _ => rfl
  | w :: rest, b => by
    unfold planForward
    split
    · rename_i c hc
      rw [List.map_cons, List.map_cons, planForward_unplanned a rest]
      simp [Record.unplanned, hc]
    · simp [planForward_unplanned a rest]

/-- Replanning keeps every record but for entries and exits. -/
theorem Planner.replan_unplanned (a : Nat) (p : Planner) :
    (p.replan a).window.map (fun w => w.record.unplanned) = p.window.map (fun w => w.record.unplanned) := by
  unfold Planner.replan
  simp only [List.map_append, planForward_unplanned, planBackward_unplanned]
  rw [← List.map_append, List.take_append_drop]

/-- The window entry `w` with the CUT `c` in place of its body. -/
def WindowEntry.withCut (w : WindowEntry) (c : CutRecord) : WindowEntry :=
  { w with record := { w.record with body := .cut c } }

/-- The newest CUT leaves the backward pass with exit 0. -/
theorem planBackward_snoc (a : Nat) {w : WindowEntry} {c : CutRecord} (hc : w.record.body = .cut c) :
    ∀ l : List WindowEntry, ∃ l' e, e ≤ c.cap ∧
      (planBackward a (l ++ [w])).1 = l' ++ [w.withCut { c with entry := e, exit := 0 }]
  | [] => ⟨[], min c.cap (min w.junction (reach a 0 c.len)), Nat.min_le_left _ _,
      by simp [planBackward, hc, WindowEntry.withCut]⟩
  | v :: l => by
    obtain ⟨l', e, he, h⟩ := planBackward_snoc a hc l
    unfold planBackward
    simp only [List.cons_append]
    split
    · exact ⟨_ :: l', e, he, by rw [h]; rfl⟩
    · exact ⟨v :: l', e, he, by simp [h]⟩

/-- The forward pass only lowers the newest CUT's speeds. -/
theorem planForward_snoc (a : Nat) (w : WindowEntry) (c : CutRecord) :
    ∀ (l : List WindowEntry) (b : Nat), ∃ l' e x, e ≤ c.entry ∧ x ≤ c.exit ∧
      planForward a b (l ++ [w.withCut c]) = l' ++ [w.withCut { c with entry := e, exit := x }]
  | [], b => ⟨[], _, _, Nat.min_le_left _ b, Nat.min_le_left _ _, by simp [planForward, WindowEntry.withCut]; rfl⟩
  | v :: l, b => by
    unfold planForward
    simp only [List.cons_append]
    split
    · obtain ⟨l', e, x, h1, h2, h⟩ := planForward_snoc a w c l _
      exact ⟨_ :: l', e, x, h1, h2, by rw [h]; rfl⟩
    · obtain ⟨l', e, x, h1, h2, h⟩ := planForward_snoc a w c l b
      exact ⟨v :: l', e, x, h1, h2, by rw [h]; rfl⟩

/-- A CUT just appended, with entry and exit 0, keeps exit 0 and gets an entry within its cap. -/
theorem Planner.replan_snoc (a : Nat) {p : Planner} {l : List WindowEntry} {w : WindowEntry} {c : CutRecord}
    (hw : p.window = l ++ [w]) (hc : w.record.body = .cut c) (h0 : c.entry = 0) (hx : c.exit = 0) :
    ∃ l' e, e ≤ c.cap ∧ (p.replan a).window = l' ++ [w.withCut { c with entry := e, exit := 0 }] := by
  unfold Planner.replan
  simp only [hw]
  by_cases h : p.dueCount ≤ l.length
  · rw [List.drop_append_of_le_length h]
    obtain ⟨l1, e1, he1, h1⟩ := planBackward_snoc a hc (l.drop p.dueCount)
    rw [h1]
    obtain ⟨l2, e, x, he, hx', h2⟩ := planForward_snoc a w { c with entry := e1, exit := 0 } l1 p.boundary
    rw [h2]
    refine ⟨List.take p.dueCount (l ++ [w]) ++ l2, e, Nat.le_trans he he1, ?_⟩
    have : x = 0 := by simpa using hx'
    subst this
    simp
  · have hlen : (l ++ [w]).length ≤ p.dueCount := by simp; omega
    rw [List.take_of_length_le hlen, List.drop_of_length_le hlen]
    refine ⟨l, 0, by omega, ?_⟩
    have : w = w.withCut { c with entry := 0, exit := 0 } := by
      cases w with
      | mk rec j o => cases rec; simp at hc; subst hc; cases c; simp at h0 hx; simp [WindowEntry.withCut, h0, hx]
    simp [planForward, planBackward, ← this]

end Sys2Proof.Machine
end

