-- ==== Sys2Proof/Laws/Stream.lean ====
section
/-! SUPPORT. What each piece of taking a cut-program packet can do (Chapters 1 and 4). -/

namespace Sys2Proof.Machine

/-! ## A CUT joins the window -/

/-- A CUT just made joins the tail with exit 0 and an entry within its cap; the records before it keep all but their
plan. -/
theorem makeRecord_cut {tag : Tag} {c : CutRecord} {j : Nat} {o : Bool} {s : State} (h0 : c.entry = 0)
    (hx : c.exit = 0) : ∃ l e, e ≤ c.cap ∧ (makeRecord tag (.cut c) j o s).records =
      l ++ [⟨tag, s.planner.actions, .cut { c with entry := e, exit := 0 }⟩] ∧
      l.map Record.unplanned = s.records.map Record.unplanned := by
  unfold makeRecord appendRecord
  rw [releaseFull_records]
  simp only [joinWindow, State.records, startsWork_executor, startsWork_planner, State.setPlanner_executor,
    State.setPlanner_planner]
  generalize hw : (⟨⟨tag, s.planner.actions, .cut c⟩, j, o⟩ : WindowEntry) = w
  generalize hp : ({ s.planner with actions := [] } : Planner) = p
  have hbody : w.record.body = .cut c := by rw [← hw]
  have hwin : p.window = s.planner.window := by rw [← hp]
  generalize (startsWork (s.setPlanner p)).accel = a
  generalize (startsWork (s.setPlanner p)).tables.waiting.isSome = b
  unfold Planner.append
  rw [hbody]
  simp only
  generalize hp2 : ({ p with
        window := p.window ++ [w]
        memory := .inWindow c.heading c.cap
        boundary := if (lastCut (p.window.drop p.dueCount)).isNone then p.memory.boundary else p.boundary } :
          Planner) = p2
  have hwin2 : p2.window = s.planner.window ++ [w] := by rw [← hp2, hwin]
  obtain ⟨l, e, he, hl⟩ := Planner.replan_snoc a hwin2 hbody h0 hx
  have hu := Planner.replan_unplanned a p2
  rw [hl, hwin2] at hu
  simp only [List.map_append, List.map_cons, List.map_nil] at hu
  refine ⟨s.executor.queue ++ l.map fun w => w.record, e, he, ?_, ?_⟩
  · rw [hl, ← hw]; simp [WindowEntry.withCut]
  · have := List.append_inj_left' hu rfl
    simpa [Function.comp_def] using this

/-! ## Context updates -/

theorem setTrimDist_only (d : Nat) (s : State) : PlannerOnly s (setTrimDist d s) := by constructor <;> rfl
theorem fillFirst_eq (k : ContourRecord) (h : Nat) (s : State) :
    ∃ w, fillFirst k h s = s.setPlanner { s.planner with window := w } ∧ w.length = s.planner.window.length ∧
      (k.cutPlunge.isSome = true → w = s.planner.window) := by
  unfold fillFirst
  split
  · rename_i hk
    exact ⟨_, rfl, by simp [fillContour], fun h => by cases hq : k.cutPlunge <;> simp_all⟩
  · exact ⟨s.planner.window, rfl, rfl, fun _ => rfl⟩
theorem fillStab_eq (k : ContourRecord) (s : State) :
    ∃ w, fillStab k s = s.setPlanner { s.planner with window := w } ∧ w.length = s.planner.window.length ∧
      (k.cutPlunge.isSome = true → w = s.planner.window) := by
  unfold fillStab
  split
  · rename_i hk _
    exact ⟨_, rfl, by simp [fillContour], fun h => by simp [hk] at h⟩
  · exact ⟨s.planner.window, rfl, rfl, fun _ => rfl⟩

/-- Setting the window, or any other part of the Planner, is seen by no block behind it. -/
theorem setPlanner_only (s : State) (p : Planner) : PlannerOnly s (s.setPlanner p) := by constructor <;> rfl

theorem makePivot_frame (tag : Tag) (pv : Option PivotRecord) (s : State) : PlanFrame s (makePivot tag pv s) := by
  cases pv with
  | none => exact .rfl' s
  | some p => exact makeRecord_frame ..

theorem makePivot_records (tag : Tag) (pv : Option PivotRecord) (s : State) :
    (makePivot tag pv s).records = s.records ++
      (match pv with
       | some p => [⟨tag, s.planner.actions, .pivot p⟩]
       | none => []) := by
  cases pv with
  | none => simp [makePivot]
  | some p => exact makeRecord_records rfl

theorem makePivot_actions (tag : Tag) (pv : Option PivotRecord) (s : State) :
    (makePivot tag pv s).planner.actions = if pv.isSome then [] else s.planner.actions := by
  cases pv with
  | none => rfl
  | some p => simp [makePivot]

end Sys2Proof.Machine
end

