-- ==== Sys2Proof/Laws/Kept.lean ====
section
/-! SUPPORT. What the blocks behind the Planner do is built from a few updates; a property of states that each of these
keeps is kept by a frame, by every event and by every immediate packet. -/

namespace Sys2Proof.Machine

/-- The updates that the events and the work of a frame, up to its sending, are built from keep `P`. A number that an
update changes is within the bound the spec gives it; the update of one block need say nothing of the others. Of the
Drive Link Port such work changes only the lines, the trim request and a DRIVE-LINK that is due, which it takes. -/
structure Worked (P : State → Prop) : Prop where
  executor : ∀ s e, P s → e.queue.length ≤ s.executor.queue.length → P (s.setExecutor e)
  moment : ∀ s, P s → P (plannerMoment s)
  mark : ∀ s tag, P s → P (reportMark tag s)
  events : ∀ s e, P s → P (s.setReport { s.report with events := e })
  workPort : ∀ s p, P s →
    p = { s.port with lines := p.lines, trimRequest := p.trimRequest, linkDue := p.linkDue } →
    (p.linkDue = s.port.linkDue ∨ p.linkDue = false) → P (s.setPort p)
  governor : ∀ s g, P s → (g.operator = s.governor.operator ∨ (25 ≤ g.operator ∧ g.operator ≤ 100)) →
    (g.override = s.governor.override ∨ g.override = 100) →
    (g.evalCount = s.governor.evalCount ∨ g.evalCount ≤ 15) →
    (g.jamCount = s.governor.jamCount ∨ g.jamCount = 0) → P (s.setGovernor g)
  evaluate : ∀ s, P s → P (governorEvaluate s)
  keptFreq : ∀ s n, P s → P (s.setKeptFreq n)
  part : ∀ s p, P s → p.setup = s.part.setup → (p.state = s.part.state ∨ p.state ≠ .unconfigured) →
    (p.record.further = s.part.record.further ∨ p.record.further ≤ 255) → P (s.setPart p)
  commit : ∀ s, P s → P (commitBlade s)

/-- Beside what `Worked` asks, the updates of the sending, of return frames and of immediate packets keep `P`. -/
structure Kept (P : State → Prop) : Prop extends Worked P where
  port : ∀ s p, P s → (p.missed = s.port.missed ∨ p.missed ≤ 255) →
    (p.held.load = s.port.held.load ∨ p.held.load ≤ 250) →
    (p.held.heading = s.port.held.heading ∨ p.held.heading < 36000) → P (s.setPort p)
  link : ∀ s l, P s → l.intake.length ≤ s.link.intake.length → P (s.setLink l)
  abandon : ∀ s, P s → P (abandonLoad s)
  cleared : ∀ s d, P s → P (s.setPlanner (Planner.cleared d))
  stabs : ∀ s h, P s → P (s.setPlanner { s.planner with window := fillStabs h s.planner.window })

namespace Worked

variable {P : State → Prop} (k : Worked P)
include k

/-! ### Single operations -/

theorem exec_same {s : State} {e : Executor} (h : P s) (hq : e.queue = s.executor.queue) : P (s.setExecutor e) :=
  k.executor s e h (by rw [hq])

theorem actions {s : State} (as : List Action) (h : P s) : P (performActions s as) :=
  performActions_induct (P := P) (fun s a hs => by
    cases a with
    | mark tag => exact k.mark s tag hs
    | aux tag mask values => exact k.workPort s _ hs rfl (.inl rfl)) as s h

theorem partState {s : State} (p : PartState) (h : P s) (hp : p ≠ .unconfigured) : P (s.setPartState p) :=
  k.part s _ h rfl (.inr hp) (.inl rfl)

/-- A fault, first cause or further. -/
theorem fault {s : State} (c : FaultCode) (h : P s) : P (raiseFault c s) := by
  rcases raiseFault_cases c s with ⟨-, e⟩ | ⟨-, e⟩ | ⟨-, e⟩
  · rw [e]; exact h
  · rw [e]; exact k.part s _ h rfl (.inl rfl) (.inr (Nat.min_le_left _ _))
  · rw [e]
    have h1 := k.part s { s.part with
        state := .fault
        record := { cause := some c, tag := s.executor.currentTag, position := s.executor.position, further := 0 }
        abortFlag := false } h rfl (.inr (by simp)) (.inr (Nat.zero_le _))
    have h2 := k.workPort _ { s.port with lines := s.port.lines &&& ~~~s.port.dropMask, trimRequest := false } h1
      rfl (.inl rfl)
    have h3 := k.exec_same h2 (e := s.executor.faultStop) rfl
    exact k.events _ _ h3

end Worked

/-! ## The execution queue only loses records to the Executor -/

@[simp] theorem Executor.completeCurrent_queue (e : Executor) : e.completeCurrent.queue = e.queue := rfl
@[simp] theorem Executor.completeStep_queue (e : Executor) : e.completeStep.queue = e.queue := rfl
@[simp] theorem Executor.enterIdle_queue (e : Executor) : e.enterIdle.queue = e.queue := rfl
@[simp] theorem Executor.faultStop_queue (e : Executor) : e.faultStop.queue = e.queue := rfl
@[simp] theorem Executor.finishStep_queue (e : Executor) : e.finishStep.queue = e.queue := by
  unfold Executor.finishStep
  split
  · rfl
  · split <;> first | rfl | (split <;> rfl) | (split <;> [(split <;> [(split <;> rfl); rfl]); rfl])
@[simp] theorem Executor.startZ_queue (e : Executor) (st : ExecState) (t v : Nat) : (e.startZ st t v).queue = e.queue := by
  unfold Executor.startZ; split <;> simp
@[simp] theorem Executor.startRetract_queue (e : Executor) (p : Purpose) (t v : Nat) :
    (e.startRetract p t v).queue = e.queue := by simp [Executor.startRetract]
@[simp] theorem Executor.startTurn_queue (e : Executor) (st : ExecState) (r : Int) :
    (e.startTurn st r).queue = e.queue := by
  unfold Executor.startTurn
  dsimp only
  split <;> simp
@[simp] theorem Executor.place_queue (lead : Nat) (e : Executor) : (e.place lead).queue = e.queue := by
  unfold Executor.place
  split
  · split <;> rfl
  · rfl
@[simp] theorem Executor.turnFrame_queue (rate t : Nat) (e : Executor) : (e.turnFrame rate t).queue = e.queue := by
  unfold Executor.turnFrame; split <;> rfl

namespace Worked

variable {P : State → Prop} (k : Worked P)
include k

/-! ### Steps of the Executor -/

theorem startSpinup {s : State} (v : Nat) (h : P s) : P (startSpinup v s) := k.exec_same h rfl

theorem startReentry {s : State} (h : P s) : P (startReentry s) := k.startSpinup _ (k.exec_same h rfl)

theorem startTrim {s : State} (h : P s) : P (startTrim s) :=
  k.exec_same (k.workPort s _ h rfl (.inl rfl)) rfl

theorem startLiftPlunge {s : State} (h : P s) : P (startLiftPlunge s) := k.exec_same h (by simp)

theorem takeLock {s : State} (h : P s) : P (takeLock s) := k.exec_same h rfl

theorem takeTrimDone {s : State} (h : P s) : P (takeTrimDone s) := by
  have h1 : P ((s.setPort { s.port with trimRequest := false }).setExecutor
      { s.executor with trimTimer := .stopped }) :=
    k.exec_same (k.workPort s _ h rfl (.inl rfl)) rfl
  unfold Machine.takeTrimDone
  dsimp only
  split
  · split
    · exact k.startLiftPlunge h1
    · exact k.exec_same h1 rfl
  · exact k.exec_same h1 rfl

theorem takeDwellExpiry {s : State} (h : P s) : P (takeDwellExpiry s) := k.exec_same h rfl

theorem beginStandoffRetract {s : State} (h : P s) : P (beginStandoffRetract s) := k.exec_same h (by simp)

theorem beginAbortRetract {s : State} (h : P s) : P (beginAbortRetract s) := k.exec_same h (by simp)

theorem expireAtStart {s : State} (h : P s) : P (expireAtStart s) := by
  unfold Machine.expireAtStart
  split
  · exact k.beginStandoffRetract (k.takeDwellExpiry h)
  · exact h

theorem enterDwell {s : State} (h : P s) : P (enterDwell s) := k.expireAtStart (k.exec_same h rfl)

theorem enterRest {s : State} (h : P s) : P (enterRest s) := by
  unfold Machine.enterRest
  split
  · exact k.enterDwell h
  · exact k.exec_same h rfl

theorem enterHold {s : State} (h : P s) : P (enterHold s) := by
  unfold Machine.enterHold
  dsimp only
  split
  · exact k.beginStandoffRetract (k.exec_same h rfl)
  · split
    · exact k.expireAtStart (k.exec_same h rfl)
    · exact k.exec_same h rfl

theorem judgeParked {s : State} (h : P s) : P (judgeParked s) := by
  unfold Machine.judgeParked
  split
  · exact k.partState _ h (by simp)
  · exact h

/-! ### The start of a frame -/

theorem beginRecord {r : Record} {rest : List Record} {s : State} (h : P s)
    (hq : rest.length ≤ s.executor.queue.length) : P (beginRecord r rest s) :=
  k.moment _ (k.actions _ (k.executor _ _ h hq))

theorem startBlock {s : State} (top clear : Nat) (dry : Bool) (h : P s) : P (startBlock top clear dry s) := by
  unfold Machine.startBlock
  dsimp only
  refine k.exec_same (k.governor s _ h (.inl rfl) (.inr rfl) (.inr (Nat.zero_le _)) (.inr rfl)) ?_
  split <;> simp

theorem startTravel {s : State} (x y : Int) (hd : Option Nat) (h : P s) : P (startTravel x y hd s) := by
  unfold Machine.startTravel
  split
  · refine k.exec_same h ?_
    split <;> rfl
  · exact h

theorem startPivot {s : State} (tag : Tag) (p : PivotRecord) (h : P s) : P (startPivot tag p s) := by
  have h1 : P (if p.forced then raiseTrimForced tag s else s) := by
    split
    · exact k.events s _ h
    · exact h
  unfold Machine.startPivot
  dsimp only
  generalize (if p.forced then raiseTrimForced tag s else s) = u at h1
  split
  · exact k.exec_same h1 (by simp)
  · split
    · exact k.exec_same h1 (by simp)
    · exact k.exec_same h1 (by simp)

theorem startWork {s : State} (r : Record) (h : P s) : P (startWork r s) := by
  unfold Machine.startWork
  split
  · exact k.startBlock _ _ _ h
  · exact k.startTravel _ _ _ h
  · split
    · exact k.exec_same h rfl
    · exact k.startSpinup _ h
  · exact k.exec_same h rfl
  · exact k.startPivot _ _ h
  · exact k.exec_same h (by simp)
  · exact k.exec_same h rfl
  · exact k.events _ _ (k.exec_same h rfl)

theorem nextStep {s : State} (h : P s) : P (nextStep s) := by
  unfold Machine.nextStep
  split
  · exact k.startTrim h
  · split
    · exact k.exec_same h (by simp)
    · exact k.exec_same h rfl
  · split
    · split
      · exact k.startTrim h
      · exact k.startLiftPlunge h
    · exact k.exec_same h rfl
  · exact k.exec_same h rfl

theorem endReentry {s : State} (h : P s) : P (endReentry s) := by
  unfold Machine.endReentry
  split <;> exact k.exec_same h rfl

theorem startNext {first : Bool} {s t : State} (h : P s) (ht : startNext first s = some t) : P t := by
  unfold Machine.startNext at ht
  split at ht
  · cases ht
  · split at ht
    · cases ht; exact k.beginStandoffRetract h
    · split at ht
      · split at ht <;> cases ht; exact k.enterRest h
      · split at ht <;> cases ht; exact k.enterRest h
      · cases ht
      · split at ht <;> cases ht; exact k.enterRest h
      · rename_i r rest _ hq _
        have hlen : rest.length ≤ s.executor.queue.length := by rw [hq]; simp
        split at ht
        · cases ht; exact k.startReentry h
        · cases ht; exact k.startReentry h
        · cases ht; exact k.exec_same (k.beginRecord h hlen) rfl
        · cases ht; exact k.startWork _ (k.beginRecord h hlen)
      · rename_i r rest hq _
        have hlen : rest.length ≤ s.executor.queue.length := by rw [hq]; simp
        cases ht; exact k.startWork _ (k.beginRecord h hlen)

theorem startAbort {s t : State} (h : P s) (ht : startAbort s = some t) : P t := by
  unfold Machine.startAbort at ht
  split at ht
  · split at ht
    · cases ht; exact k.beginAbortRetract h
    · cases ht
  · split at ht
    · cases ht; exact k.nextStep h
    · cases ht

theorem startOnce {first : Bool} {s t : State} (h : P s) (ht : startOnce first s = some t) : P t := by
  have main : ∀ {t : State}, (if s.part.abortFlag then Machine.startAbort s
      else if s.executor.reentering then
        (if s.executor.stepDone && !s.executor.haltRequest then some (Machine.endReentry s) else none)
      else if s.executor.stepDone then some (Machine.nextStep s)
      else if s.executor.free then Machine.startNext first s
      else none) = some t → P t := by
    intro t ht
    split at ht
    · exact k.startAbort h ht
    · split at ht
      · split at ht <;> cases ht; exact k.endReentry h
      · split at ht
        · cases ht; exact k.nextStep h
        · split at ht
          · exact k.startNext h ht
          · cases ht
  unfold Machine.startOnce at ht
  split at ht
  all_goals first | (cases ht) | exact main ht | skip
  all_goals
    split at ht
    · exact k.startAbort h ht
    · split at ht
      · exact k.startNext h ht
      · split at ht <;> cases ht; exact k.startReentry h

theorem startLoop (n : Nat) : ∀ {first : Bool} {s : State}, P s → P (startLoop n first s) := by
  induction n with
  | zero => exact fun h => h
  | succ n ih =>
    intro first s h
    unfold Machine.startLoop
    split
    · rename_i t ht; exact ih (k.startOnce h ht)
    · exact h

theorem startFrame {s : State} (h : P s) : P (startFrame s) := by
  unfold Machine.startFrame
  split
  · exact k.startLoop _ h
  · exact h

/-! ### The motion of a frame -/

theorem carryActions {r : Record} {rest : List Record} {s : State} (h : P s)
    (hq : rest.length ≤ s.executor.queue.length) : P (carryActions r rest s) := by
  have h1 : P (s.setExecutor (s.executor.pop r rest)) := k.executor _ _ h hq
  unfold Machine.carryActions
  dsimp only
  split
  · exact h1
  · exact k.moment _ (k.actions _ h1)

theorem carryCut {r : Record} {c : CutRecord} {rest : List Record} {d v : Nat} {s : State} (h : P s)
    (hq : rest.length ≤ s.executor.queue.length) : P (carryCut r c rest d v s) := by
  unfold Machine.carryCut
  dsimp only
  split
  · exact k.executor _ _ h hq
  · exact k.moment _ (k.actions _ (k.executor _ _ h hq))

theorem carry (n : Nat) : ∀ {exit excess speed : Nat} {s : State}, P s → P (carry n exit excess speed s) := by
  induction n with
  | zero => exact fun h => k.exec_same h rfl
  | succ n ih =>
    intro exit excess speed s h
    unfold Machine.carry
    split
    · exact k.exec_same h rfl
    · split
      · exact k.exec_same h rfl
      · rename_i r rest hq
        have hlen : rest.length ≤ s.executor.queue.length := by rw [hq]; simp
        split
        · exact ih (k.carryActions h hlen)
        · split
          · exact ih (k.carryCut h hlen)
          · exact k.carryCut h hlen
        · exact k.exec_same h rfl

theorem pathFrame {s : State} (c : Current) (h : P s) : P (pathFrame c s) := by
  have h1 : P (advance (newSpeed s c) c s) := by
    unfold advance
    dsimp only
    split
    · exact k.exec_same h rfl
    · exact k.carry _ h
  exact k.exec_same h1 (by simp)

theorem travelFrame {s : State} (c : Current) (h : P s) : P (travelFrame c s) := by
  have h1 : P (if c.dist < c.len then Machine.pathFrame c s else s) := by
    split
    · exact k.pathFrame c h
    · exact h
  exact k.exec_same h1 (by simp)

theorem zFrame {s : State} (h : P s) : P (zFrame s) := by
  unfold Machine.zFrame
  split
  · refine k.exec_same h ?_
    split <;> simp
  · exact h

theorem turnStep {s : State} (rate : Nat) (h : P s) : P (turnStep rate s) := by
  refine k.exec_same h ?_
  split <;> simp

theorem motion {s : State} (h : P s) : P (motion s) := by
  unfold Machine.motion
  split
  case h_1 =>
    unfold travelState
    split
    · split
      · exact h
      · split
        · exact k.travelFrame _ h
        · exact k.zFrame h
    · exact h
  case h_2 | h_3 =>
    unfold pathState
    split
    · split
      · exact h
      · exact k.pathFrame _ h
    · exact h
  case h_4 | h_5 => exact k.zFrame h
  case h_6 | h_7 => exact k.turnStep _ h
  all_goals exact h

/-! ### What a frame leaves due -/

theorem raiseDriveLink {s : State} (h : P s) : P (raiseDriveLink s) := by
  unfold Machine.raiseDriveLink
  split
  · exact k.fault _ (k.workPort s _ h rfl (.inr rfl))
  · exact h

theorem raiseBladeJam {s : State} (h : P s) : P (raiseBladeJam s) := by
  unfold Machine.raiseBladeJam
  split
  · exact k.fault _ (k.governor s _ h (.inl rfl) (.inl rfl) (.inl rfl) (.inl rfl))
  · exact h

theorem takeLockTimeout {s : State} (h : P s) : P (takeLockTimeout s) := by
  unfold Machine.takeLockTimeout
  split
  · exact k.fault _ (k.exec_same h rfl)
  · exact h

theorem takeTrimTimeout {s : State} (h : P s) : P (takeTrimTimeout s) := by
  unfold Machine.takeTrimTimeout
  split
  · exact k.fault _ (k.exec_same h rfl)
  · exact h

theorem takeDwellTimeout {s : State} (h : P s) : P (takeDwellTimeout s) := by
  unfold Machine.takeDwellTimeout
  split
  · split
    case h_1 => exact k.exec_same (k.takeDwellExpiry h) rfl
    case h_2 => exact k.beginStandoffRetract (k.takeDwellExpiry h)
    all_goals exact h
  · exact h

theorem endStandoffRetract {s : State} (h : P s) : P (endStandoffRetract s) := by
  unfold Machine.endStandoffRetract
  split
  · exact k.events _ _ (k.exec_same h rfl)
  · exact h

theorem takeHoldEntry {s : State} (h : P s) : P (takeHoldEntry s) := by
  unfold Machine.takeHoldEntry
  split
  · exact k.enterHold h
  · exact h

theorem endAbortStop {s : State} (h : P s) : P (endAbortStop s) := by
  unfold Machine.endAbortStop
  split
  · exact k.commit _ (k.part _ _ (k.exec_same h rfl) rfl (.inr (by simp)) (.inl rfl))
  · exact h

theorem takeStopped {s : State} (h : P s) : P (takeStopped s) := by
  unfold Machine.takeStopped
  split
  · exact k.exec_same h rfl
  · exact h

theorem endRecover {s : State} (h : P s) : P (endRecover s) := by
  unfold Machine.endRecover
  split
  · exact k.commit _ (k.partState _ (k.exec_same h rfl) (by simp))
  · exact h

theorem settle {s : State} (h : P s) : P (settle s) :=
  k.takeStopped (k.raiseDriveLink (k.takeDwellTimeout (k.takeTrimTimeout (k.takeLockTimeout (k.raiseBladeJam
    (k.evaluate _ (k.endRecover (k.endAbortStop (k.takeHoldEntry (k.endStandoffRetract h))))))))))

theorem workFrame {s : State} (h : P s) : P (workFrame s) := k.commit _ (k.judgeParked (k.motion (k.startFrame h)))

end Worked

namespace Kept

variable {P : State → Prop} (k : Kept P)
include k

/-! ### A whole frame -/

theorem countFrame {s : State} (h : P s) : P (countFrame s) := by
  unfold Machine.countFrame
  split
  · split
    · exact k.governor s _ h (.inl rfl) (.inl rfl) (.inr (Nat.zero_le _)) (.inl rfl)
    · exact k.governor s _ h (.inl rfl) (.inl rfl) (.inr (by simp; omega)) (.inl rfl)
  · exact h

theorem judgePeriod {s : State} (h : P s) : P (judgePeriod s) := by
  unfold Machine.judgePeriod
  split
  · exact k.port s _ h (.inl rfl) (.inl rfl) (.inl rfl)
  · split
    · exact k.port s _ h (.inl rfl) (.inl rfl) (.inl rfl)
    · exact k.port s _ h (.inr (Nat.min_le_left _ _)) (.inl rfl) (.inl rfl)

theorem closeFrame {s : State} (h : P s) : P (closeFrame s) := by
  have h1 : P (keepFrequency s) := by
    unfold keepFrequency
    split
    · exact h
    · exact k.keptFreq s _ h
  exact k.countFrame (k.judgePeriod (k.exec_same (k.port _ _ (k.exec_same h1 rfl) (.inl rfl) (.inl rfl) (.inl rfl)) rfl))

theorem runFrame {s : State} (h : P s) : P (runFrame s) := k.closeFrame (k.workFrame (k.settle h))

/-! ### Return frames -/

theorem adopt {s : State} (h : P s) : P (adopt s) := by
  unfold Machine.adopt
  split
  · exact h
  · exact k.moment _ (k.stabs _ _ (k.exec_same h rfl))

theorem receiveReturn {s : State} {v : Held} (hl : v.load ≤ 250) (hh : v.heading < 36000) (h : P s) :
    P (receiveReturn v s) := by
  have h1 : P (s.setPort { s.port with held := v, received := true, missed := 0 }) :=
    k.port s _ h (.inr (Nat.zero_le _)) (.inr hl) (.inr hh)
  have h2 : ∀ {u : State}, P u → P (judgeLock u) := by
    intro u hu
    unfold judgeLock
    split
    · split
      · exact k.takeLock hu
      · exact hu
    · exact hu
  have h3 : ∀ {u : State}, P u → P (judgeTrimDone u) := by
    intro u hu
    unfold judgeTrimDone
    split
    · split
      · exact k.takeTrimDone hu
      · exact hu
    · exact hu
  unfold Machine.receiveReturn
  dsimp only
  split
  · exact k.fault _ (k.adopt (h3 (h2 h1)))
  · exact k.adopt (h3 (h2 h1))

theorem receiveDrive (lane : List Byte) : ∀ {s : State}, P s → P (receiveDrive lane s) := by
  have rx : ∀ (s : State) (r : DriveReception), P s → P (s.setPort { s.port with rx := r }) :=
    fun s r h => k.port s _ h (.inl rfl) (.inl rfl) (.inl rfl)
  have one : ∀ (s : State) (b : Byte), P s → P (driveByte s b) := by
    intro s b h
    unfold driveByte
    split
    · split
      · exact rx s _ h
      · exact rx s _ h
    · split
      · unfold judgeReturn
        split
        · refine k.receiveReturn (Nat.min_le_left _ _) (Nat.mod_lt _ (by decide)) (rx s _ h)
        · exact rx s _ h
      · exact rx s _ h
  induction lane with
  | nil => exact fun h => h
  | cons b rest ih => exact fun h => ih (one _ b h)

/-! ### Owners of immediate packets -/

theorem ownOverride (v : Byte) {s : State} (h : P s) : P (ownOverride v s).1 :=
  k.governor s _ h (.inr (by simp [clampOverride])) (.inl rfl) (.inl rfl) (.inl rfl)

theorem ownHalt {s : State} (h : P s) : P (ownHalt s).1 := by
  unfold Machine.ownHalt
  split
  · exact h
  · split
    · exact h
    · unfold setHalt
      dsimp only
      split
      · exact k.enterHold (k.exec_same h rfl)
      · exact k.exec_same h rfl

theorem ownResume {s : State} (h : P s) : P (ownResume s).1 := by
  have path : ∀ st : ExecState, P (resumePath st s) := fun st => k.exec_same h rfl
  have idle : P (resumeIdle s) := k.commit _ (k.judgeParked (k.exec_same h rfl))
  have dwell : P (resumeDwell s) := by
    unfold resumeDwell
    split
    · exact k.enterDwell h
    · exact k.exec_same h rfl
  have hold : P (resumeHold s) := by
    unfold resumeHold
    split
    · split
      · exact path _
      · exact path _
      · exact idle
    · split
      · exact dwell
      · exact idle
  unfold Machine.ownResume
  split
  · exact h
  · split
    case h_1 => exact hold
    case h_2 | h_3 => exact k.exec_same h rfl
    all_goals exact h

theorem ownAbort {s : State} (h : P s) : P (ownAbort s).1 := by
  have clear : P (clearForAbort s) := by
    unfold clearForAbort
    dsimp only
    refine k.executor _ _ (k.cleared _ _ (k.part _ _ (k.abandon _ (k.link s _ h (Nat.zero_le _))) rfl (.inl rfl)
      (.inl rfl))) (Nat.zero_le _)
  have act : P (actAbort s) := by
    unfold actAbort
    dsimp only
    split
    · exact k.beginAbortRetract clear
    · exact k.endAbortStop clear
  unfold Machine.ownAbort
  split
  · split
    · exact h
    · exact act
  all_goals exact h

theorem ownClearFault {s : State} (h : P s) : P (ownClearFault s).1 := by
  have clear : P (clearForRecovery s) := by
    unfold clearForRecovery
    dsimp only
    exact k.port _ _ (k.executor _ _ (k.cleared _ _ (k.part _ _ (k.abandon _ (k.link s _ h (Nat.zero_le _))) rfl
      (.inr (by simp)) (.inr (Nat.zero_le _)))) (Nat.zero_le _)) (.inr (Nat.zero_le _)) (.inl rfl) (.inl rfl)
  unfold Machine.ownClearFault
  split
  · exact h
  · split
    · exact h
    · split
      · exact h
      · unfold beginRecover
        split
        · exact k.endRecover (k.exec_same clear (by simp))
        · exact k.commit _ (k.partState _ (k.exec_same clear rfl) (by simp))

end Kept

/-! ## What the work of a frame leaves of the Drive Link Port -/

/-- Every property of the fields of the Port that the work does not change is kept by it. -/
theorem worked_port (p0 : Port) : Worked fun s =>
    s.port = { p0 with lines := s.port.lines, trimRequest := s.port.trimRequest, linkDue := s.port.linkDue } where
  executor _ _ h _ := h
  moment s h := by rw [(plannerMoment_frame s).only.port]; exact h
  mark s tag h := by simpa using h
  events _ _ h := h
  workPort s p h hp _ := by
    simp only [State.setPort_port]
    rw [hp, h]
  governor _ _ h _ _ _ _ := h
  evaluate s h := by
    unfold governorEvaluate
    split
    · exact h
    · dsimp only
      split <;> exact h
  keptFreq _ _ h := h
  part _ _ h _ _ _ := h
  commit s h := by simpa using h

/-- A DRIVE-LINK that is not due does not fall due in the work of a frame. -/
theorem worked_linkDue : Worked fun s => s.port.linkDue = false where
  executor _ _ h _ := h
  moment s h := by rw [(plannerMoment_frame s).only.port]; exact h
  mark s tag h := by simpa using h
  events _ _ h := h
  workPort s p h _ hd := by
    rcases hd with hd | hd
    · exact hd.trans h
    · exact hd
  governor _ _ h _ _ _ _ := h
  evaluate s h := by
    unfold governorEvaluate
    split
    · exact h
    · dsimp only
      split <;> exact h
  keptFreq _ _ h := h
  part _ _ h _ _ _ := h
  commit s h := by simpa using h

/-- Up to its sending a frame changes of the Port the lines, the trim request and a DRIVE-LINK that was due, and leaves
none due (R137). -/
theorem workFrame_settle_port (s : State) :
    (workFrame (settle s)).port = { s.port with
      lines := (workFrame (settle s)).port.lines
      trimRequest := (workFrame (settle s)).port.trimRequest
      linkDue := false } := by
  have h1 := (worked_port s.port).workFrame ((worked_port s.port).settle (s := s) rfl)
  have h2 : (settle s).port.linkDue = false := by
    refine worked_linkDue.takeStopped ?_
    unfold raiseDriveLink
    split
    · exact worked_linkDue.fault _ rfl
    · rename_i h; simpa using h
  rw [worked_linkDue.workFrame h2] at h1
  exact h1

end Sys2Proof.Machine
end

