-- ==== Sys2Proof/Laws/KeptAll.lean ====
section
/-! SUPPORT. A property that every single update keeps is kept by every command (the whole of exec). -/

namespace Sys2Proof.Machine

/-- What `f` keeps is kept outside reset and in it. -/
theorem unlessReset_keeps {P : State → Prop} {s : State} (f : State → State) (hf : P s → P (f s)) (h : P s) :
    P (unlessReset s f) := by
  unfold unlessReset
  split
  · exact h
  · exact hf h

/-- Beside what `Kept` asks, every update of the Planner, the links and the Report Unit keeps `P`. -/
structure KeptAll (P : State → Prop) : Prop extends Kept P where
  record : ∀ s tag body j o, P s → P (makeRecord tag body j o s)
  acts : ∀ s, P s → P (makeActions s)
  planner : ∀ s p, P s → P (s.setPlanner p)
  load : ∀ s l, P s → P (s.setTables { s.tables with load := l })
  post : ∀ s r, P s → P (postResponse r s)
  report : ∀ s r, P s → P (s.setReport r)
  close : ∀ s r p, P s → P (dealTableClose r p s)
  intake : ∀ s l, P s → P (s.setLink l)
  setup : ∀ s f, P s → P (ownSetup f s).1

namespace KeptAll
variable {P : State → Prop} (k : KeptAll P)
include k

theorem refuse {s : State} (p : Packet) (r : Reason) (d : List Byte) (h : P s) : P (refusePacket p r d s) := by
  unfold refusePacket; dsimp only; split
  · exact k.fault _ (k.post _ _ h)
  · exact k.post _ _ h

theorem taking {s : State} (kind : Byte) (deal : Setup → Packet → State → State)
    (hd : ∀ r p s, P s → P (deal r p s)) (h : P s) : P (takeAndDeal kind deal s) := by
  unfold takeAndDeal takePacket
  split
  · rename_i r p s1 heq
    split at heq
    · split at heq
      · cases heq
        exact k.moment _ (hd _ _ _ (k.intake _ _ h))
      · cases heq
    · cases heq
  · exact h

theorem trying {s t : State} (kind : Byte) (deal : Setup → Packet → State → Except Fault State)
    (hd : ∀ r p s u, P s → deal r p s = .ok u → P u) (h : P s) (ht : takeAndTry kind deal s = .next t) : P t := by
  unfold takeAndTry takePacket at ht
  split at ht
  · cases ht; exact h
  · split at ht
    · cases ht; exact h
    · rename_i r p s1 heq
      split at heq
      · split at heq
        · cases heq
          split at ht
          · rename_i s2 hs2
            cases ht
            exact k.moment _ (hd _ _ _ _ (k.intake _ _ h) hs2)
          · cases ht
        · cases heq
      · cases heq

theorem hand {s : State} (kind : Byte) (tag : Tag) (o : State → State × Reply) (ho : ∀ s, P s → P (o s).1)
    (h : P s) : P (handImmediate kind tag o s) := by
  rcases handImmediate_cases kind tag o s with ⟨-, -, e⟩ | ⟨-, -, e⟩ | ⟨-, -, e⟩
  · rw [e]; exact k.post _ _ h
  · rw [e]; exact k.report _ _ (ho _ (k.report _ _ h))
  · rw [e]; exact k.report _ _ h

theorem dBlock (r p s) (h : P s) : P (dealBlock r p s) := by
  unfold dealBlock; split
  · exact k.refuse _ _ _ h
  · unfold openBlock enterBlock
    refine k.planner _ _ ?_
    unfold runPart; split
    · exact k.partState _ (k.record _ _ _ _ _ h) (by simp)
    · exact k.record _ _ _ _ _ h

theorem dContour (r p s u) (h : P s) (hu : dealContour r p s = .ok u) : P u := by
  unfold dealContour at hu
  split at hu
  · split at hu
    · cases hu; exact k.refuse _ _ _ h
    · split at hu
      · cases hu
        exact k.planner _ _ (k.record _ _ _ _ _ (k.record _ _ _ _ _ h))
      · cases hu
  · cases hu; exact k.refuse _ _ _ h

theorem dCut (r p s u) (h : P s) (hu : dealCut r p s = .ok u) : P u := by
  unfold dealCut at hu
  split at hu
  · split at hu
    · cases hu; exact k.refuse _ _ _ h
    · split at hu
      · cases hu; exact h
      · split at hu
        · cases hu
        · split at hu
          · cases hu
          · cases hu
            unfold makeCut
            refine k.planner _ _ (k.record _ _ _ _ _ ?_)
            have h1 : ∀ d, P (setTrimDist d s) := fun d => k.planner _ _ h
            have h2 : ∀ tag pv d, P (makePivot tag pv (setTrimDist d s)) := by
              intro tag pv d; unfold makePivot; split
              · exact k.record _ _ _ _ _ (h1 d)
              · exact h1 d
            unfold fillFirst; split
            · exact k.planner _ _ (h2 _ _ _)
            · exact h2 _ _ _
  · cases hu; exact k.refuse _ _ _ h

theorem dClose (r p s u) (h : P s) (hu : dealClose r p s = .ok u) : P u := by
  unfold dealClose at hu
  split at hu
  · split at hu
    · cases hu
      unfold closeContour
      refine k.planner _ _ (k.record _ _ _ _ _ (k.planner _ _ ?_))
      unfold fillStab; split
      · exact k.planner _ _ h
      · exact h
    · cases hu
  · cases hu; exact k.refuse _ _ _ h

theorem dBlockEnd (r p s) (h : P s) : P (dealBlockEnd r p s) := by
  unfold dealBlockEnd; split
  · exact k.planner _ _ (k.record _ _ _ _ _ h)
  · exact k.refuse _ _ _ h

theorem dAct (a s) (h : P s) : P (addAction a s) := by
  unfold addAction; refine k.planner _ _ ?_; split
  · exact k.acts _ h
  · exact h

theorem dOpen (r p s) (h : P s) : P (dealTableOpen r p s) := by
  unfold dealTableOpen; split
  · exact k.refuse _ _ _ h
  · split
    · exact k.load _ _ h
    · exact k.refuse _ _ _ h

theorem dData (r p s) (h : P s) : P (dealTableData r p s) := by
  unfold dealTableData; split
  · exact k.refuse _ _ _ h
  · split
    · exact h
    · exact k.load _ _ h

theorem owner (kind payload) (s) (h : P s) : P (ownerOf kind payload s).1 := by
  unfold ownerOf
  repeat' split
  · exact k.setup _ _ h
  · exact h
  · exact k.ownOverride _ h
  · exact k.ownHalt h
  · exact k.ownResume h
  · exact k.ownAbort h
  · exact k.ownClearFault h
  · exact k.report _ _ h

theorem fwd (lane : List Byte) : ∀ {s : State}, P s → P (receiveForward lane s) := by
  have bad : ∀ s, P s → P (dropBad s) := by
    intro s h; unfold dropBad; split
    · exact k.fault _ h
    · exact k.events _ _ h
  have sort : ∀ kind tag payload s, P s → P (sortPacket kind tag payload s) := by
    intro kind tag payload s h
    unfold sortPacket
    split
    · exact k.post _ _ h
    · split
      · exact bad _ h
      · split
        · unfold arriveStream; split
          · exact k.post _ _ h
          · split
            · exact k.intake _ _ h
            · exact k.fault _ h
        · exact k.hand _ _ _ (k.owner _ _) h
  have one : ∀ (s : State) (b : Byte), P s → P (forwardByte s b) := by
    intro s b h
    unfold forwardByte
    split
    · split <;> exact k.intake _ _ h
    · split
      · exact bad _ (k.intake _ _ h)
      · exact k.intake _ _ h
    · split
      · unfold judgePacket; dsimp only; split
        · exact bad _ (k.intake _ _ h)
        · exact sort _ _ _ _ (k.intake _ _ h)
      · exact k.intake _ _ h
  induction lane with
  | nil => exact fun h => h
  | cons b rest ih => exact fun h => ih (one _ b h)

theorem lane {s : State} (h : P s) : P (chooseLane s) := by
  have ev : P (chooseEvent s) := by
    unfold chooseEvent; dsimp only
    repeat' split
    all_goals exact k.report _ _ (k.report _ _ h)
  unfold chooseLane; split
  · exact k.report _ _ (k.report _ _ h)
  · exact ev
  · exact ev

/-- Every command keeps `P`; of the two edges of RESET that is asked apart. -/
theorem all (c : Instr) (s t : State) (hreset : c = .reset → P (holdInReset s))
    (hrel : c = .resetReleased → P (resetPart s)) (h : P s) (he : exec c s = .next t) : P t := by
  cases c with
  | reset => cases he; exact hreset rfl
  | resetReleased =>
    cases he
    show P (if _ then _ else _)
    split
    · exact hrel rfl
    · exact h
  | contour => exact k.trying _ _ (fun r p s u h hu => k.dContour r p s u h hu) h he
  | cut => exact k.trying _ _ (fun r p s u h hu => k.dCut r p s u h hu) h he
  | close => exact k.trying _ _ (fun r p s u h hu => k.dClose r p s u h hu) h he
  | frame =>
    change (if s.part.inReset || !s.port.sending then _ else _) = _ at he
    split at he
    · cases he; exact h
    · split at he
      · cases he
      · rw [← Host.Outcome.next.inj he]; exact k.runFrame h
  | stopAsserted =>
    change (if s.part.inReset || s.part.stopInput then _ else _) = _ at he
    have h1 : P (setStop true s) := k.part _ _ h rfl (.inl rfl) (.inl rfl)
    split at he
    · cases he; exact h1
    · cases he; exact k.fault _ h1
  | stopReleased => cases he; exact k.part _ _ h rfl (.inl rfl) (.inl rfl)
  | streamPacketArrival lane => cases he; exact unlessReset_keeps _ (fun h => k.fwd lane h) h
  | unknownKind lane => cases he; exact unlessReset_keeps _ (fun h => k.fwd lane h) h
  | badPacketDrop lane => cases he; exact unlessReset_keeps _ (fun h => k.fwd lane h) h
  | block => cases he; exact unlessReset_keeps _ (fun h => k.taking _ _ k.dBlock h) h
  | blockEnd => cases he; exact unlessReset_keeps _ (fun h => k.taking _ _ k.dBlockEnd h) h
  | mark => cases he; exact unlessReset_keeps _ (fun h => k.taking _ _ (fun r p s h => k.dAct _ s h) h) h
  | aux => cases he; exact unlessReset_keeps _ (fun h => k.taking _ _ (fun r p s h => k.dAct _ s h) h) h
  | tableOpen => cases he; exact unlessReset_keeps _ (fun h => k.taking _ _ k.dOpen h) h
  | tableData => cases he; exact unlessReset_keeps _ (fun h => k.taking _ _ k.dData h) h
  | tableClose => cases he; exact unlessReset_keeps _ (fun h => k.taking _ _ (fun r p s h => k.close s r p h) h) h
  | bladeTableCommit => cases he; exact unlessReset_keeps _ (fun h => k.commit _ h) h
  | release => cases he; exact unlessReset_keeps _ (fun h => k.moment _ h) h
  | setup tag f => cases he; exact unlessReset_keeps _ (fun h => k.hand _ _ _ (fun s h => k.setup s f h) h) h
  | queryStatus tag i => cases he; exact unlessReset_keeps _ (fun h => k.hand _ _ _ (fun s h => h) h) h
  | queryPosition tag i => cases he; exact unlessReset_keeps _ (fun h => k.hand _ _ _ (fun s h => h) h) h
  | queryTable tag i => cases he; exact unlessReset_keeps _ (fun h => k.hand _ _ _ (fun s h => h) h) h
  | querySetup tag i => cases he; exact unlessReset_keeps _ (fun h => k.hand _ _ _ (fun s h => h) h) h
  | queryItemRange tag i j => cases he; exact unlessReset_keeps _ (fun h => k.hand _ _ _ (fun s h => h) h) h
  | override tag v => cases he; exact unlessReset_keeps _ (fun h => k.hand _ _ _ (fun s h => k.ownOverride _ h) h) h
  | halt tag => cases he; exact unlessReset_keeps _ (fun h => k.hand _ _ _ (fun s h => k.ownHalt h) h) h
  | resume tag => cases he; exact unlessReset_keeps _ (fun h => k.hand _ _ _ (fun s h => k.ownResume h) h) h
  | abort tag => cases he; exact unlessReset_keeps _ (fun h => k.hand _ _ _ (fun s h => k.ownAbort h) h) h
  | clearFault tag => cases he; exact unlessReset_keeps _ (fun h => k.hand _ _ _ (fun s h => k.ownClearFault h) h) h
  | eventMask tag v => cases he; exact unlessReset_keeps _ (fun h => k.hand _ _ _ (fun s h => k.report _ _ h) h) h
  | driveLink => cases he; exact unlessReset_keeps _ (fun h => k.raiseDriveLink h) h
  | governorEvaluation => cases he; exact unlessReset_keeps _ (fun h => k.evaluate _ h) h
  | bladeJam => cases he; exact unlessReset_keeps _ (fun h => k.raiseBladeJam h) h
  | lockTimeout => cases he; exact unlessReset_keeps _ (fun h => k.takeLockTimeout h) h
  | trimTimeout => cases he; exact unlessReset_keeps _ (fun h => k.takeTrimTimeout h) h
  | dwellTimeout => cases he; exact unlessReset_keeps _ (fun h => k.takeDwellTimeout h) h
  | standoff => cases he; exact unlessReset_keeps _ (fun h => k.endStandoffRetract h) h
  | holdEntry => cases he; exact unlessReset_keeps _ (fun h => k.takeHoldEntry h) h
  | abortStopEnd => cases he; exact unlessReset_keeps _ (fun h => k.endAbortStop h) h
  | stopped => cases he; exact unlessReset_keeps _ (fun h => k.takeStopped h) h
  | recoverRetractEnd => cases he; exact unlessReset_keeps _ (fun h => k.endRecover h) h
  | returnFrame lane => cases he; exact unlessReset_keeps _ (fun h => k.receiveDrive lane h) h
  | returnLaneChoice => cases he; exact unlessReset_keeps _ (fun h => k.lane h) h
  | partialFrameDiscard =>
    cases he; refine unlessReset_keeps _ (fun h => ?_) h
    unfold discardPartial; split
    · exact h
    · exact k.port _ _ h (.inl rfl) (.inl rfl) (.inl rfl)
end KeptAll

end Sys2Proof.Machine
end

