-- ==== Sys2Proof/Tests/Slice0.lean ====
section
/-! SUPPORT. Tests: the well-formedness checks, the spec's worked examples, one step of each kind, and a witness for
the hypotheses of each statement. -/

namespace Sys2Proof.Tests

open Sys2Proof.Machine

/-! ## Sample states

The setup record and the blade table are those of the worked case of 05 (5.6), the density entries those of 02 (Table
2.5). -/

def exSetup : Setup where
  period := 1
  accel := 2000
  stopDecel := 6000
  travelSpeed := 500
  zAirSpeed := 100
  xMax := 2000000
  yMax := 1500000
  zMax := 400000
  tableTop := 50000
  zCut := 45000
  clearance := 20000
  paceHigh := 48
  paceLow := 16
  dropMask := 4

def exBlade : BladeEntry where
  fMin := 40
  fMax := 320
  fPlunge := 120
  blend := 3000
  swivel := 6000
  swivelRate := 9000
  airRate := 18000
  lead := 2000
  trimInterval := 20
  trimGrace := 5
  lockTimeout := 200
  trimTimeout := 300
  dwellTimeout := 500

def class3 : DensityEntry := ⟨250, 800, 1200, 40, 90⟩
def snap3 : Snapshot := ⟨3, 250, 800, 1200, 40, 90⟩

def exDensity : List (Nat × DensityEntry) :=
  [(2, ⟨300, 1000, 1500, 50, 80⟩), (3, class3), (5, ⟨160, 500, 900, 25, 110⟩), (6, ⟨250, 700, 1100, 35, 100⟩)]

/-- Table 2.6. -/
def exZone : List (Nat × ZoneEntry) :=
  [(0, .dflt 3), (1, .rect 0 0 1000000 120000 5), (2, .rect 200000 200000 800000 500000 2),
   (3, .rect 200000 450000 800000 600000 2), (4, .rect 900000 0 1000000 600000 6)]

def plainZone : List (Nat × ZoneEntry) := [(0, .dflt 3)]

def exTables : TableStore := { State.reset.tables with density := exDensity, zone := plainZone, blade := some exBlade }

/-- Configured, with tables and a position, and nothing to do. -/
def parked : State :=
  { State.reset with
    tables := exTables
    executor := { State.reset.executor with position := some ⟨100000, 100000, 300000, 0⟩ }
    port := { State.reset.port with sending := true, dropMask := 4 }
    part := { State.reset.part with state := .parked, setup := some exSetup } }

def withState (p : PartState) (s : State) : State := { s with part := { s.part with state := p } }

def running : State := withState .running parked

def exBlock : PlannedBlock := ⟨200000, 150000, 150000, 170000, false, 20⟩

def inBlock : State :=
  { running with planner := { running.planner with stream := .inBlock, block := some exBlock } }

def inContour : State :=
  { inBlock with planner := { inBlock.planner with
      stream := .inContour, prev := some (200000, 150000), contour := some ⟨40, none⟩, memory := .contourStart } }

/-- In a contour whose first CUT, of heading 1500 and cap 200, has been released. -/
def afterCut : State :=
  { inContour with planner := { inContour.planner with
      prev := some (251591, 153106), contour := some ⟨40, some 40⟩, memory := .fixed 1500 200 0,
      plannedHeading := some 1500 } }

/-- `s` with the packet of kind `k`, tag 7 and payload `b` alone in the intake queue. -/
def holding (k : Byte) (b : List Byte) (s : State) : State :=
  { s with link := { s.link with intake := [⟨k, 7, b⟩] } }

def withLoad (l : Load) (s : State) : State := { s with tables := { s.tables with load := some l } }

def withExec (e : Executor) (s : State) : State := { s with executor := e }

def exBlockExec : ExecBlock := ⟨150000, 170000, false⟩

/-- The Executor in state `st`, in material, with record `b` under way. -/
def working (st : ExecState) (b : Body) : State :=
  withExec { State.reset.executor with
    state := st
    position := some ⟨200000, 150000, 45000, 0⟩
    current := some ⟨⟨31, [], b⟩, 0, 0, 0, 0, 0, 0, false⟩
    currentTag := 31
    block := some exBlockExec
    heldPlunge := some 40 } running

/-- The CUT records of Table 7.2. -/
def cut31 : CutRecord := ⟨200000, 150000, 202000, 150000, 2000, 0, snap3, 200, 200, 200⟩
def cut33 : CutRecord := ⟨202000, 150000, 202300, 150000, 300, 0, snap3, 200, 200, 200⟩
def cut34 : CutRecord := ⟨202300, 150000, 222300, 150000, 20000, 0, snap3, 200, 200, 160⟩

/-- CUT 31 at distance `d` and speed `v`, with the records behind it of section 7.5. -/
def cutting (d v : Nat) : State :=
  { working .cut (.cut cut31) with
    executor := { (working .cut (.cut cut31)).executor with
      current := some ⟨⟨31, [], .cut cut31⟩, d, v, 2000, 200000, 150000, 0, false⟩
      queue := [⟨32, [.mark 32], .actions⟩, ⟨33, [], .cut cut33⟩, ⟨34, [], .cut cut34⟩] }
    planner := { inContour.planner with memory := .fixed 0 200 160 } }

/-- What `f` says of the next state of `c`. -/
def after (c : Instr) (s : State) (f : State → Bool) : Bool :=
  match exec c s with
  | .next t => f t
  | .fault _ => false
  | .refused _ => false

/-! ## Well-formedness: each check refuses an ill-formed command -/

theorem test_wf_lane_stream : (Instr.streamPacketArrival []).wellFormed = false := by decide
theorem test_wf_lane_unknown : (Instr.unknownKind []).wellFormed = false := by decide
theorem test_wf_lane_bad : (Instr.badPacketDrop []).wellFormed = false := by decide
theorem test_wf_lane_return : (Instr.returnFrame []).wellFormed = false := by decide
theorem test_wf_item : ∀ i : Fin 4, (Instr.queryItemRange 0 (BitVec.ofNat 8 (i + 1)) 0).wellFormed = false := by decide
theorem test_wf_period : (Instr.setup 0 { exSetup with period := 2 ^ 8 }).wellFormed = false := by decide
theorem test_wf_accel : (Instr.setup 0 { exSetup with accel := 2 ^ 16 }).wellFormed = false := by decide
theorem test_wf_stopDecel : (Instr.setup 0 { exSetup with stopDecel := 2 ^ 16 }).wellFormed = false := by decide
theorem test_wf_travelSpeed : (Instr.setup 0 { exSetup with travelSpeed := 2 ^ 16 }).wellFormed = false := by decide
theorem test_wf_zAirSpeed : (Instr.setup 0 { exSetup with zAirSpeed := 2 ^ 16 }).wellFormed = false := by decide
theorem test_wf_xMax : (Instr.setup 0 { exSetup with xMax := 2 ^ 32 }).wellFormed = false := by decide
theorem test_wf_yMax : (Instr.setup 0 { exSetup with yMax := 2 ^ 32 }).wellFormed = false := by decide
theorem test_wf_zMax : (Instr.setup 0 { exSetup with zMax := 2 ^ 32 }).wellFormed = false := by decide
theorem test_wf_tableTop : (Instr.setup 0 { exSetup with tableTop := 2 ^ 32 }).wellFormed = false := by decide
theorem test_wf_zCut : (Instr.setup 0 { exSetup with zCut := 2 ^ 32 }).wellFormed = false := by decide
theorem test_wf_clearance : (Instr.setup 0 { exSetup with clearance := 2 ^ 16 }).wellFormed = false := by decide
theorem test_wf_paceHigh : (Instr.setup 0 { exSetup with paceHigh := 2 ^ 8 }).wellFormed = false := by decide
theorem test_wf_paceLow : (Instr.setup 0 { exSetup with paceLow := 2 ^ 8 }).wellFormed = false := by decide
theorem test_wf_good : (Instr.setup 0 exSetup).wellFormed = true := by decide

/-! ## Formats -/

/-- 12.6: the image of class 3. -/
theorem test_density_image : densityImage 3 class3 = [0x03, 0x00, 0xFA, 0x03, 0x20, 0x04, 0xB0, 0x28, 0x5A] := by decide

/-- 12.6: a TABLE-DATA of length 6 ends inside p_max: BAD-FIELD, index 3, field 3. -/
theorem test_short_image : stageEntry (.density []) 3 [0x00, 0xFA, 0x03, 0x20, 0x04] =
    ⟨.density [], some (.badField 3 3)⟩ := by decide

/-- R48, R50: the CRC over no bytes. -/
theorem test_crc_empty : crc [] = 0xFFFF := by decide

/-- R160: a HALT with tag 1, its length byte 0, its kind 13 and its tag before the CRC. -/
theorem test_packet_bytes : (packetBytes 0x13 1 []).take 6 = [0xA5, 0x3C, 0x00, 0x13, 0x00, 0x01] := by decide +kernel

/-! ## Lengths, headings, junctions, classes and speeds -/

/-- Table 4.1. -/
theorem test_table_4_1 :
    (vecLength 40000 0, headingOf 40000 0) = (40000, 0) ∧
    (vecLength 0 (-250000), headingOf 0 (-250000)) = (250000, 27000) ∧
    (vecLength 11591 3106, headingOf 11591 3106) = (12000, 1500) ∧
    (vecLength (-5209) 29544, headingOf (-5209) 29544) = (30000, 10000) ∧
    (vecLength 1 1, headingOf 1 1) = (1, 4500) ∧
    (vecLength 1000000 (-3), headingOf 1000000 (-3)) = (1000000, 0) := by decide +kernel

/-- Table 4.4, the rows that cross 0, the limits of the classes, and the half turns. -/
theorem test_table_4_4 :
    let j := fun h1 c1 h2 => junctionOf exBlade h1 c1 h2 200 snap3 0
    j 0 200 0 = ⟨none, 200, 0⟩ ∧ j 35500 200 1000 = ⟨none, 100, 0⟩ ∧ j 1000 200 35500 = ⟨none, 100, 0⟩ ∧
    j 0 150 1000 = ⟨none, 100, 0⟩ ∧ j 0 200 3000 = ⟨none, 0, 0⟩ ∧
    j 0 200 3001 = ⟨some ⟨.swivel, 3001, false, false, none⟩, 0, 0⟩ ∧
    j 0 200 30000 = ⟨some ⟨.swivel, -6000, false, false, none⟩, 0, 0⟩ ∧
    j 1500 200 10000 = ⟨some ⟨.lift, 8500, false, false, some 40⟩, 0, 0⟩ ∧
    j 27000 200 9000 = ⟨some ⟨.lift, 18000, false, false, some 40⟩, 0, 0⟩ := by decide +kernel

/-- Table 2.7, cases A to F. -/
theorem test_table_2_7 :
    let g := fun x0 y0 x1 y1 =>
      (governingClass { exTables with zone := exZone } (boxOf x0 y0 x1 y1)).map fun s => (s.cls, s.feedCap, s.plunge)
    g 300000 300000 600000 400000 = some (2, 300, 50) ∧ g 100000 150000 400000 250000 = some (3, 250, 40) ∧
    g 100000 120000 100000 300000 = some (5, 160, 25) ∧ g 300000 400000 600000 550000 = some (3, 250, 40) ∧
    g 850000 300000 950000 300000 = some (3, 250, 40) ∧ g 500000 500000 500000 500000 = some (2, 300, 50) := by
  decide +kernel

/-- Table 5.1. -/
theorem test_table_5_1 :
    let cap := fun feed fc pm => cutCap feed ⟨0, fc, 0, pm, 0, 0⟩ exBlade
    cap 200 250 1200 = 200 ∧ cap 0 250 1200 = 250 ∧ cap 450 300 1500 = 300 ∧ cap 0 500 900 = 288 ∧
    cap 700 160 900 = 160 := by decide

/-- Table 6.2: the frequency at 2, 30, 32, 100, 200 and 1 mm/s, and the upper clamp at 300. -/
theorem test_table_6_2 :
    ([2, 30, 32, 100, 200, 1, 300].map fun v => cutFrequency exBlade v 800) = [40, 40, 40, 125, 250, 40, 320] := by
  decide

/-- Table 6.4, the first five evaluations, the tenth, and three after it. -/
theorem test_table_6_4 :
    evaluate 95 90 100 0 = (90, 0) ∧ evaluate 93 90 90 0 = (80, 0) ∧ evaluate 88 90 80 0 = (80, 0) ∧
    evaluate 70 90 80 0 = (85, 0) ∧ evaluate 130 90 85 0 = (75, 0) ∧ evaluate 140 90 35 0 = (25, 0) ∧
    evaluate 140 90 25 0 = (25, 1) ∧ evaluate 140 90 25 1 = (25, 2) ∧ evaluate 90 90 25 2 = (25, 0) := by decide

/-- Section 7.5: the braking limit for exit 200 over 150 µm at A 2000 is 201. -/
theorem test_braking_limit : reach 2000 200 150 = 201 := by decide +kernel

/-! ## One step of each kind -/

theorem test_stop_in_reset : after .stopAsserted { parked with part := { parked.part with inReset := true } }
    (fun t => t.part.stopInput && t.part.state == .parked) = true := by decide

/-- R162, R166: the 48th packet raises PACE at high mark 48. -/
theorem test_pace : after (.streamPacketArrival (packetBytes 6 1 []))
    { parked with link := { parked.link with intake := List.replicate 47 ⟨6, 0, []⟩ } }
    (fun t => t.link.pace && t.link.intake.length == 48) = true := by decide +kernel

/-- R159: bytes before the sync pair are passed over, and a repeated first sync byte is kept. -/
theorem test_hunt : after (.streamPacketArrival ([0x00, 0xA5, 0xA5] ++ (packetBytes 6 1 []).drop 1)) parked
    (fun t => t.link.intake == [⟨6, 1, []⟩]) = true := by decide +kernel

theorem test_setup : after (.setup 1 exSetup) State.reset
    (fun t => t.part.state == .parked && t.port.sending && t.report.responses == [.held ⟨0x10, 1, .accepted, []⟩]) =
    true := by decide

theorem test_setup_range : after (.setup 1 { exSetup with period := 3 }) State.reset
    (fun t => t.part.setup == none && t.report.responses == [.held ⟨0x10, 1, .refused .range, [1]⟩]) = true := by decide

theorem test_override : after (.override 1 20) parked (fun t => t.governor.operator == 25) = true := by decide

theorem test_block : after .block (holding 1 (u32 100000 ++ s32 200000 ++ s32 150000 ++ [0]) parked)
    (fun t => t.part.state == .running && t.planner.block == some ⟨200000, 150000, 150000, 170000, false, 7⟩) =
    true := by decide +kernel

theorem test_contour : after .contour (holding 2 (s32 0 ++ s32 0) inBlock)
    (fun t => t.planner.prev == some (200000, 150000) && t.planner.window.length == 2 && t.executor.queue == []) =
    true := by decide +kernel

/-- Section 5.6, CUT 22: L 40,000, heading 0, cap 200; TRAVEL and ENTER take the heading. -/
theorem test_first_cut : after .cut (holding 3 (s32 40000 ++ s32 0 ++ u16 200) inContour)
    (fun t => t.planner.trimDist == 40000 && t.planner.plannedHeading == some 0 &&
      t.planner.prev == some (240000, 150000)) = true := by decide +kernel

/-- Section 5.6, CUT 24: a LIFT PIVOT of +8500 before it, with plunge speed 40. -/
theorem test_pivot : after .cut (holding 3 (s32 46382 ++ s32 32650 ++ u16 0) afterCut)
    (fun t => t.records.head? == some ⟨7, [], .pivot ⟨.lift, 8500, false, false, some 40⟩⟩ && t.records.length == 2) =
    true := by decide +kernel

theorem test_close : after .close (holding 4 [] afterCut)
    (fun t => t.planner.stream == .inBlock && t.records == [⟨7, [], .leave 40 false⟩]) = true := by decide +kernel

theorem test_block_end : after .blockEnd (holding 5 [] inBlock)
    (fun t => t.planner.stream == .noBlock && t.records == [⟨7, [], .blockDone 20⟩]) = true := by decide +kernel

theorem test_mark : after .mark (holding 6 [] parked)
    (fun t => t.records == [⟨7, [.mark 7], .actions⟩] && t.part.state == .running) = true := by decide +kernel

theorem test_aux : after .aux (holding 7 [3, 1] parked)
    (fun t => t.records == [⟨7, [.aux 7 3 1], .actions⟩]) = true := by decide +kernel

theorem test_table_open : after .tableOpen (holding 8 [1] parked)
    (fun t => t.tables.load == some ⟨.density [], none⟩) = true := by decide +kernel

/-- 12.6: class 3 as a TABLE-DATA. -/
theorem test_table_data : after .tableData
    (holding 9 [0x03, 0x00, 0xFA, 0x03, 0x20, 0x04, 0xB0, 0x28, 0x5A] (withLoad ⟨.density [], none⟩ parked))
    (fun t => t.tables.load == some ⟨.density [(3, class3)], none⟩) = true := by decide +kernel

/-- 12.6: the close of a load that failed at field 3 of entry 3. -/
theorem test_load_failed : after .tableClose
    (holding 10 [0, 0, 0] (withLoad ⟨.density [], some (.badField 3 3)⟩ parked))
    (fun t => t.report.responses == [.held ⟨0x0A, 7, .refused .loadFailed, [0x02, 0x03, 0x03]⟩]) = true := by
  decide +kernel

/-- R44, R145: with nothing held or executing a BLADE close commits as it is taken, before its pending MARK becomes an
ACTIONS record. -/
theorem test_blade_close : after .tableClose
    (holding 10 (u8 0 ++ tagBytes 0xFFFF) (withLoad ⟨.blade [], none⟩
      { parked with planner := { parked.planner with actions := [.mark 3] } }))
    (fun t => t.tables.blade == none && t.tables.waiting == none && t.records == [⟨3, [.mark 3], .actions⟩] &&
      t.report.responses == [.held ⟨0x0A, 7, .accepted, []⟩]) = true := by decide +kernel

/-- Section 7.5: one frame of 4 ms carries CUT 31 through ACTIONS 32 and CUT 33 into CUT 34, at 350 µm. -/
theorem test_table_7_3 : after .frame
    { cutting 1850 200 with part := { running.part with setup := some { exSetup with period := 4 } } }
    (fun t => t.executor.currentTag == 34 && t.executor.queue == [] && t.report.marks == [32] &&
      (t.executor.current.map fun c => (c.dist, c.speed)) == some (350, 200) && t.keptFreq == 250 &&
      t.executor.position == some ⟨202650, 150000, 45000, 0⟩) = true := by decide +kernel

/-- R124: in material the Executor enters DWELL in the frame after the one that completes its last record. -/
theorem test_rest : after .frame
    (withExec { (working .cut (.cut cut31)).executor with
      current := none, queue := [⟨32, [.mark 32], .actions⟩] } running)
    (fun t => t.executor.state == .cut && t.executor.dwellTimer == .stopped &&
      after .frame t fun u => u.executor.state == .dwell && u.executor.dwellTimer == .running 1 500) = true := by
  decide +kernel

theorem test_halt : after (.halt 1) (cutting 500 200) (fun t => t.executor.haltRequest) = true := by decide

theorem test_stop : after .stopAsserted (cutting 500 200)
    (fun t => t.part.state == .fault && t.executor.state == .stopping && t.part.record.cause == some .stop) =
    true := by decide

theorem test_abort : after (.abort 1) (cutting 500 200)
    (fun t => t.part.abortFlag && t.executor.queue == [] && t.planner.stream == .noBlock) = true := by decide +kernel

/-- R179: a return frame of load 255 and heading 36001 is held as load 250 and heading 1. -/
theorem test_return_frame : after (.returnFrame ([0xA5, 0x5A] ++
      (u16 9 ++ u32 1 ++ u32 2 ++ u32 3 ++ u16 36001 ++ [31, 2, 255]) ++
      crcBytes (u16 9 ++ u32 1 ++ u32 2 ++ u32 3 ++ u16 36001 ++ [31, 2, 255]))) parked
    (fun t => t.port.held.load == 250 && t.port.held.heading == 1 && t.port.held.lock && t.port.received) = true := by
  decide +kernel

/-- R163: the answer to a HALT in PARKED goes on the return lane as a packet of kind 20. -/
theorem test_lane : after .returnLaneChoice
    { parked with report := { parked.report with responses := [.held ⟨0x13, 7, .refused .state, []⟩] } }
    (fun t => (t.report.lane.map fun b => b.take 9) == some [0xA5, 0x3C, 3, 0x20, 0, 7, 0x13, 1, 2]) = true := by
  decide +kernel

/-! ## Witnesses: a state and operands that meet the hypotheses of each statement

A statement of several clauses has one line for each, at a boundary of its range. -/

/-- The responses of `n` places. -/
def withResponses (n : Nat) (s : State) : State :=
  { s with report := { s.report with responses := List.replicate n (.held ⟨0x11, 0, .accepted, []⟩) } }

def withIntake (n : Nat) (s : State) : State :=
  { s with link := { s.link with intake := List.replicate n ⟨6, 0, []⟩ } }

def heldInReset : State := { parked with part := { parked.part with inReset := true } }

/-- A waiting blade table, with nothing to do and with a CUT under way. -/
def stalled (s : State) : State := { s with tables := { s.tables with waiting := some ⟨some exBlade, 9⟩ } }

theorem witness_StepTakesFrontCommand : State.reset.pending = [] := by decide

theorem witness_ResetClearsEveryBlock : heldInReset.part.inReset = true ∧ parked.part.inReset = false ∧
    Instr.frame ≠ .stopAsserted ∧ Instr.frame ≠ .stopReleased ∧ Instr.frame ≠ .reset ∧
    Instr.frame ≠ .resetReleased := by decide

/-- Kind 1 and kind 10, with 63 packets waiting. -/
theorem witness_StreamPacketIsTakenIn :
    let s := withIntake 63 parked
    s.part.inReset = false ∧ s.link.rx = .hunt false ∧ s.part.state ≠ .unconfigured ∧ s.part.setup = some exSetup ∧
    s.link.intake.length < 64 ∧ (1 ≤ (1 : Byte).toNat ∧ (1 : Byte).toNat ≤ 10) ∧ lengthFits 1 13 = true ∧
    (1 ≤ (10 : Byte).toNat ∧ (10 : Byte).toNat ≤ 10) ∧ lengthFits 10 3 = true ∧ lengthFits 9 48 = true := by decide

theorem witness_StreamPacketIsTakenIn_not :
    lengthFits 6 0 = true ∧
    (State.reset.part.inReset = false ∧ State.reset.link.rx = .hunt false ∧
      State.reset.part.state = .unconfigured ∧ (withResponses 15 State.reset).report.responses.length < 16) ∧
    (∀ p : Fin 2, let s := withState (if p = 0 then .fault else .running) (withIntake 64 parked)
      s.part.inReset = false ∧ s.link.rx = .hunt false ∧ s.part.state ≠ .unconfigured ∧
      s.link.intake.length = 64) := by decide

/-- Kinds 0, 11, 15, 24 and 255, with 15 and with 16 responses waiting; a HALT in UNCONFIGURED. -/
theorem witness_PacketsThatReachNoOwner :
    (∀ k ∈ ([0, 11, 15, 24, 255] : List Byte), k.toNat = 0 ∨ (10 < k.toNat ∧ k.toNat < 16) ∨ 23 < k.toNat) ∧
    (withResponses 15 parked).report.responses.length < 16 ∧ (withResponses 16 parked).report.responses.length = 16 ∧
    parked.part.inReset = false ∧ parked.link.rx = .hunt false ∧
    (withResponses 15 State.reset).part.state = .unconfigured ∧ State.reset.part.inReset = false ∧
    (withResponses 15 State.reset).report.responses.length < 16 ∧
    (Instr.halt 1, (0x13 : Byte)) ∈ [(Instr.override 1 9, 0x12), (.halt 1, 0x13), (.resume 1, 0x14), (.abort 1, 0x15),
      (.clearFault 1, (0x16 : Byte))] := by decide

/-- A length of 49; a HALT with a wrong CRC; a CLOSE of one payload byte; RUNNING and PARKED. -/
theorem witness_BadPacketIsDropped :
    running.part.inReset = false ∧ running.link.rx = .hunt false ∧ running.part.state = .running ∧
    parked.part.state ≠ .running ∧ 48 < (49 : Byte).toNat ∧ (0 : BitVec 16) ≠ crc (coveredBytes 0x13 1 []) ∧
    lengthFits 4 1 = false ∧ lengthFits 0x17 0 = false := by decide +kernel

theorem witness_ImmediateBytesAreTheCommand :
    parked.link.rx = .hunt false ∧ parked.part.inReset = false ∧ exSetup.fits = true := by decide

/-- In reset, in a stall, in FAULT, in an abort stop, with 24 records, with 23 at a full execution queue and with a head
without its heading, with no packet and with one of another kind. -/
theorem witness_PlannerTakesNothing :
    let windowed := fun (n : Nat) (b : Body) =>
      { holding 6 [] parked with planner := { parked.planner with window := List.replicate n ⟨⟨5, [], b⟩, 0, false⟩ } }
    let full := withExec { parked.executor with queue := List.replicate 32 ⟨9, [], .actions⟩ } (windowed 23 .actions)
    (Instr.mark, (0x06 : Byte)) ∈ [(Instr.block, (0x01 : Byte)), (.contour, 0x02), (.cut, 0x03), (.close, 0x04),
      (.blockEnd, 0x05), (.mark, 0x06), (.aux, 0x07), (.tableOpen, 0x08), (.tableData, 0x09), (.tableClose, 0x0A)] ∧
    heldInReset.part.inReset = true ∧ (holding 6 [] (stalled parked)).tables.waiting ≠ none ∧
    State.reset.part.state = .unconfigured ∧ (withState .fault parked).part.state = .fault ∧
    (withState .recovering parked).part.state = .recovering ∧
    ({ running.part with abortFlag := true } : Part).abortFlag = true ∧
    24 ≤ (windowed 24 .actions).planner.window.length ∧
    (full.planner.window.length = 23 ∧ 32 ≤ full.executor.queue.length) ∧
    ((windowed 23 (.travel 0 0 none)).planner.window.length = 23 ∧ Body.headless (.travel 0 0 none) = true) ∧
    parked.link.intake = [] ∧ (holding 1 [] parked).link.intake = [⟨1, 7, []⟩] ∧ (1 : Byte) ≠ 6 := by decide

/-- With 23 records in the window, a head that can be released and 31 records in the execution queue. -/
theorem witness_Takes_at_23 :
    let s := holding 6 [] parked
    Takes 6 exSetup ⟨6, 7, []⟩ [] { s with
      planner := { s.planner with window := List.replicate 23 ⟨⟨5, [], .actions⟩, 0, false⟩ }
      executor := { s.executor with queue := List.replicate 31 ⟨9, [], .actions⟩ } } := by
  constructor <;> decide +kernel

/-- A BLOCK of height `h` and origin (ox, oy), dry, at the head of the intake queue. -/
def blockPacket (h : Nat) (ox oy : Int) (s : State) : State := holding 1 (u32 h ++ s32 ox ++ s32 oy ++ [1]) s

/-- The least height, and the origin at its limits; and the height whose clear Z is the Z max. -/
theorem witness_BlockIsJudged :
    Takes 1 exSetup ⟨1, 7, u32 10000 ++ s32 (-4000000) ++ s32 4000000 ++ [1]⟩ []
      (blockPacket 10000 (-4000000) 4000000 parked) ∧
    (let s := blockPacket 10000 (-4000000) 4000000 parked
     10000 ≤ 600000 ∧ (-4000000 : Int) ≤ 4000000 ∧ s.planner.stream = .noBlock ∧ s.tables.density ≠ [] ∧
     zonePresent s.tables.zone = true ∧ s.tables.blade ≠ none ∧
     exSetup.tableTop + 10000 + exSetup.clearance ≤ exSetup.zMax ∧
     exSetup.tableTop + 330000 + exSetup.clearance = exSetup.zMax) := by
  refine ⟨by constructor <;> decide +kernel, by decide⟩

/-- SEQUENCE in a block; RANGE at heights 9999 and 600001; NO-TABLE without tables; LIMIT one above the Z max. -/
theorem witness_BlockIsJudged_refused :
    (∀ h ∈ [9999, 600001, 330001], Takes 1 exSetup ⟨1, 7, u32 h ++ s32 0 ++ s32 0 ++ [1]⟩ []
      (withResponses 15 (blockPacket h 0 0 parked))) ∧
    (let s := withResponses 15 (blockPacket 330001 0 0 parked)
     s.report.responses.length < 16 ∧ s.planner.stream = .noBlock ∧ ¬ (10000 ≤ 9999) ∧ ¬ (600001 ≤ 600000) ∧
     s.tables.density ≠ [] ∧ zonePresent s.tables.zone = true ∧ s.tables.blade ≠ none ∧
     exSetup.zMax < exSetup.tableTop + 330001 + exSetup.clearance) ∧
    inBlock.planner.stream = .inBlock ∧ State.reset.tables.density = [] ∧
    zonePresent State.reset.tables.zone = false ∧ State.reset.tables.blade = none := by
  refine ⟨?_, by decide, by decide⟩
  intro h hm
  simp only [List.mem_cons, List.not_mem_nil, or_false] at hm
  rcases hm with rfl | rfl | rfl <;> constructor <;> decide +kernel

/-- The start point at the corner X 0, Y max. -/
theorem witness_ContourOpens :
    Takes 2 exSetup ⟨2, 7, s32 (-200000) ++ s32 1350000⟩ [] (holding 2 (s32 (-200000) ++ s32 1350000) inBlock) ∧
    (let s := holding 2 (s32 (-200000) ++ s32 1350000) inBlock
     s.planner.stream = .inBlock ∧ s.planner.block = some exBlock ∧
     (-200000 : Int) + exBlock.ox = 0 ∧ (1350000 : Int) + exBlock.oy = exSetup.yMax ∧
     governingClass s.tables (boxOf (-200000) 1350000 (-200000) 1350000) = some snap3) := by
  refine ⟨by constructor <;> decide +kernel, by decide +kernel⟩

/-- Feed 65535, and a junction that calls for a PIVOT. -/
theorem witness_CutMakesItsRecord :
    Takes 3 exSetup ⟨3, 7, s32 46382 ++ s32 32650 ++ u16 65535⟩ []
      (holding 3 (s32 46382 ++ s32 32650 ++ u16 65535) afterCut) ∧
    (let s := holding 3 (s32 46382 ++ s32 32650 ++ u16 65535) afterCut
     s.planner.stream = .inContour ∧ s.planner.block = some exBlock ∧ s.planner.prev = some (251591, 153106) ∧
     s.planner.contour = some ⟨40, some 40⟩ ∧ s.tables.blade = some exBlade ∧
     0 ≤ (46382 : Int) + exBlock.ox ∧ (46382 : Int) + exBlock.ox ≤ exSetup.xMax ∧
     0 ≤ (32650 : Int) + exBlock.oy ∧ (32650 : Int) + exBlock.oy ≤ exSetup.yMax ∧ 65535 < 65536 ∧
     ¬ ((46382 : Int) + exBlock.ox = 251591 ∧ (32650 : Int) + exBlock.oy = 153106) ∧
     governingClass s.tables (boxOf (251591 - exBlock.ox) (153106 - exBlock.oy) 46382 32650) = some snap3 ∧
     (junctionFor exBlade true s.planner.memory 10000 250 snap3 0).pivot.isSome = true) := by
  refine ⟨by constructor <;> decide +kernel, by decide +kernel⟩

/-- The first CUT of a contour, with its TRAVEL and ENTER in the window, and a contour of another block before them. -/
theorem witness_CutMakesItsRecord_first :
    let s := holding 3 (s32 40000 ++ s32 0 ++ u16 200) { inContour with planner := { inContour.planner with
      window := [⟨⟨20, [], .blockStart 150000 170000 false 20⟩, 0, false⟩,
        ⟨⟨21, [], .travel 200000 150000 none⟩, 0, true⟩, ⟨⟨21, [], .enter 200000 150000 none 40⟩, 0, true⟩] } }
    Takes 3 exSetup ⟨3, 7, s32 40000 ++ s32 0 ++ u16 200⟩ [] s ∧
    (s.planner.stream = .inContour ∧ s.planner.block = some exBlock ∧ s.planner.prev = some (200000, 150000) ∧
     s.planner.contour = some ⟨40, none⟩ ∧ s.tables.blade = some exBlade ∧
     governingClass s.tables (boxOf 0 0 40000 0) = some snap3 ∧
     (s.planner.window[1]?.map fun w => w.ofOpenContour) = some true) := by
  refine ⟨by constructor <;> decide +kernel, by decide +kernel⟩

/-- A CUT with 22 records in the window, three of them due, without a PIVOT: at two records in the execution queue with
none due, and at 32; and one whose PIVOT stands behind a due CUT, with room for one record. -/
theorem witness_CutMakesItsRecord_plan :
    let old : WindowEntry := ⟨⟨23, [], .cut { cut33 with entry := 0, exit := 0 }⟩, 0, false⟩
    let s := fun (b : List Byte) (n k : Nat) (due : Option Nat) => holding 3 b
      (withExec { running.executor with queue := List.replicate n ⟨9, [], .actions⟩ }
        { afterCut with planner := { afterCut.planner with
            window := List.replicate k old, releasePoint := due, memory := .inWindow 1500 200 } })
    let straight := s32 61591 ++ s32 3106 ++ u16 0
    let turns := s32 46382 ++ s32 32650 ++ u16 0
    (∀ u ∈ [s straight 2 22 none, s straight 32 22 (some 2), s turns 31 1 (some 0)],
      Takes 3 exSetup (u.link.intake.headD ⟨0, 0, []⟩) [] u ∧ u.planner.block = some exBlock ∧
      u.planner.prev = some (251591, 153106) ∧ u.planner.contour = some ⟨40, some 40⟩) ∧
    (junctionFor exBlade true (.inWindow 1500 200) (headingOf 10000 0) 200 snap3 0).pivot = none ∧
    (junctionFor exBlade true (.inWindow 1500 200) (headingOf (-5209) 29544) 200 snap3 0).pivot.isSome = true ∧
    2 ≤ (s straight 2 22 none).executor.queue.length ∧ 32 ≤ (s straight 32 22 (some 2)).executor.queue.length ∧
    (s turns 31 1 (some 0)).planner.window ≠ [] := by
  refine ⟨?_, by decide +kernel, by decide +kernel, by decide, by decide, by decide⟩
  intro u hu
  simp only [List.mem_cons, List.not_mem_nil, or_false] at hu
  rcases hu with rfl | rfl | rfl <;> refine ⟨?_, rfl, rfl, rfl⟩ <;> constructor <;> decide +kernel

/-- The first CUT of a contour at its start point, with no action pending. -/
theorem witness_ZeroLengthCutIsDiscarded :
    Takes 3 exSetup ⟨3, 7, s32 0 ++ s32 0 ++ u16 0⟩ [] (holding 3 (s32 0 ++ s32 0 ++ u16 0) inContour) ∧
    (inContour.planner.stream = .inContour ∧ inContour.planner.block = some exBlock ∧
     inContour.planner.prev = some (0 + exBlock.ox, 0 + exBlock.oy) ∧ inContour.planner.contour = some ⟨40, none⟩ ∧
     inContour.planner.actions = []) := by
  refine ⟨by constructor <;> decide +kernel, by decide⟩

/-- A contour with a CUT, whose retract speed is that CUT's, and a trim just due. -/
theorem witness_CloseAndBlockEnd :
    Takes 4 exSetup ⟨4, 7, []⟩ [] (holding 4 [] afterCut) ∧
    (afterCut.planner.stream = .inContour ∧ afterCut.planner.contour = some ⟨40, some 40⟩ ∧
     afterCut.tables.blade = some exBlade ∧ exBlade.trimInterval * 1000000 ≤ 20000000) := by
  refine ⟨by constructor <;> decide +kernel, by decide⟩

/-- The CLOSE of a stab: a heading planned, none planned, and none planned with no position. -/
theorem witness_CloseAndBlockEnd_stab :
    let s := holding 4 [] { inContour with planner := { inContour.planner with
      window := [⟨⟨21, [], .travel 200000 150000 none⟩, 0, true⟩, ⟨⟨21, [], .enter 200000 150000 none 40⟩, 0, true⟩] } }
    Takes 4 exSetup ⟨4, 7, []⟩ [] s ∧
    (s.planner.stream = .inContour ∧ s.planner.contour = some ⟨40, none⟩ ∧ s.tables.blade = some exBlade ∧
     s.planner.plannedHeading = none ∧ s.executor.position.isSome = true ∧ State.reset.executor.position = none ∧
     ({ s.planner with plannedHeading := some 1500 } : Planner).plannedHeading = some 1500 ∧
     (s.planner.window[0]?.map fun w => w.ofOpenContour) = some true) := by
  refine ⟨by constructor <;> decide +kernel, by decide⟩

theorem witness_CloseAndBlockEnd_end :
    Takes 5 exSetup ⟨5, 7, []⟩ [] (holding 5 [] inBlock) ∧ inBlock.planner.stream = .inBlock ∧
    inBlock.planner.block = some exBlock := by
  refine ⟨by constructor <;> decide +kernel, by decide⟩

/-- A list of none and a list of four. -/
theorem witness_MarkAndAuxArePending :
    Takes 6 exSetup ⟨6, 7, []⟩ [] (holding 6 [] parked) ∧
    Takes 7 exSetup ⟨7, 7, [255, 0]⟩ [] (holding 7 [255, 0]
      { parked with planner := { parked.planner with actions := List.replicate 4 (.mark 1) } }) ∧
    parked.planner.actions.length ≤ 4 ∧ (List.replicate 4 (Machine.Action.mark 1)).length ≤ 4 := by
  refine ⟨by constructor <;> decide +kernel, by constructor <;> decide +kernel, by decide⟩

/-- A BLOCK, a CUT to one micrometre beyond X max, a second TABLE-OPEN and a TABLE-DATA without a load, in a contour. -/
theorem witness_RefusalInContourIsProgramFault :
    Takes 1 exSetup ⟨1, 7, []⟩ [] (holding 1 [] inContour) ∧
    Takes 3 exSetup ⟨3, 7, s32 1800001 ++ s32 0 ++ u16 0⟩ [] (holding 3 (s32 1800001 ++ s32 0 ++ u16 0) inContour) ∧
    Takes 8 exSetup ⟨8, 7, [1]⟩ [] (holding 8 [1] (withLoad ⟨.zone [], none⟩ inContour)) ∧
    (inContour.planner.stream = .inContour ∧ (withResponses 15 inContour).report.responses.length < 16 ∧
     ¬ ((1800001 : Int) + exBlock.ox ≤ exSetup.xMax) ∧ inContour.tables.load = none ∧
     (withLoad ⟨.zone [], none⟩ inContour).tables.load ≠ none) := by
  refine ⟨by constructor <;> decide +kernel, by constructor <;> decide +kernel, by constructor <;> decide +kernel,
    by decide⟩

/-- In a contour: a CONTOUR, a BLOCK-END, ids 0 and 4 of no table, a TABLE-DATA and a TABLE-CLOSE; 16 responses. -/
theorem witness_RefusalInContourIsProgramFault_more :
    Takes 2 exSetup ⟨2, 7, []⟩ [] (holding 2 [] inContour) ∧ Takes 5 exSetup ⟨5, 7, []⟩ [] (holding 5 [] inContour) ∧
    Takes 8 exSetup ⟨8, 7, [4]⟩ [] (holding 8 [4] inContour) ∧
    Takes 8 exSetup ⟨8, 7, [0]⟩ [] (withResponses 16 (holding 8 [0] inContour)) ∧
    Takes 9 exSetup ⟨9, 7, [0]⟩ [] (holding 9 [0] inContour) ∧
    Takes 10 exSetup ⟨10, 7, []⟩ [] (holding 10 [] inContour) ∧
    ((0 : Byte) ≠ 1 ∧ (4 : Byte) ≠ 3 ∧ (holding 8 [4] inContour).tables.load = none ∧
     (withResponses 16 (holding 8 [0] inContour)).report.responses.length = 16 ∧
     inContour.planner.block = some exBlock ∧ inContour.planner.contour = some ⟨40, none⟩ ∧
     inContour.planner.prev = some (200000, 150000)) := by
  refine ⟨?_, ?_, ?_, ?_, ?_, ?_, by decide⟩ <;> constructor <;> decide +kernel

/-- Outside a contour: a CONTOUR between blocks, and one that starts one micrometre before X 0; a CUT and a CLOSE in a
block; a BLOCK-END between blocks; with a record in the window and two in the queue, and with a packet behind. -/
theorem witness_RefusalInContourIsProgramFault_outside :
    let full := withExec { inBlock.executor with queue := List.replicate 2 ⟨9, [], .actions⟩ }
      { inBlock with planner := { inBlock.planner with
          window := [⟨⟨26, [], .blockDone 20⟩, 0, false⟩], actions := [.mark 1] } }
    let behind := { parked with link := { parked.link with intake := [⟨5, 7, []⟩, ⟨6, 8, []⟩] } }
    Takes 2 exSetup ⟨2, 7, s32 0 ++ s32 0⟩ [] (withResponses 15 (holding 2 (s32 0 ++ s32 0) parked)) ∧
    Takes 2 exSetup ⟨2, 7, s32 (-200001) ++ s32 0⟩ [] (holding 2 (s32 (-200001) ++ s32 0) inBlock) ∧
    Takes 3 exSetup ⟨3, 7, s32 0 ++ s32 0 ++ u16 0⟩ [] (holding 3 (s32 0 ++ s32 0 ++ u16 0) full) ∧
    Takes 4 exSetup ⟨4, 7, []⟩ [] (holding 4 [] inBlock) ∧ Takes 5 exSetup ⟨5, 7, []⟩ [⟨6, 8, []⟩] behind ∧
    (parked.planner.stream = .noBlock ∧ inBlock.planner.stream = .inBlock ∧ inBlock.planner.block = some exBlock ∧
     (-200001 : Int) + exBlock.ox = -1 ∧ full.planner.releasePoint = none ∧ full.executor.queue.length = 2 ∧
     full.planner.window ≠ [] ∧ parked.planner.actions = [] ∧
     (withResponses 15 (holding 2 (s32 0 ++ s32 0) parked)).report.responses.length < 16) := by
  refine ⟨?_, ?_, ?_, ?_, ?_, by decide⟩ <;> constructor <;> decide +kernel

/-- The shortest segments along the axes and the diagonals. -/
theorem witness_SegmentLengthAndHeading :
    0 < vecLength 1 0 ∧ (0 : Int) < 1 ∧ ¬ ((0 : Int) = 0 ∧ (1 : Int) = 0) := by decide +kernel

/-- Both components at their limits. -/
theorem witness_HeadingIsTheAngle :
    ¬ ((-4000000 : Int) = 0 ∧ (4000000 : Int) = 0) ∧ (-4000000 : Int) ≤ -4000000 ∧ (-4000000 : Int) ≤ 4000000 ∧
    (4000000 : Int) ≤ 4000000 := by decide

/-- Headings 0 and 35999; a junction that makes a PIVOT. -/
theorem witness_RotationTakesTheShorterWay :
    (35999 : Nat) < 36000 ∧ (junctionOf exBlade 0 200 3001 200 snap3 0).pivot.isSome = true := by decide

/-- Each row of Table 4.3 at its boundary. -/
theorem witness_JunctionFollowsTable43 :
    (exBlade.trimInterval + exBlade.trimGrace) * 1000000 ≤ 25000000 ∧
    24999999 < (exBlade.trimInterval + exBlade.trimGrace) * 1000000 ∧ headingChange 0 3000 ≤ exBlade.blend ∧
    exBlade.blend < headingChange 0 3001 ∧ headingChange 0 6000 ≤ exBlade.swivel ∧
    exBlade.swivel < headingChange 0 6001 ∧ exBlade.trimInterval * 1000000 ≤ 20000000 ∧
    19999999 < exBlade.trimInterval * 1000000 := by decide

theorem witness_GoverningClassIsTheHardest :
    governingClass { exTables with zone := exZone } (boxOf 100000 120000 100000 300000) =
      some ⟨5, 160, 500, 900, 25, 110⟩ := by decide +kernel

/-- A run of two CUTs, as Table 5.4 has it. -/
theorem witness_PassesGiveAPlanThatCanBeFollowed :
    ((planForward 2000 0 (planBackward 2000
      [⟨⟨22, [], .cut { cut34 with len := 40000, entry := 0, exit := 0 }⟩, 0, false⟩,
       ⟨⟨23, [], .cut { cut34 with len := 12000, entry := 0, exit := 0 }⟩, 100, false⟩]).1).filterMap
      fun w => (w.record.body.cut?).map fun c => (c.entry, c.exit)) = [(0, 100), (100, 0)] := by decide +kernel

/-- A BLOCK-DONE at the head of the window, with room for one record. -/
def dueWindow : State :=
  { running with
    planner := { running.planner with window := [⟨⟨26, [], .blockDone 20⟩, 0, false⟩], releasePoint := some 0 }
    executor := { running.executor with queue := List.replicate 31 ⟨9, [], .actions⟩ } }

/-- A due head at 31 records in the queue; a full window; no packet and one record in the queue. -/
theorem witness_ReleaseKeepsTheOrder :
    let full := { running with planner := { running.planner with
      window := List.replicate 24 ⟨⟨5, [], .actions⟩, 0, false⟩ } }
    let starved := withExec { running.executor with queue := [⟨9, [], .actions⟩] }
      { running with planner := { running.planner with window := [⟨⟨26, [], .blockDone 20⟩, 0, false⟩] } }
    (dueWindow.part.inReset = false ∧ dueWindow.part.state = .running ∧ dueWindow.part.abortFlag = false ∧
     (Body.blockDone 20).headless = false ∧ dueWindow.planner.releasePoint ≠ none ∧
     dueWindow.executor.queue.length < 32) ∧
    (24 ≤ full.planner.window.length ∧ full.executor.queue.length < 32) ∧
    (starved.link.intake = [] ∧ starved.executor.queue.length < 2 ∧ starved.planner.window ≠ []) := by decide

/-- A head without its heading; a full queue; no rule that calls, with a packet waiting and with two records queued. -/
theorem witness_ReleaseKeepsTheOrder_not :
    let headless := withExec running.executor
      { running with planner := { running.planner with window := [⟨⟨5, [], .travel 0 0 none⟩, 0, true⟩] } }
    let queued := fun n => withExec { running.executor with queue := List.replicate n ⟨9, [], .actions⟩ }
      { running with planner := { running.planner with window := [⟨⟨26, [], .blockDone 20⟩, 0, false⟩] } }
    heldInReset.part.inReset = true ∧ State.reset.part.state = .unconfigured ∧
    (withState .fault parked).part.state = .fault ∧ (withState .recovering parked).part.state = .recovering ∧
    headless.planner.window = [⟨⟨5, [], .travel 0 0 none⟩, 0, true⟩] ∧ Body.headless (.travel 0 0 none) = true ∧
    32 ≤ (queued 32).executor.queue.length ∧
    ((queued 2).planner.releasePoint = none ∧ (queued 2).planner.window.length < 24 ∧
     2 ≤ (queued 2).executor.queue.length) ∧
    (holding 6 [] (queued 0)).link.intake ≠ [] := by decide

/-- A release with no packet and an action pending, and the same with a packet waiting. -/
theorem witness_ReleaseKeepsTheOrder_count :
    let pending := { dueWindow with planner := { dueWindow.planner with actions := [.mark 4] } }
    dueWindow.planner.actions = [] ∧ pending.planner.actions ≠ [] ∧ pending.link.intake = [] ∧
    (holding 6 [] pending).link.intake ≠ [] := by decide

/-- The ids 1, 2, 3, and 4, which names no table. -/
theorem witness_TableOpenOpensALoad :
    (∀ i : Fin 4, Takes 8 exSetup ⟨8, 7, [BitVec.ofNat 8 (i + 1)]⟩ []
      (holding 8 [BitVec.ofNat 8 (i + 1)] parked)) ∧ parked.tables.load = none ∧
    Takes 8 exSetup ⟨8, 7, [4]⟩ [] (holding 8 [4] (withLoad ⟨.zone [], none⟩ parked)) ∧
    (withLoad ⟨.zone [], none⟩ parked).tables.load = some ⟨.zone [], none⟩ := by
  refine ⟨fun i => ?_, by decide, ?_, by decide⟩
  · constructor <;> first | rfl | decide | (fin_cases i <;> decide +kernel)
  · constructor <;> decide +kernel

/-- In a contour, at two records in the execution queue, with a record in the window and an action pending. -/
theorem witness_TableOpenOpensALoad_kept :
    let s := holding 8 [3] (withExec { running.executor with queue := List.replicate 2 ⟨9, [], .actions⟩ }
      { afterCut with planner := { afterCut.planner with
          window := [⟨⟨23, [], .cut cut33⟩, 0, false⟩], actions := [.mark 4] } })
    Takes 8 exSetup ⟨8, 7, [3]⟩ [] s ∧ s.planner.releasePoint = none ∧ 2 ≤ s.executor.queue.length ∧
    s.planner.window ≠ [] ∧ parked.planner.actions = [] := by
  refine ⟨by constructor <;> decide +kernel, by decide, by decide, by decide, by decide⟩

/-- Images of a density, a default, a rectangle and a blade entry at the limits of their fields, and a failed load. -/
theorem witness_TableDataIsJudged :
    Takes 9 exSetup ⟨9, 7, densityImage 15 ⟨500, 4000, 8000, 200, 200⟩⟩ []
      (holding 9 (densityImage 15 ⟨500, 4000, 8000, 200, 200⟩) (withLoad ⟨.density [], none⟩ parked)) ∧
    Takes 9 exSetup ⟨9, 7, zoneImage 16 (.rect (-4000000) (-4000000) (-4000000) 4000000 15)⟩ []
      (holding 9 (zoneImage 16 (.rect (-4000000) (-4000000) (-4000000) 4000000 15))
        (withLoad ⟨.zone [], none⟩ parked)) ∧
    Takes 9 exSetup ⟨9, 7, bladeImage 0 exBlade⟩ []
      (holding 9 (bladeImage 0 exBlade) (withLoad ⟨.blade [], none⟩ parked)) ∧
    Takes 9 exSetup ⟨9, 7, zoneImage 0 (.dflt 15)⟩ []
      (holding 9 (zoneImage 0 (.dflt 15)) (withLoad ⟨.zone [], some (.badIndex 17)⟩ parked)) ∧
    Takes 9 exSetup ⟨9, 7, zoneImage 0 (.dflt 15)⟩ [] (holding 9 (zoneImage 0 (.dflt 15)) parked) ∧
    ((withLoad ⟨.zone [], some (.badIndex 17)⟩ parked).tables.load = some ⟨.zone [], some (.badIndex 17)⟩ ∧
     parked.tables.load = none ∧ (bladeChecks exBlade).all id = true) := by
  refine ⟨by constructor <;> decide +kernel, by constructor <;> decide +kernel, by constructor <;> decide +kernel,
    by constructor <;> decide +kernel, by constructor <;> decide +kernel, by decide⟩

/-- Index 16 of a density load; payloads that end before the first byte and before the last of an entry; the pitch max
below the pitch target; a rectangle with X high one below X low; and bytes behind a whole image. -/
theorem witness_TableDataIsJudged_bad :
    Takes 9 exSetup ⟨9, 7, [16]⟩ [] (holding 9 [16] (withLoad ⟨.density [], none⟩ parked)) ∧
    Takes 9 exSetup ⟨9, 7, [15, 1, 0, 4, 0, 4, 0, 9]⟩ []
      (holding 9 [15, 1, 0, 4, 0, 4, 0, 9] (withLoad ⟨.density [], none⟩ parked)) ∧
    Takes 9 exSetup ⟨9, 7, densityImage 3 { class3 with pitchMax := 799 } ++ [1, 2]⟩ []
      (holding 9 (densityImage 3 { class3 with pitchMax := 799 } ++ [1, 2]) (withLoad ⟨.density [], none⟩ parked)) ∧
    Takes 9 exSetup ⟨9, 7, zoneImage 1 (.rect 5 0 4 0 0)⟩ []
      (holding 9 (zoneImage 1 (.rect 5 0 4 0 0)) (withLoad ⟨.zone [], none⟩ parked)) ∧
    (lastIndex (.density []) < 16 ∧ lastIndex (.zone []) < 17 ∧ lastIndex (.blade []) < 1 ∧
     15 ≤ lastIndex (.density []) ∧ 5 ≤ (fieldWidths (.density []) 15).length ∧
     ((fieldWidths (.density []) 15).take 4).sum ≤ 7 ∧ 7 < ((fieldWidths (.density []) 15).take 5).sum ∧
     ((fieldWidths (.blade []) 0).take 0).sum ≤ 0 ∧ 0 < ((fieldWidths (.blade []) 0).take 1).sum) := by
  refine ⟨by constructor <;> decide +kernel, by constructor <;> decide +kernel, by constructor <;> decide +kernel,
    by constructor <;> decide +kernel, by decide⟩

theorem witness_TableDataIsJudged_field :
    ¬ densityFieldOk { class3 with pitchMax := 799 } 3 ∧
    (∀ m, m < 3 → densityFieldOk { class3 with pitchMax := 799 } m) ∧
    ¬ zoneFieldOk (.rect 5 0 4 0 0) 3 ∧ (∀ m, m < 3 → zoneFieldOk (.rect 5 0 4 0 0) m) ∧
    ¬ bladeFieldOk { exBlade with dwellTimeout := 10001 } 13 ∧
    (∀ m, m < 13 → bladeFieldOk { exBlade with dwellTimeout := 10001 } m) ∧
    (∀ n, densityFieldOk ⟨500, 4000, 8000, 200, 200⟩ n) ∧ (∀ n, bladeFieldOk exBlade n) ∧
    (∀ n, zoneFieldOk (.dflt 15) n) ∧
    (DensityEntry.fits ⟨500, 4000, 8000, 200, 200⟩ ∧ BladeEntry.fits exBlade ∧ ZoneEntry.fits (.rect 5 0 4 0 0) ∧
     ZoneEntry.standsAt (.rect 5 0 4 0 0) 16 ∧ ZoneEntry.standsAt (.dflt 15) 0) := by
  refine ⟨by simp [densityFieldOk, class3], ?_, by simp [zoneFieldOk], ?_, by simp [bladeFieldOk], ?_, ?_, ?_, ?_, ?_⟩
  · intro m hm; interval_cases m <;> simp [densityFieldOk, class3]
  · intro m hm; interval_cases m <;> simp [zoneFieldOk]
  · intro m hm; interval_cases m <;> simp [bladeFieldOk, exBlade]
  · intro n; unfold densityFieldOk; split <;> decide
  · intro n; unfold bladeFieldOk; split <;> decide
  · intro n
    match n with
    | 0 => simp [zoneFieldOk]
    | 1 => simp [zoneFieldOk]
    | k + 2 => simp [zoneFieldOk]
  · simp [DensityEntry.fits, BladeEntry.fits, ZoneEntry.fits, ZoneEntry.standsAt, exBlade]

/-- A key replaced and a key added. -/
theorem witness_TableDataIsJudged_key :
    keysAscend exDensity = true ∧ (lookupKey 3 exDensity).isSome = true ∧ lookupKey 4 exDensity = none ∧ 3 ≠ 4 := by
  decide

/-- A DENSITY close that leaves class 3 alone, a ZONE close of no entry, a BLADE close with the Executor in CUT. -/
theorem witness_TableCloseIsJudged :
    Takes 10 exSetup ⟨10, 7, u8 1 ++ tagBytes (Staged.density [(3, class3)]).crc⟩ []
      (holding 10 (u8 1 ++ tagBytes (Staged.density [(3, class3)]).crc)
        (withLoad ⟨.density [(3, class3)], none⟩ parked)) ∧
    ((Staged.density [(3, class3)]).count = 1 ∧ (withResponses 15 parked).report.responses.length < 16 ∧
     classesPresent parked.tables.zone [(3, class3)] = true ∧ parked.planner.stream = .noBlock ∧
     zonePresent plainZone = true ∧ classesPresent plainZone parked.tables.density = true ∧
     (working .cut (.cut cut31)).executor.state ≠ .idle ∧ (working .cut (.cut cut31)).planner.stream = .noBlock) := by
  refine ⟨by constructor <;> decide +kernel, by decide +kernel⟩

/-- A BLADE close with nothing held or executing and an action pending. -/
theorem witness_TableCloseIsJudged_blade :
    let s := holding 10 (u8 1 ++ tagBytes (Staged.blade [(0, exBlade)]).crc)
      (withLoad ⟨.blade [(0, exBlade)], none⟩ { parked with planner := { parked.planner with actions := [.mark 3] } })
    Takes 10 exSetup ⟨10, 7, u8 1 ++ tagBytes (Staged.blade [(0, exBlade)]).crc⟩ [] s ∧
    ((Staged.blade [(0, exBlade)]).count = 1 ∧ s.planner.stream = .noBlock ∧ s.planner.window = [] ∧
     s.executor.queue = [] ∧ s.executor.state = .idle ∧ s.planner.actions ≠ [] ∧
     s.report.responses.length < 16) := by
  refine ⟨by constructor <;> decide +kernel, by decide +kernel⟩

/-- A BLADE close that waits, with two CUT records in the window, the memory in window and room for one. -/
theorem witness_TableCloseIsJudged_waits :
    let b := u8 1 ++ tagBytes (Staged.blade [(0, exBlade)]).crc
    let s := holding 10 b (withLoad ⟨.blade [(0, exBlade)], none⟩
      (withExec { running.executor with queue := List.replicate 31 ⟨9, [], .actions⟩ }
        { running with planner := { running.planner with
            window := [⟨⟨31, [], .cut cut31⟩, 0, false⟩, ⟨⟨33, [], .cut cut33⟩, 200, false⟩]
            memory := .inWindow 0 200 } }))
    Takes 10 exSetup ⟨10, 7, b⟩ [] s ∧ s.planner.stream = .noBlock ∧ s.planner.window ≠ [] ∧
    s.planner.actions = [] ∧ s.planner.memory = .inWindow 0 200 ∧
    (s.planner.window.filterMap fun w => w.record.body.cut?).getLast? = some cut33 := by
  refine ⟨by constructor <;> decide +kernel, by decide, by decide, by decide, by decide, by decide⟩

/-- A failed load; counts and CRCs that differ; a DENSITY load without class 3; a ZONE load in a block. -/
theorem witness_TableCloseIsJudged_refused :
    Takes 10 exSetup ⟨10, 7, 0 :: tagBytes 0xFFFF⟩ []
      (holding 10 (0 :: tagBytes 0xFFFF) (withLoad ⟨.density [], none⟩ inBlock)) ∧
    ((withResponses 15 inBlock).report.responses.length < 16 ∧
     (withLoad ⟨.density [], some (.badIndex 16)⟩ inBlock).tables.load = some ⟨.density [], some (.badIndex 16)⟩ ∧
     (1 : Byte).toNat ≠ (Staged.density []).count ∧ (0 : Byte).toNat = (Staged.density []).count ∧
     (0xFFFE : BitVec 16) ≠ (Staged.density []).crc ∧ (0xFFFF : BitVec 16) = (Staged.density []).crc ∧
     keepsLaw (.density []) inBlock.tables = false ∧ keepsLaw (.zone []) inBlock.tables = true ∧
     (Staged.zone []).needsNoBlock = true ∧ inBlock.planner.stream ≠ .noBlock ∧
     inContour.planner.stream = .inContour) := by
  refine ⟨by constructor <;> decide +kernel, by decide +kernel⟩

/-- A TABLE-CLOSE and a TABLE-DATA with no load open, outside a contour and in one. -/
theorem witness_TableCloseIsJudged_noLoad :
    Takes 10 exSetup ⟨10, 7, [0, 255, 255]⟩ [] (holding 10 [0, 255, 255] inBlock) ∧
    Takes 9 exSetup ⟨9, 7, [0]⟩ [] (holding 9 [0] inBlock) ∧
    Takes 10 exSetup ⟨10, 7, [0, 255, 255]⟩ [] (holding 10 [0, 255, 255] inContour) ∧
    (inBlock.tables.load = none ∧ inBlock.planner.stream = .inBlock ∧ inContour.tables.load = none ∧
     inContour.planner.stream = .inContour ∧ (withResponses 15 inBlock).report.responses.length < 16) := by
  refine ⟨by constructor <;> decide +kernel, by constructor <;> decide +kernel, by constructor <;> decide +kernel,
    by decide⟩

theorem witness_BladeTableCommits :
    (stalled parked).part.inReset = false ∧ (stalled parked).tables.waiting = some ⟨some exBlade, 9⟩ ∧
    (stalled parked).planner.window = [] ∧ (stalled parked).executor.queue = [] ∧
    (stalled parked).executor.state = .idle ∧ (withResponses 15 (stalled parked)).report.responses.length < 16 ∧
    (stalled (cutting 0 0)).executor.queue ≠ [] := by decide

theorem witness_ZoneLawIsKept : parked.tables.consistent ∧ step parked = .next parked := by
  refine ⟨by unfold TableStore.consistent; decide, rfl⟩

theorem answerable_reset : Answerable (withResponses 15 State.reset) := by constructor <;> decide
theorem answerable_parked : Answerable (withResponses 15 parked) := by constructor <;> decide
theorem reaches_parked : Reaches (withResponses 15 parked) := by constructor <;> decide
theorem reaches_running : Reaches (withResponses 15 running) := by constructor <;> decide

/-- All fields in range, at the ends of their ranges; and field 13 the first out of its range. -/
theorem witness_SetupIsJudgedAsAWhole :
    Answerable (withResponses 15 State.reset) ∧ State.reset.part.state = .unconfigured ∧
    State.reset.part.stopInput = false ∧ parked.part.state ≠ .unconfigured ∧
    (∀ n, n ≤ 14 → setupFieldOk
      ⟨4, 20000, 20000, 1000, 500, 4000000, 2500000, 800000, 800000, 799999, 50000, 63, 59, 255⟩ n) ∧
    ¬ setupFieldOk { exSetup with paceLow := 45 } 13 ∧
    (∀ m, m < 13 → setupFieldOk { exSetup with paceLow := 45 } m) := by
  refine ⟨answerable_reset, by decide, by decide, by decide, ?_, ?_, ?_⟩
  · intro n hn
    interval_cases n <;> simp [setupFieldOk]
  · simp [setupFieldOk, exSetup]
  · intro m hm
    interval_cases m <;> simp [setupFieldOk, exSetup]

theorem witness_SetupIsJudgedAsAWhole_stays : parked.part.state ≠ .unconfigured ∧ Instr.bladeTableCommit ≠ .reset ∧
    Instr.bladeTableCommit ≠ .resetReleased ∧ exec .bladeTableCommit parked = .next parked := by
  refine ⟨by decide, by decide, by decide, rfl⟩

/-- With and without a setup record and a blade table; ids 0 and 4; items 0 and 5. -/
theorem witness_QueriesAreAnswered :
    Answerable (withResponses 15 parked) ∧ Answerable (withResponses 15 State.reset) ∧
    parked.tables.blade = some exBlade ∧ State.reset.tables.blade = none ∧ parked.part.setup = some exSetup ∧
    State.reset.part.setup = none ∧ (0 : Byte) ≠ 1 ∧ (4 : Byte) ≠ 3 ∧ (0 : Byte).toNat = 0 ∧ 4 < (5 : Byte).toNat :=
  ⟨answerable_parked, answerable_reset, by decide⟩

theorem witness_OverrideAndEventMask :
    Reaches (withResponses 15 parked) ∧ Answerable (withResponses 15 State.reset) := ⟨reaches_parked, answerable_reset⟩

/-- In DWELL with one millisecond of the timeout left, and in STANDOFF at the clear Z. -/
def dwelling : State :=
  withExec { (working .dwell .actions).executor with current := none, dwellTimer := .running 499 500 } running
def standingOff : State :=
  withExec { (working (.standoff false) .actions).executor with
    current := none, position := some ⟨200000, 150000, 170000, 0⟩ } running

theorem witness_HaltAsksForHold :
    Reaches (withResponses 15 running) ∧ Reaches parked ∧ Reaches (working (.hold false) .actions) ∧
    Reaches (cutting 0 2) ∧ Reaches dwelling ∧ Reaches standingOff ∧
    (parked.part.state ≠ .running ∧ running.part.state = .running ∧
     (working (.hold false) .actions).executor.state = .hold false ∧
     (cutting 0 2).part.state = .running ∧ (cutting 0 2).executor.state = .cut ∧
     (cutting 0 2).executor.haltRequest = false ∧ (cutting 0 2).part.abortFlag = false ∧
     running.executor.state = .idle ∧ running.executor.inMaterial = false ∧
     running.executor.standoffPending = false ∧
     dwelling.executor.state = .dwell ∧ dwelling.executor.dwellTimer = .running 499 500 ∧
     dwelling.executor.standoffPending = false ∧ dwelling.executor.haltRequest = false ∧
     standingOff.executor.state = .standoff false ∧ standingOff.executor.inMaterial = false ∧
     standingOff.executor.standoffPending = false) := by
  refine ⟨reaches_running, ?_, ?_, ?_, ?_, ?_, by decide⟩ <;> constructor <;> decide

/-- A HALT in DWELL with the expiry due and not yet taken. -/
theorem witness_HaltAsksForHold_due :
    let due := withExec { dwelling.executor with dwellTimer := .running 500 500 } dwelling
    Reaches due ∧ due.executor.state = .dwell ∧ due.executor.dwellTimer ≠ .stopped ∧
    due.executor.dwellTimer.expired = true ∧ due.executor.standoffPending = false := by
  refine ⟨by constructor <;> decide, by decide⟩

/-- It keeps the timer (R126), and the next frame takes the expiry in HOLD (R127). -/
theorem test_halt_keeps_a_due_dwell_timer :
    let due := withExec { dwelling.executor with dwellTimer := .running 500 500 } dwelling
    after (.halt 9) due (fun t => t.executor.state == .hold false && t.executor.dwellTimer == .running 500 500 &&
      after .frame t (fun u => u.executor.state == .retract .standoff && u.executor.beganInHold)) = true := by
  decide +kernel

/-- The Executor in HOLD or STANDOFF, with the record that was stopped. -/
def heldAt (st : ExecState) (cur : Option Current) : State :=
  withExec { (working st .actions).executor with current := cur } running

/-- A part-done CUT, a part-done TRAVEL, a record waiting, and no record out of material. -/
theorem witness_ResumeLeavesHold :
    let cut : Current := ⟨⟨31, [], .cut cut31⟩, 500, 0, 2000, 0, 0, 0, false⟩
    let travel : Current := ⟨⟨31, [], .travel 210000 150000 (some 0)⟩, 500, 0, 10000, 200000, 150000, 0, false⟩
    let queued := withExec { (heldAt (.hold false) none).executor with queue := [⟨32, [.mark 32], .actions⟩] } running
    let raised := withExec { standingOff.executor with state := .hold false } running
    Reaches parked ∧ Reaches (heldAt (.standoff false) none) ∧ Reaches (heldAt (.hold true) none) ∧
    Reaches (heldAt (.standoff true) none) ∧ Reaches (heldAt (.hold false) none) ∧
    Reaches (heldAt (.hold false) (some cut)) ∧ Reaches (heldAt (.hold false) (some travel)) ∧ Reaches queued ∧
    Reaches raised ∧
    (parked.part.state ≠ .running ∧ (heldAt (.standoff false) none).executor.state ≠ .standoff true ∧
     (heldAt (.hold false) none).part.state = .running ∧
     (heldAt (.hold true) none).executor.state = .hold true ∧
     (heldAt (.standoff true) none).executor.state = .standoff true ∧
     (heldAt (.hold false) (some cut)).executor.current = some cut ∧
     (heldAt (.hold false) (some travel)).executor.current = some travel ∧
     (heldAt (.hold false) none).executor.current = none ∧ (heldAt (.hold false) none).executor.inMaterial = true ∧
     (heldAt (.hold false) none).executor.queue = [] ∧
     (heldAt (.hold false) none).tables.blade = some exBlade ∧ 0 < exBlade.dwellTimeout ∧
     queued.executor.queue ≠ [] ∧ queued.executor.inMaterial = true ∧ raised.executor.current = none ∧
     raised.executor.inMaterial = false ∧ raised.executor.state = .hold false) := by
  refine ⟨?_, ?_, ?_, ?_, ?_, ?_, ?_, ?_, ?_, by decide⟩ <;> constructor <;> decide

/-- No record out of material with nothing held: with and without a waiting blade table, 14 and 15 responses waiting. -/
theorem witness_ResumeLeavesHold_parked :
    let raised := withExec { standingOff.executor with state := .hold false } running
    (∀ s ∈ [withResponses 14 (stalled raised), withResponses 15 (stalled raised), withResponses 15 raised],
      (s.part.inReset = false ∧ s.part.state = .running ∧ s.report.responses.length < 16 ∧
       s.report.responses.all (fun p => p != .reserved) = true) ∧
      s.executor.state = .hold false ∧ s.executor.current = none ∧ s.executor.inMaterial = false ∧
      s.planner.window = [] ∧ s.executor.queue = [] ∧ s.planner.stream = .noBlock ∧ s.part.abortFlag = false) ∧
    (stalled raised).tables.waiting = some ⟨some exBlade, 9⟩ ∧ raised.tables.waiting = none ∧
    (withResponses 14 raised).report.responses.length < 15 ∧
    (withResponses 15 raised).report.responses.length = 15 := by decide

theorem witness_AbortDropsTheProgram :
    Reaches (cutting 500 1) ∧ Reaches (withState .fault parked) ∧ Reaches parked ∧ Reaches running ∧
    ((withState .fault parked).part.state = .fault ∧ parked.part.state = .parked ∧
     (cutting 500 1).part.state = .running ∧ (cutting 500 1).part.abortFlag = false ∧
     (cutting 500 1).executor.state = .cut ∧ running.part.state = .running ∧ running.part.abortFlag = false ∧
     running.executor.state = .idle ∧ running.executor.inMaterial = false) := by
  refine ⟨?_, ?_, ?_, ?_, by decide⟩ <;> constructor <;> decide

/-- In DWELL and HOLD, one micrometre below the top; in STANDOFF and HOLD out of material, at the top. -/
theorem witness_AbortDropsTheProgram_atRest :
    let held := fun st z => withExec { (heldAt st none).executor with position := some ⟨200000, 150000, z, 0⟩ } running
    (∀ q ∈ [(ExecState.dwell, 149999), (.hold false, 149999), (.standoff true, 150000), (.hold true, 150000)],
      (held q.1 q.2).part.inReset = false ∧ (held q.1 q.2).part.state = .running ∧
      (held q.1 q.2).part.abortFlag = false ∧ (held q.1 q.2).executor.state = q.1 ∧
      (held q.1 q.2).executor.inMaterial = decide (q.2 < 150000)) ∧
    (held .dwell 149999).executor.block = some exBlockExec ∧ (held .dwell 149999).executor.heldPlunge = some 40 ∧
    149999 < exBlockExec.clear ∧ Reaches (held .dwell 149999) := by
  refine ⟨by decide, by decide, by decide, by decide, by constructor <;> decide⟩

/-- In FAULT, with the Executor STOPPED at `z`. -/
def faulted (z : Nat) : State :=
  withState .fault { working .stopped .actions with
    executor := { (working .stopped .actions).executor with position := some ⟨200000, 150000, z, 0⟩, current := none } }

theorem witness_ClearFaultIsJudged :
    Answerable (faulted 45000) ∧ (faulted 45000).part.state = .fault ∧ (faulted 45000).part.stopInput = false ∧
    (faulted 45000).executor.state = .stopped ∧ (faulted 45000).tables.waiting = none ∧
    ({ faulted 45000 with part := { (faulted 45000).part with stopInput := true } } : State).part.stopInput = true ∧
    (working .stopping (.cut cut31)).executor.state = .stopping ∧
    (working .stopping (.cut cut31)).executor.speed = 0 ∧ State.reset.part.state = .unconfigured := by
  refine ⟨by constructor <;> decide, by decide⟩

/-- One micrometre below the clear Z, at it, and without a position. -/
theorem witness_ClearFaultRecovers :
    Reaches (faulted 169999) ∧ (faulted 169999).part.state = .fault ∧ (faulted 169999).executor.state = .stopped ∧
    (faulted 169999).executor.block = some exBlockExec ∧ 169999 < exBlockExec.clear ∧ exBlockExec.clear ≤ 170000 ∧
    (withState .fault State.reset).executor.position = none := by
  refine ⟨by constructor <;> decide, by decide⟩

theorem witness_StopInputRaisesStop :
    (cutting 500 1).part.inReset = false ∧ (cutting 500 1).part.stopInput = false ∧
    State.reset.part.state = .unconfigured ∧ (faulted 45000).part.state = .fault ∧
    (cutting 500 1).part.state = .running ∧ (cutting 500 1).executor.state = .cut ∧
    (cutting 500 1).executor.position ≠ none ∧ 0 < (cutting 500 1).executor.speed ∧
    State.reset.executor.position = none ∧
    ({ parked with part := { parked.part with stopInput := true } } : State).part.stopInput = true := by decide

/-! ### States of a part that is worked -/

theorem framing_iff (b : BladeEntry) (r : Setup) (s : State) : Framing b r s ↔
    s.part.inReset = false ∧ s.port.sending = true ∧ s.part.setup = some r ∧ s.tables.blade = some b :=
  ⟨fun h => ⟨h.running, h.sending, h.setup, h.blade⟩, fun h => ⟨h.1, h.2.1, h.2.2.1, h.2.2.2⟩⟩

theorem quiet_iff (s : State) : Quiet s ↔
    s.governor.evalDue = none ∧ s.governor.jamDue = false ∧ s.port.linkDue = false ∧
    s.executor.lockTimer.expired = false ∧ s.executor.trimTimer.expired = false ∧
    s.executor.dwellTimer.expired = false :=
  ⟨fun h => ⟨h.evalDue, h.jamDue, h.linkDue, h.lock, h.trim, h.dwell⟩,
   fun h => ⟨h.1, h.2.1, h.2.2.1, h.2.2.2.1, h.2.2.2.2.1, h.2.2.2.2.2⟩⟩

theorem calm_iff (s : State) : Calm s ↔
    Quiet s ∧ s.executor.haltRequest = false ∧ s.part.abortFlag = false ∧ s.executor.stepDone = false :=
  ⟨fun h => ⟨h.toQuiet, h.noHalt, h.noAbort, h.stepDone⟩, fun h => ⟨h.1, h.2.1, h.2.2.1, h.2.2.2⟩⟩

/-- In DWELL, or in `st`, at height `z`, in a dry-run block or not, under blade table `b`, with `cur` done last and
`queue` waiting. -/
def freeAt (b : BladeEntry) (st : ExecState) (z : Nat) (dry : Bool) (cur : Option Current) (queue : List Record) :
    State :=
  { withExec { (working st .actions).executor with
      position := some ⟨200000, 150000, z, 0⟩
      block := some ⟨150000, 170000, dry⟩
      current := cur
      queue := queue } running with
    tables := { exTables with blade := some b } }

/-- A record that is done. -/
def done : Current := ⟨⟨30, [], .actions⟩, 0, 0, 0, 0, 0, 0, true⟩

theorem free_freeAt (b : BladeEntry) (st : ExecState) (z : Nat) (dry : Bool) (cur : Option Current)
    (queue : List Record) (h : cur = none ∨ cur = some done) :
    Free b exSetup ⟨200000, 150000, z, 0⟩ (freeAt b st z dry cur queue) := by
  refine { running := rfl, sending := rfl, setup := rfl, blade := rfl, evalDue := rfl, jamDue := rfl, linkDue := rfl,
           lock := rfl, trim := rfl, dwell := rfl, noHalt := rfl, noAbort := rfl, stepDone := rfl, position := rfl,
           free := ?_, noReentry := rfl, noStandoff := rfl }
  rcases h with rfl | rfl <;> rfl

/-- Every record that can be begun, at the boundary of its condition: the height of a BLOCK-START and of the retracts, a
TRAVEL of one micrometre and one of one centidegree, a turn of one centidegree, and a CUT of three. -/
theorem witness_FrameBeginsTheNextRecord :
    let begun := fun (st : ExecState) (z : Nat) (dry : Bool) (b : Body) =>
      Free exBlade exSetup ⟨200000, 150000, z, 0⟩ (freeAt exBlade st z dry none [⟨31, [.mark 31], b⟩]) ∧
      st.begins = true
    begun .idle 169999 false (.blockStart 150000 170000 false 20) ∧
    begun .idle 170001 false (.blockStart 150000 170000 true 20) ∧
    begun .dwell 45000 false (.travel 200001 150000 (some 0)) ∧
    begun .idle 170000 true (.travel 200000 150000 (some 1)) ∧
    begun .travel 170000 false (.enter 200000 150000 (some 0) 40) ∧
    begun .plunge 45000 false (.cut { cut34 with len := 3 }) ∧
    begun .cut 45000 false (.pivot ⟨.swivel, 1, false, true, none⟩) ∧
    begun .cut 45000 true (.pivot ⟨.lift, -1, true, true, some 40⟩) ∧
    begun .cut 169999 false (.pivot ⟨.lift, 18000, true, false, some 40⟩) ∧ begun .cut 169999 false (.leave 40 true) ∧
    (¬ (vecLength 1 0 = 0 ∧ Machine.rotationOf 0 0 = 0) ∧ ¬ (vecLength 0 0 = 0 ∧ Machine.rotationOf 0 1 = 0) ∧
     169999 < exBlockExec.clear ∧ 2 * exSetup.period < 3 ∧ reach 2000 160 3 = 160) := by
  refine ⟨?_, ?_, ?_, ?_, ?_, ?_, ?_, ?_, ?_, ?_, by decide +kernel⟩ <;>
    exact ⟨free_freeAt _ _ _ _ _ _ (.inl rfl), rfl⟩

/-- A BLOCK-START and a LEAVE at the clear Z, an ENTER in a dry-run block, a TRAVEL of nothing, a BLOCK-DONE and an
ACTIONS, each before a CUT; no record, in and out of material, at timeouts 500, 1 and 0; an ACTIONS and a BLOCK-DONE
last. -/
theorem witness_ZeroTimeRecordsAndRest :
    let before := fun (z : Nat) (dry : Bool) (b : Body) => Free exBlade exSetup ⟨200000, 150000, z, 0⟩
      (freeAt exBlade .dwell z dry (some done) [⟨31, [.mark 31], b⟩, ⟨33, [], .cut cut34⟩])
    let rests := fun (z timeout : Nat) => Free { exBlade with dwellTimeout := timeout } exSetup ⟨200000, 150000, z, 0⟩
      (freeAt { exBlade with dwellTimeout := timeout } .cut z false (some done) [])
    let last := fun (z : Nat) (b : Body) => Free exBlade exSetup ⟨200000, 150000, z, 0⟩
      (freeAt exBlade .cut z false none [⟨31, [.mark 31], b⟩])
    before 170000 false (.blockStart 150000 170000 false 20) ∧ before 170000 true (.blockStart 150000 170000 true 20) ∧
    before 45000 true (.enter 200000 150000 (some 0) 40) ∧ before 45000 false (.travel 200000 150000 (some 0)) ∧
    before 170000 false (.leave 40 false) ∧ before 45000 false .actions ∧ before 45000 false (.blockDone 20) ∧
    rests 149999 500 ∧ rests 149999 1 ∧ rests 149999 0 ∧ rests 150000 500 ∧
    last 45000 .actions ∧ last 170000 (.blockDone 20) ∧ last 170000 .actions ∧
    (ExecState.dwell.begins = true ∧ ExecState.cut.begins = true ∧ 2 * exSetup.period < cut34.len ∧
     running.planner.window = [] ∧ running.planner.actions = [] ∧ running.planner.stream = .noBlock ∧
     running.tables.waiting = none ∧ (stalled running).tables.waiting = some ⟨some exBlade, 9⟩) := by
  refine ⟨?_, ?_, ?_, ?_, ?_, ?_, ?_, ?_, ?_, ?_, ?_, ?_, ?_, ?_, by decide⟩
  all_goals first
    | exact free_freeAt _ _ _ _ _ _ (.inr rfl)
    | exact free_freeAt _ _ _ _ _ _ (.inl rfl)

/-- An ACTIONS done out of material is followed by IDLE at the start of the next frame (R124), a BLOCK-DONE in its own
frame (Table 3.5). -/
theorem test_idle_after_actions_and_blockDone :
    let s := fun (b : Body) => freeAt exBlade (.retract .leave) 170000 false none [⟨31, [.mark 31], b⟩]
    after .frame (s .actions) (fun t => t.executor.state == .retract .leave && t.part.state == .running &&
      after .frame t (fun u => u.executor.state == .idle && u.part.state == .parked)) = true ∧
    after .frame (s (.blockDone 20)) (fun t => t.executor.state == .idle && t.part.state == .parked) = true := by
  decide +kernel

/-- In STANDOFF at `z`, with `cur` and `queue`. -/
def standing (z : Nat) (cur : Option Current) (queue : List Record) : State :=
  let s := freeAt exBlade (.standoff false) z false cur queue
  withExec { s.executor with reentry := some ⟨200000, 150000, 0, 40⟩ } s

/-- A CUT and a PIVOT waiting, a CUT part done, an ACTIONS, and a LEAVE at the clear Z. -/
theorem witness_StandoffReentersTheFoam :
    let part : Current := ⟨⟨31, [], .cut cut31⟩, 500, 0, 2000, 200000, 150000, 0, false⟩
    ∀ s ∈ [standing 170000 none [⟨33, [], .cut cut33⟩],
        standing 170000 none [⟨33, [], .pivot ⟨.swivel, 5, false, false, none⟩⟩], standing 170000 (some part) [],
        standing 170000 none [⟨33, [.mark 33], .actions⟩], standing 170000 none [⟨33, [], .leave 40 true⟩]],
      Framing exBlade exSetup s ∧ Quiet s ∧
      s.executor.haltRequest = false ∧ s.part.abortFlag = false ∧
      s.executor.position = some ⟨200000, 150000, 170000, 0⟩ ∧ s.executor.standoffPending = false ∧
      s.executor.state = .standoff false ∧ s.executor.stepDone = false ∧ s.executor.reentering = false ∧
      s.executor.reentry = some ⟨200000, 150000, 0, 40⟩ ∧
      (s.executor.free = true ∨ s.executor.current = some part) := by
  simp only [framing_iff, quiet_iff]
  decide

/-- The end of the re-entry plunge, before a CUT of three micrometres and in a CUT with three left. -/
theorem witness_StandoffReentersTheFoam_end :
    let ending := fun (cur : Option Current) (queue : List Record) =>
      let s := freeAt exBlade .plunge 45000 false cur queue
      withExec { s.executor with reentry := some ⟨200000, 150000, 0, 40⟩, reentering := true, stepDone := true } s
    let part : Current := ⟨⟨31, [], .cut cut34⟩, 19997, 0, 20000, 200000, 150000, 0, false⟩
    ∀ s ∈ [ending none [⟨33, [], .cut { cut34 with len := 3 }⟩], ending (some part) []],
      Framing exBlade exSetup s ∧ Quiet s ∧
      s.executor.haltRequest = false ∧ s.part.abortFlag = false ∧ s.executor.standoffPending = false ∧
      s.executor.state = .plunge ∧ s.executor.reentering = true ∧ s.executor.stepDone = true ∧
      (s.executor.free = true ∨ s.executor.current = some part) ∧ 2 * exSetup.period < 3 ∧
      19997 + 2 * exSetup.period < 20000 := by
  simp only [framing_iff, quiet_iff]
  decide

/-- In state `st` at height `z`, with record `b` under way and its step complete. -/
def stepped (st : ExecState) (z : Nat) (b : Body) : State :=
  let s := freeAt exBlade st z false (some ⟨⟨31, [], b⟩, 0, 0, 0, 0, 0, 0, false⟩) []
  withExec { s.executor with stepDone := true } s

/-- A LEAVE with trim; a LIFT with nothing to turn, with one centidegree, with and without trim, one micrometre above
the Z cut. -/
theorem witness_StepsOfARecordFollow :
    ∀ s ∈ [stepped (.retract .leave) 170000 (.leave 40 true),
        stepped (.retract .lift) 170000 (.pivot ⟨.lift, 0, true, false, some 40⟩),
        stepped (.retract .lift) 170000 (.pivot ⟨.lift, 1, false, false, some 40⟩),
        stepped .rotate 170000 (.pivot ⟨.lift, -1, true, true, some 40⟩),
        stepped .rotate 45001 (.pivot ⟨.lift, 18000, false, false, some 40⟩)],
      Framing exBlade exSetup s ∧ Quiet s ∧
      s.executor.position.isSome = true ∧ (s.executor.current.map fun c => c.complete) = some false ∧
      s.executor.stepDone = true ∧ s.executor.reentering = false ∧ exSetup.zCut < 45001 ∧
      (s.executor.block.map fun k => k.dry) = some false := by
  simp only [framing_iff, quiet_iff]
  decide

/-- What may be released behind the record that a frame begins: two of three on starvation, the two due of three, one
of a full window of 24, one where the queue has room for one, and none past a TRAVEL without its heading. -/
theorem witness_FrameBeginsTheNextRecord_releases :
    let entry : WindowEntry := ⟨⟨41, [], .actions⟩, 0, false⟩
    let headless : WindowEntry := ⟨⟨42, [], .travel 200000 150000 none⟩, 0, false⟩
    let s := fun (behind n : Nat) (last : List WindowEntry) (due : Option Nat) (intake : List Packet) =>
      let u := freeAt exBlade .cut 45000 false (some done)
        (⟨33, [], .cut cut34⟩ :: List.replicate behind ⟨40, [], .actions⟩)
      { u with
        planner := { u.planner with window := List.replicate n entry ++ last, releasePoint := due }
        link := { u.link with intake := intake } }
    let starved := s 0 3 [] none []
    let due := s 5 3 [] (some 1) [⟨6, 9, []⟩]
    let full := s 5 24 [] none [⟨6, 9, []⟩]
    let room := s 31 3 [] (some 2) []
    let shut := s 0 1 [headless] (some 1) []
    (∀ u ∈ [starved, due, full, room, shut],
      Framing exBlade exSetup u ∧ Calm u ∧ u.executor.position = some ⟨200000, 150000, 45000, 0⟩ ∧
      u.executor.free = true ∧ u.executor.reentering = false ∧ u.executor.standoffPending = false ∧
      u.executor.state.begins = true ∧ u.part.state = .running ∧ u.part.abortFlag = false ∧
      (u.link.intake ≠ [] ∨ u.planner.actions = [])) ∧
    starved.callsFor 0 = 2 ∧ due.callsFor 5 = 2 ∧ full.callsFor 5 = 1 ∧ room.callsFor 31 = 1 ∧ shut.callsFor 0 = 1 := by
  simp only [framing_iff, calm_iff, quiet_iff]
  decide +kernel

/-- A frame that begins CUT 33 on starvation releases two of the three records in the window (R81, R83). -/
theorem test_frame_releases_two :
    let entry : WindowEntry := ⟨⟨41, [], .actions⟩, 0, false⟩
    let u := freeAt exBlade .cut 45000 false (some done) [⟨33, [], .cut cut34⟩]
    after .frame { u with planner := { u.planner with window := List.replicate 3 entry } }
      (fun t => t.executor.queue == [entry.record, entry.record] && t.planner.window == [entry]) = true := by
  decide +kernel

/-- Every vertical move, one micrometre from its target. -/
theorem witness_VerticalMovesAndTurnsTakeOneStep :
    let moving := fun (st : ExecState) (z target : Nat) (b : Body) (again : Bool) =>
      let s := freeAt exBlade st z false (some ⟨⟨31, [], b⟩, 0, 0, 0, 0, 0, 0, false⟩) []
      withExec { s.executor with zMove := some ⟨target, 40⟩, reentering := again } s
    ∀ s ∈ [moving .plunge 45001 45000 (.enter 200000 150000 (some 0) 40) false,
        moving (.retract .leave) 169999 170000 (.leave 40 true) false,
        moving (.retract .leave) 169999 170000 (.leave 40 false) false,
        moving (.retract .lift) 169999 170000 (.pivot ⟨.lift, 1, false, false, some 40⟩) false,
        moving .travel 170001 170000 (.blockStart 150000 170000 true 20) false,
        moving .plunge 45001 45000 (.cut cut31) true, moving (.retract .standoff) 169999 170000 .actions false,
        moving (.retract .abort) 169999 170000 .actions false, moving (.retract .recover) 169999 170000 .actions false],
      Framing exBlade exSetup s ∧ Quiet s ∧
      s.executor.stepDone = false ∧ s.executor.position.isSome = true ∧ s.executor.zMove.isSome = true ∧
      (s.executor.current.map fun c => c.complete) = some false ∧
      (s.executor.reentering = true → s.executor.state = .plunge) := by
  simp only [framing_iff, quiet_iff]
  decide

/-- A SWIVEL and a ROTATE with one step to turn, and with one more. -/
theorem witness_VerticalMovesAndTurnsTakeOneStep_turn :
    let turning := fun (st : ExecState) (dry : Bool) (turn : Int) =>
      freeAt exBlade st 45000 dry
        (some ⟨⟨31, [], .pivot ⟨.swivel, -9, false, false, none⟩⟩, 0, 0, 0, 0, 0, turn, false⟩) []
    ∀ s ∈ [turning .swivel false (-9), turning .swivel false 10, turning .rotate false 18, turning .rotate true (-19)],
      Framing exBlade exSetup s ∧ Quiet s ∧
      s.executor.stepDone = false ∧ s.executor.position.isSome = true ∧
      (s.executor.current.map fun c => c.complete) = some false ∧ s.executor.reentering = false ∧
      (s.executor.state = .swivel ∨ s.executor.state = .rotate) := by
  simp only [framing_iff, quiet_iff]
  decide

/-- A TRAVEL with one micrometre left, one with its turn alone left, one that slows at speed 1; a CUT that slows, and a
CUT and a TRAVEL in STOPPING. -/
theorem witness_TravelAndSlowingFrames :
    let path := fun (st : ExecState) (b : Body) (dist speed len : Nat) (turn : Int) (halt : Bool) =>
      let s := freeAt exBlade st 170000 false (some ⟨⟨31, [], b⟩, dist, speed, len, 200000, 150000, turn, false⟩) []
      withExec { s.executor with haltRequest := halt } s
    let travel : Body := .travel 210000 150000 (some 0)
    ∀ s ∈ [path .travel travel 9999 1 10000 0 false, path .travel travel 10000 0 10000 (-1) false,
        path .travel travel 10000 0 10000 (-1) true, path .travel travel 5000 1 10000 7 true,
        path .cut (.cut cut31) 1500 1 2000 0 true, path .stopping (.cut cut31) 1500 1 2000 0 false,
        path .stopping travel 5000 1 10000 7 false],
      Framing exBlade exSetup s ∧ Quiet s ∧
      s.executor.position.isSome = true ∧ (s.executor.current.map fun c => c.complete) = some false ∧
      s.executor.reentering = false ∧ s.executor.stepDone = false ∧
      (s.executor.haltRequest = true → (s.executor.current.map fun c =>
        decide (0 < c.speed ∨ c.len ≤ c.dist)) = some true) ∧
      (s.executor.state = .travel ∨
        (s.executor.current.map fun c => decide (0 < c.speed ∧ c.dist < c.len)) = some true) := by
  simp only [framing_iff, quiet_iff]
  decide

/-- Frames that reach the end of their record: a CUT at exit 0 before another CUT, at its exit before a LEAVE and before
nothing, under a halt request and in STOPPING, and a TRAVEL in STOPPING; one micrometre or less from its end. -/
theorem witness_TravelAndSlowingFrames_end :
    let path := fun (st : ExecState) (b : Body) (dist : Nat) (halt : Bool) (queue : List Record) =>
      let s := freeAt exBlade st 45000 false (some ⟨⟨31, [], b⟩, dist, 200, 2000, 200000, 150000, 0, false⟩) queue
      withExec { s.executor with haltRequest := halt } s
    let leave : Record := ⟨35, [], .leave 40 false⟩
    (∀ s ∈ [path .cut (.cut { cut31 with exit := 0 }) 2000 true [⟨33, [], .cut cut33⟩],
        path .cut (.cut cut31) 1999 true [leave], path .cut (.cut cut31) 1999 true [],
        path .stopping (.cut cut31) 1999 false [leave],
        path .stopping (.travel 202000 150000 (some 0)) 2000 false []],
      Framing exBlade exSetup s ∧ Quiet s ∧ s.executor.position.isSome = true ∧ s.executor.reentering = false ∧
      s.executor.stepDone = false ∧ (s.executor.current.map fun c => (c.complete, decide (0 < c.speed))) =
        some (false, true)) ∧
    2000 ≤ 1999 + min (200 - max 1 (exSetup.accel * exSetup.period / 1000)) (reach exSetup.accel 200 1) *
      exSetup.period ∧
    2000 ≤ 1999 + min (200 - max 1 (exSetup.stopDecel * exSetup.period / 1000)) (reach exSetup.accel 200 1) *
      exSetup.period ∧
    leave.body ≠ .actions ∧ leave.body.cut? = none := by
  simp only [framing_iff, quiet_iff]
  decide +kernel

/-- CUT 31 at 0 and speed 0, whose first frame, of speed 2, ends within it; one micrometre before its end at exit 0; and
before a LEAVE. -/
theorem witness_CutFrameFollowsItsSpeedRule :
    let ending := fun (c : CutRecord) (queue : List Record) =>
      freeAt exBlade .cut 45000 false (some ⟨⟨31, [], .cut c⟩, 1999, 200, 2000, 200000, 150000, 0, false⟩) queue
    (∀ s ∈ [cutting 0 0, ending { cut31 with exit := 0 } [⟨33, [], .cut cut33⟩],
        ending cut31 [⟨33, [], .leave 40 true⟩]],
      Framing exBlade exSetup s ∧ Calm s ∧
      s.executor.position.isSome = true ∧ (s.executor.current.map fun c => c.complete) = some false ∧
      s.executor.reentering = false ∧ s.executor.state = .cut) ∧ 0 + 2 * exSetup.period < 2000 ∧
    2000 ≤ 1999 + 1 * exSetup.period := by
  simp only [framing_iff, calm_iff, quiet_iff]
  decide

/-- The look-ahead in CUT 31, at its end and one micrometre beyond, and beyond the last CUT. -/
theorem witness_CutFrameFollowsItsSpeedRule_ahead :
    let cuts := pathCuts cut31 [⟨32, [], .actions⟩, ⟨33, [], .cut cut33⟩]
    let upTo := fun n : Nat => ((cuts.take n).map fun k => k.len).sum
    cuts[0]? = some cut31 ∧ 0 + 2000 ≤ upTo 1 ∧ cuts[1]? = some cut33 ∧ upTo 1 < 1 + 2000 ∧ 1 + 2000 ≤ upTo 2 ∧
    cuts.getLast? = some cut33 ∧ upTo cuts.length < 301 + 2000 := by decide

/-- An excess of 0 and of 299 µm into CUT 33; past an ACTIONS; past CUT 33, at its very end; and in STOPPING. -/
theorem witness_CarryEntersTheNextCut :
    let s := fun (queue : List Record) =>
      withExec { (cutting 1850 200).executor with queue := queue } (cutting 1850 200)
    let t := withState .fault (withExec { (s [⟨33, [], .cut cut33⟩]).executor with state := .stopping } running)
    let mark : Record := ⟨32, [.mark 32], .actions⟩
    0 < cut31.exit ∧ (s [⟨33, [], .cut cut33⟩]).executor.queue = [] ++ ⟨33, [], .cut cut33⟩ :: [] ∧
    0 < 0 + cut33.len ∧ 299 < 0 + cut33.len ∧ (s []).part.state = .running ∧ (s []).executor.state = .cut ∧
    (s [mark, ⟨33, [], .cut cut33⟩]).executor.queue = [mark] ++ ⟨33, [], .cut cut33⟩ :: [] ∧ mark.body = .actions ∧
    (s [⟨33, [], .cut cut33⟩, ⟨34, [], .cut cut34⟩]).executor.queue =
      [⟨33, [], .cut cut33⟩] ++ ⟨34, [], .cut cut34⟩ :: [] ∧
    0 < cut33.exit ∧ cut33.len ≤ 300 ∧ 300 < 300 + cut34.len ∧
    t.executor.state = .stopping ∧ t.part.state = .fault := by decide

/-- A frame at 200 mm/s that ends at the very start of CUT 33, 199 µm into it, past an ACTIONS and a CUT of 199 µm at
the very start of CUT 34, and at the end of a CUT of 199 µm with exit 0; and a frame of a fault stop, at 194 mm/s. -/
theorem witness_CarryEntersTheNextCut_frame :
    let s := fun (d : Nat) (queue : List Record) =>
      withExec { (cutting d 200).executor with queue := queue } (cutting d 200)
    let fast := fun d : Nat => max 1 (min (min (200 + max 1 (exSetup.accel * exSetup.period / 1000))
      (max 1 (cut31.cap * min (s d []).governor.operator (s d []).governor.override / 100)))
      (reach exSetup.accel cut31.exit (2000 - d)))
    let short := { cut33 with len := 199 }
    let mark : Record := ⟨32, [.mark 32], .actions⟩
    let stop := withState .fault (withExec { (s 1806 [⟨33, [], .cut cut33⟩]).executor with state := .stopping } running)
    (∀ u ∈ [s 1800 [⟨33, [], .cut cut33⟩], s 1999 [⟨33, [], .cut cut33⟩],
        s 1999 [mark, ⟨33, [], .cut short⟩, ⟨34, [], .cut cut34⟩],
        s 1999 [⟨33, [], .cut { short with exit := 0 }⟩], stop],
      Framing exBlade exSetup u ∧ Quiet u ∧ u.executor.stepDone = false ∧ u.executor.position.isSome = true ∧
      (u.executor.current.map fun c => (c.complete, c.speed, c.len)) = some (false, 200, 2000) ∧
      u.executor.haltRequest = false ∧ u.part.abortFlag = false ∧ u.executor.reentering = false) ∧
    ((s 1800 []).executor.state = .cut ∧ (s 1800 []).part.state = .running ∧ stop.executor.state = .stopping ∧
     stop.part.state = .fault ∧ 0 < cut31.exit ∧ 0 < short.exit) ∧
    (fast 1800 = 200 ∧ fast 1999 = 200 ∧
     min (200 - max 1 (exSetup.stopDecel * exSetup.period / 1000)) (reach exSetup.accel cut31.exit (2000 - 1806)) =
       194) ∧
    (2000 + 0 ≤ 1800 + 200 * exSetup.period ∧ 1800 + 200 * exSetup.period - 2000 - 0 < cut33.len ∧
     2000 + (0 + 199) ≤ 1999 + 200 * exSetup.period ∧ 1999 + 200 * exSetup.period - 2000 - 199 = 0 ∧
     short.len ≤ 1999 + 200 * exSetup.period - 2000 - 0 ∧ 2000 + 0 ≤ 1806 + 194 * exSetup.period) := by
  simp only [framing_iff, quiet_iff]
  decide +kernel

/-- The end of the carry: at CUT 33 with exit 0, before a LEAVE, and before nothing with the window empty; the same
frame under a halt request. -/
theorem witness_CarryEntersTheNextCut_end :
    let s := fun (d : Nat) (halt : Bool) (queue : List Record) =>
      withExec { (cutting d 200).executor with queue := queue, haltRequest := halt } (cutting d 200)
    let mark : Record := ⟨32, [.mark 32], .actions⟩
    let leave : Record := ⟨35, [], .leave 40 false⟩
    let short := { cut33 with len := 150 }
    (∀ u ∈ [s 1999 true [⟨33, [], .cut { short with exit := 0 }⟩, ⟨34, [], .cut cut34⟩],
        s 1999 false [⟨33, [], .cut short⟩, leave], s 1999 true [⟨33, [], .cut short⟩],
        s 1999 true [mark, ⟨33, [], .cut cut33⟩]],
      Framing exBlade exSetup u ∧ Quiet u ∧ u.executor.stepDone = false ∧ u.executor.position.isSome = true ∧
      (u.executor.current.map fun c => (c.complete, c.speed, c.len)) = some (false, 200, 2000) ∧
      u.planner.window = [] ∧ u.planner.actions = [] ∧ u.executor.reentering = false) ∧
    (let v := min (200 - max 1 (exSetup.accel * exSetup.period / 1000)) (reach exSetup.accel cut31.exit 1)
     2000 + 0 ≤ 1999 + v * exSetup.period ∧ short.len ≤ 1999 + v * exSetup.period - 2000 - 0 ∧
     1999 + v * exSetup.period - 2000 - 0 < cut33.len) ∧
    leave.body ≠ .actions ∧ leave.body.cut? = none := by
  simp only [framing_iff, quiet_iff]
  decide +kernel

/-- The frame of Table 7.3, at a period of 4 ms, ends in CUT 34; at CUT 33 the way goes on. -/
theorem witness_CarryEntersTheNextCut_table :
    let r := { exSetup with period := 4 }
    let s := { cutting 1850 200 with part := { (cutting 1850 200).part with setup := some r } }
    let v := max 1 (min (min (200 + max 1 (r.accel * r.period / 1000)) (max 1 (cut31.cap * min 100 100 / 100)))
      (reach r.accel cut31.exit (2000 - 1850)))
    (Framing exBlade r s ∧ Quiet s) ∧ v = 200 ∧ 2000 + (0 + 300) ≤ 1850 + v * r.period ∧
    1850 + v * r.period - 2000 - 300 = 350 ∧ 350 < cut34.len ∧ ¬ 1850 + v * r.period - 2000 - 0 < cut33.len ∧
    ¬ cut33.exit = 0 := by
  simp only [framing_iff, quiet_iff]
  decide +kernel

/-- The carry past CUT 33 of 199 µm with records in the window, of a part without an abort stop and of one with it, at
the speed the slowing leaves. -/
theorem witness_CarryEntersTheNextCut_releases :
    let entry : WindowEntry := ⟨⟨41, [], .actions⟩, 0, false⟩
    let s := fun abort : Bool =>
      let u := withExec { (cutting 1999 200).executor with
        queue := [⟨33, [], .cut { cut33 with len := 199 }⟩, ⟨34, [], .cut cut34⟩] } (cutting 1999 200)
      { u with
        planner := { u.planner with window := List.replicate 3 entry }
        part := { u.part with abortFlag := abort } }
    (∀ u ∈ [s false, s true], Framing exBlade exSetup u ∧ Quiet u ∧ u.executor.stepDone = false ∧
      u.executor.position.isSome = true ∧ u.executor.haltRequest = false ∧ u.executor.reentering = false ∧
      u.executor.state = .cut ∧ u.part.state = .running ∧ u.link.intake = [] ∧ u.planner.actions = []) ∧
    (s false).callsFor 0 = 2 ∧ (s true).part.abortFlag = true ∧ 0 < cut33.exit ∧
    (let v := min (200 - max 1 (exSetup.accel * exSetup.period / 1000)) (reach exSetup.accel cut31.exit 1)
     v = 198 ∧ 2000 + 0 ≤ 1999 + v * exSetup.period ∧ 1999 + v * exSetup.period - 2000 - 0 < 199) := by
  simp only [framing_iff, quiet_iff]
  decide +kernel

/-- SPINUP, its timer one frame from its end; TRIM; the SPINUP of a re-entry; HOLD; and DWELL with nothing to begin. -/
theorem witness_TimersAddT :
    let spin := working .spinup (.enter 200000 150000 (some 0) 40)
    let timed := withExec { spin.executor with lockTimer := .running 199 200, spinupFrame := some 5 } spin
    let again := withExec { timed.executor with current := none, reentering := true } timed
    ∀ s ∈ [timed, working .trim (.leave 40 true), again, heldAt (.hold false) none, heldAt (.hold true) none, dwelling],
      Framing exBlade exSetup s ∧ Calm s ∧
      s.executor.position.isSome = true ∧ s.executor.standoffPending = false ∧
      (s.executor.reentering = true → s.executor.state = .spinup) ∧
      (s.executor.state = .dwell → s.executor.current = none ∧ s.executor.queue = []) := by
  simp only [framing_iff, calm_iff, quiet_iff]
  decide

/-- STANDOFF reached from HOLD and STOPPED, with records waiting; STANDOFF with none; IDLE, CUT and HOLD without a
position, with a record waiting; and IDLE with nothing held, RUNNING between blocks, with a blade table waiting. -/
theorem witness_TimersAddT_nothing :
    let s := fun (st : ExecState) (cur : Option Current) (queue : List Record) =>
      freeAt exBlade st 170000 false cur queue
    let absent := fun (st : ExecState) =>
      let u := s st none [⟨33, [], .cut cut33⟩]
      withExec { u.executor with position := none } u
    let part : Current := ⟨⟨31, [], .cut cut31⟩, 500, 0, 2000, 200000, 150000, 0, false⟩
    (∀ u ∈ [s (.standoff true) (some part) [⟨33, [], .cut cut33⟩], s .stopped (some part) [⟨33, [], .cut cut33⟩],
        s (.standoff false) (some done) [], absent .idle, absent .cut, absent (.hold true), stalled (s .idle none [])],
      Framing exBlade exSetup u ∧ Calm u ∧ u.executor.standoffPending = false ∧ u.executor.reentering = false) ∧
    (s (.standoff false) (some done) []).executor.free = true ∧ (absent .cut).executor.queue ≠ [] ∧
    (absent .cut).executor.position = none ∧ (absent .cut).executor.current = none ∧
    ((stalled (s .idle none [])).part.state = .running ∧ (stalled (s .idle none [])).planner.stream = .noBlock ∧
     (stalled (s .idle none [])).planner.window = [] ∧ (stalled (s .idle none [])).tables.waiting ≠ none ∧
     (stalled (s .idle none [])).report.responses.length < 16) := by
  simp only [framing_iff, calm_iff, quiet_iff]
  decide

/-- With a position and without one; a frame that enters SPINUP, and one that enters TRIM. -/
theorem witness_FrameSendsASetpointFrame :
    let absent := withExec { parked.executor with position := none } parked
    let enters := freeAt exBlade .travel 170000 false (some done) [⟨31, [], .enter 200000 150000 (some 0) 40⟩]
    let trims := stepped (.retract .leave) 170000 (.leave 40 true)
    (∀ s ∈ [parked, absent, enters, trims],
      s.part.inReset = false ∧ s.port.sending = true ∧ bladeMissing s = false ∧ s.executor.state ≠ .spinup ∧
      s.executor.state ≠ .trim) ∧
    after .frame enters (fun t => t.executor.state == .spinup) = true ∧
    after .frame trims (fun t => t.executor.state == .trim) = true := by decide +kernel

/-- Before SETUP. -/
theorem witness_FrameSendsASetpointFrame_not : State.reset.port.sending = false := by decide

/-- A state of every row of Table 6.1, in a block that is not a dry-run block; a dry-run block; no blade table. -/
theorem witness_FrequencyFollowsSpeedAndPitch :
    (∀ st ∈ [ExecState.spinup, .plunge, .retract .lift, .rotate, .swivel, .dwell, .hold false, .retract .leave,
        .retract .standoff, .retract .abort, .retract .recover, .travel, .idle, .standoff true, .stopped, .stopping],
      (freeAt exBlade st 45000 false none []).tables.blade = some exBlade ∧
      ((freeAt exBlade st 45000 false none []).executor.block.map fun k => k.dry) = some false ∧
      (freeAt exBlade st 45000 false none []).executor.state = st) ∧
    (cutting 500 200).executor.state = .cut ∧ (working .trim (.leave 40 true)).executor.state = .trim ∧
    (working .trim (.pivot ⟨.lift, 1, true, false, some 40⟩)).executor.state = .trim ∧
    ((freeAt exBlade .cut 45000 true none []).executor.block.map fun k => k.dry) = some true ∧
    State.reset.tables.blade = none := by decide

/-- The kept frequency at 0 and at f_max; the pitch-limited speed 384. -/
theorem witness_FrequencyFollowsSpeedAndPitch_clamps :
    parked.tables.blade = some exBlade ∧ exBlade.fMin ≤ exBlade.fPlunge ∧ exBlade.fPlunge ≤ exBlade.fMax ∧
    parked.keptFreq = 0 ∧ exBlade.fMin ≤ 320 ∧ 320 ≤ exBlade.fMax ∧ 0 < 800 ∧ 800 ≤ 1200 ∧ 0 < exBlade.fMin ∧
    384 ≤ exBlade.fMax * 1200 / 1000 ∧ 256 * 1000 ≤ exBlade.fMax * 800 ∧ exBlade.fMin * 800 < 33 * 1000 := by decide

/-- At pitch 800 the last speed clamped to f_min, the first clamped to f_max and a quotient rounded up. -/
theorem witness_FrequencyFollowsSpeedAndPitch_quotient :
    32 * 1000 ≤ exBlade.fMin * 800 ∧ ¬ 33 * 1000 ≤ exBlade.fMin * 800 ∧ exBlade.fMax * 800 < 257 * 1000 ∧
    ¬ exBlade.fMax * 800 < 256 * 1000 ∧ exBlade.fMin ≤ 42 ∧ 42 ≤ exBlade.fMax ∧ 33 * 1000 ≤ 42 * 800 ∧
    42 * 800 < 33 * 1000 + 800 := by decide

/-- The first frame; a period answered; misses 3 and 256 (at 255 the count stays); a third miss due. -/
theorem witness_MissedFramesRaiseDriveLink :
    parked.port.linkDue = false ∧ parked.port.sentAny = false ∧
    (let p : Port := { parked.port with sentAny := true, missed := 2 }; p.received = false ∧ p.missed ≤ 255) ∧
    ({ parked.port with linkDue := true } : Port).linkDue = true ∧ parked.part.inReset = false ∧
    (withState .fault parked).part.state = .fault := by decide

/-- Frames: the first, an answered one, unanswered ones at counts 0, 2 and 255, and one with DRIVE-LINK due. -/
theorem witness_MissedFramesRaiseDriveLink_frame :
    let port := fun (p : Port) => { parked with port := p }
    (∀ s ∈ [parked, port { parked.port with sentAny := true, received := true },
        port { parked.port with sentAny := true }, port { parked.port with sentAny := true, missed := 2 },
        port { parked.port with sentAny := true, missed := 255 },
        port { parked.port with sentAny := true, missed := 3, linkDue := true }],
      s.part.inReset = false ∧ s.port.sending = true ∧ bladeMissing s = false ∧ s.part.state ≠ .unconfigured) ∧
    parked.port.sentAny = false := by decide

/-- States in which each of the eleven events is still due at a FRAME, and after whose commands none is. -/
theorem witness_MissedFramesRaiseDriveLink_due :
    let run := fun (u : State) (c : Instr) => match exec c u with
      | .next t => t
      | _ => u
    let events : List Instr := [.standoff, .holdEntry, .abortStopEnd, .recoverRetractEnd, .governorEvaluation,
      .bladeJam, .lockTimeout, .trimTimeout, .dwellTimeout, .driveLink, .stopped]
    let cut := cutting 500 50
    let retract := fun (p : Purpose) => withExec
      { cut.executor with state := .retract p, stepDone := true, current := none, queue := [],
                          position := some ⟨200000, 150000, 170000, 0⟩ } cut
    let spin := working .spinup (.enter 200000 150000 (some 0) 40)
    let trim := working .trim (.leave 40 true)
    let due : List (Instr × State) := [
      (.standoff, retract .standoff),
      (.holdEntry, withExec { (cutting 500 0).executor with haltRequest := true } (cutting 500 0)),
      (.abortStopEnd, { retract .abort with part := { cut.part with abortFlag := true } }),
      (.recoverRetractEnd, withState .recovering (retract .recover)),
      (.governorEvaluation, { cut with governor := { cut.governor with evalDue := some 90 } }),
      (.bladeJam, { cut with governor := { cut.governor with jamDue := true } }),
      (.lockTimeout, withExec { spin.executor with lockTimer := .running 200 200 } spin),
      (.trimTimeout, withExec { trim.executor with trimTimer := .running 300 300 } trim),
      (.dwellTimeout, withExec
        { (working .dwell .actions).executor with current := none, dwellTimer := .running 500 500 } running),
      (.driveLink, { cut with port := { cut.port with linkDue := true } }),
      (.stopped, withState .fault (withExec { (cutting 500 0).executor with state := .stopping } (cutting 500 0)))]
    ∀ d ∈ due, d.2.part.inReset = false ∧ d.2.port.sending = true ∧ bladeMissing d.2 = false ∧ run d.2 d.1 ≠ d.2 ∧
      (let after := events.foldl run d.2
       ∀ c ∈ events, run after c = after) := by
  decide +kernel

/-- An evaluation of load `load` against ceiling 90 that has fallen due, with the governor override at `g`. -/
def evaluating (load g : Nat) : State :=
  { cutting 500 50 with
    governor := { parked.governor with override := g, evalDue := some 90 }
    port := { parked.port with held := { parked.port.held with load := load } } }

/-- Loads 91, 90, 72 and 71, with the override at 26, 25 and 100. -/
theorem witness_EvaluationFollowsTable63 :
    (∀ s ∈ [evaluating 91 26, evaluating 91 25, evaluating 90 100, evaluating 72 100, evaluating 71 100],
      s.part.inReset = false ∧ s.governor.evalDue = some 90 ∧ 25 ≤ s.governor.override ∧ s.governor.override ≤ 100 ∧
      s.governor.jamCount ≤ 8) ∧
    90 < (evaluating 91 26).port.held.load ∧ 90 * 80 / 100 ≤ (evaluating 72 100).port.held.load ∧
    (evaluating 71 100).port.held.load < 90 * 80 / 100 := by decide

theorem witness_JamAndTimeoutsAreFaults :
    let s : State :=
      { cutting 500 50 with governor := { parked.governor with override := 25, jamCount := 8, jamDue := true } }
    s.part.inReset = false ∧ s.governor.jamDue = true ∧ s.part.state = .running ∧
    (withState .fault s).part.state = .fault := by decide

theorem witness_JamAndTimeoutsAreFaults_timers :
    let s := working .spinup (.enter 200000 150000 (some 0) 40)
    let u := working .trim (.leave 40 true)
    (withExec { s.executor with lockTimer := .running 200 200 } s).executor.lockTimer = .running 200 200 ∧
    (withExec { u.executor with trimTimer := .running 300 300 } u).executor.trimTimer = .running 300 300 ∧
    s.part.inReset = false ∧ s.part.state = .running ∧ s.executor.state = .spinup ∧ u.executor.state = .trim ∧
    200 ≤ 200 := by decide

/-- In DWELL and in HOLD, in the frame the timer reaches its timeout. -/
theorem witness_DwellTimeoutAndStandoff :
    let s := withExec { (working .dwell .actions).executor with dwellTimer := .running 500 500 } running
    let u := withExec { (working (.hold false) .actions).executor with dwellTimer := .running 500 500 } running
    s.part.inReset = false ∧ s.executor.dwellTimer = .running 500 500 ∧
    s.executor.position = some ⟨200000, 150000, 45000, 0⟩ ∧ s.executor.heldPlunge = some 40 ∧
    s.executor.block = some exBlockExec ∧ 45000 < exBlockExec.clear ∧ s.executor.state = .dwell ∧
    u.executor.state = .hold false := by decide

/-- In DWELL with the expiry taken: far below the clear Z with a record waiting, and one micrometre below it with
none. -/
theorem witness_DwellTimeoutAndStandoff_begins :
    let s := fun (z : Nat) (queue : List Record) =>
      let u := freeAt exBlade .dwell z false none queue
      withExec { u.executor with standoffPending := true, reentry := some ⟨200000, 150000, 0, 40⟩ } u
    (∀ u ∈ [s 45000 [⟨33, [], .cut cut33⟩], s 169999 []],
      Framing exBlade exSetup u ∧ Calm u ∧ u.executor.state = .dwell ∧ u.executor.free = true ∧
      u.executor.reentering = false ∧ u.executor.standoffPending = true ∧
      u.executor.block = some ⟨150000, 170000, false⟩ ∧ u.executor.heldPlunge = some 40 ∧ u.part.state = .running ∧
      (u.executor.position.map fun p => decide (p.z < 170000)) = some true) ∧
    Reaches (withResponses 15 (s 45000 [])) := by
  refine ⟨?_, by constructor <;> decide⟩
  simp only [framing_iff, calm_iff, quiet_iff]
  decide

theorem witness_DwellTimeoutAndStandoff_end :
    let s := withExec { (working (.retract .standoff) .actions).executor with
      stepDone := true, reentry := some ⟨200000, 150000, 0, 40⟩ } running
    s.part.inReset = false ∧ s.executor.state = .retract .standoff ∧ s.executor.stepDone = true ∧
    s.executor.reentry = some ⟨200000, 150000, 0, 40⟩ := by decide

/-- A CUT at rest part done, a CUT at its end, and a SWIVEL complete. -/
theorem witness_HoldIsEntered :
    let asked := fun (s : State) (c : Current) => withExec { s.executor with haltRequest := true, current := some c } s
    let part : Current := ⟨⟨31, [], .cut cut31⟩, 500, 0, 2000, 200000, 150000, 0, false⟩
    let ended : Current := ⟨⟨31, [], .cut cut31⟩, 2000, 1, 2000, 200000, 150000, 0, true⟩
    let turned : Current := ⟨⟨31, [], .pivot ⟨.swivel, -9, false, false, none⟩⟩, 0, 0, 0, 0, 0, 0, true⟩
    ∀ q ∈ [(asked (cutting 500 0) part, part), (asked (cutting 500 0) ended, ended),
        (asked (working .swivel turned.record.body) turned, turned)],
      q.1.part.inReset = false ∧ q.1.part.abortFlag = false ∧ q.1.executor.haltRequest = true ∧
      q.1.executor.current = some q.2 ∧
      (q.1.executor.state = .cut ∧ (q.2.complete = true ∨
        (q.2.record.body.isPath = true ∧ q.2.speed = 0 ∧ q.2.dist < q.2.len)) ∨
        q.1.executor.state = .swivel ∧ q.2.complete = true ∧ q.1.executor.reentering = false) ∧
      q.1.executor.standoffPending = false ∧ q.1.tables.blade = some exBlade ∧ 0 < exBlade.dwellTimeout ∧
      q.1.executor.dwellTimer = .stopped ∧ q.1.executor.inMaterial = true := by decide

/-- The plunge of a re-entry just complete: a CUT waiting, no record current; and a CUT part done, in material. -/
theorem witness_HoldIsEntered_reentry :
    let part : Current := ⟨⟨31, [], .cut cut31⟩, 500, 0, 2000, 200000, 150000, 0, false⟩
    ∀ c ∈ [none, some part],
      let s := withExec { (working .plunge (.cut cut31)).executor with
        current := c, haltRequest := true, reentering := true, stepDone := true,
        reentry := some ⟨200500, 150000, 0, 40⟩, queue := [⟨33, [], .cut cut33⟩] } running
      s.part.inReset = false ∧ s.part.abortFlag = false ∧ s.executor.haltRequest = true ∧ s.executor.state = .plunge ∧
      s.executor.reentering = true ∧ s.executor.stepDone = true ∧ s.executor.standoffPending = false ∧
      s.tables.blade = some exBlade ∧ 0 < exBlade.dwellTimeout ∧ s.executor.dwellTimer = .stopped ∧
      s.executor.current = c ∧ s.executor.inMaterial = true := by decide

/-- The end of an abort retract and of a recovery; an abort stop at rest out of material in every state that can be so;
and a stop at speeds 0 and 1. -/
theorem witness_AbortStopAndRecoveryEnd :
    let s := fun p => withExec { (working (.retract p) .actions).executor with stepDone := true } running
    let raised := fun st (cur : Option Current) =>
      withExec { (working st .actions).executor with
        current := cur, position := some ⟨200000, 150000, 150000, 0⟩ } running
    let u := fun v => withExec { (cutting 500 v).executor with state := .stopping } running
    let halted : Current := ⟨⟨31, [], .travel 210000 150000 (some 0)⟩, 500, 0, 10000, 200000, 150000, 9, false⟩
    let left : Current := ⟨⟨31, [], .leave 40 false⟩, 0, 0, 0, 0, 0, 0, true⟩
    ({ (s .abort).part with abortFlag := true } : Part).abortFlag = true ∧
    (s .abort).executor.state = .retract .abort ∧ (s .abort).executor.stepDone = true ∧ (s .abort).executor.queue = [] ∧
    (s .abort).planner.window = [] ∧
    (∀ t ∈ [raised .idle none, raised .travel (some halted), raised (.retract .leave) (some left),
        raised (.standoff false) none, raised (.hold true) none],
      t.executor.atRest = true ∧ t.executor.inMaterial = false ∧ t.part.inReset = false ∧ t.planner.window = [] ∧
      t.executor.queue = []) ∧
    (s .recover).executor.state = .retract .recover ∧ (s .recover).part.abortFlag = false ∧
    (u 0).executor.state = .stopping ∧ (u 0).executor.speed = 0 ∧ 0 < (u 1).executor.speed ∧
    (stalled parked).tables.waiting = some ⟨some exBlade, 9⟩ := by decide

/-- An abort stop at rest in material: a CUT part done at speed 0, one at its end, a SWIVEL complete, the plunge of a
re-entry complete, and DWELL. -/
theorem witness_AbortStopAndRecoveryEnd_begins :
    let cut : Current := ⟨⟨31, [], .cut cut31⟩, 500, 0, 2000, 200000, 150000, 0, false⟩
    let s := fun (st : ExecState) (cur : Option Current) (again : Bool) =>
      let u := freeAt exBlade st 45000 false cur []
      { withExec { u.executor with reentering := again, stepDone := again } u with
        part := { u.part with abortFlag := true } }
    ∀ u ∈ [s .cut (some cut) false, s .cut (some { cut with dist := 2000, complete := true }) false,
        s .swivel (some done) false, s .plunge (some cut) true, s .dwell none false],
      Framing exBlade exSetup u ∧ Quiet u ∧ u.part.abortFlag = true ∧ u.executor.state.begins = true ∧
      u.executor.atRest = true ∧ u.executor.inMaterial = true ∧ u.executor.block = some ⟨150000, 170000, false⟩ ∧
      u.executor.heldPlunge = some 40 ∧ (u.executor.position.map fun p => decide (p.z < 170000)) = some true := by
  simp only [framing_iff, quiet_iff]
  decide

/-- Fields at their greatest, sending and not, and a frame partly received. -/
theorem witness_ReturnFrameIsHeld :
    parked.part.inReset = false ∧ parked.port.rx = .hunt false ∧ parked.port.sending = true ∧
    State.reset.port.sending = false ∧ (4294967295 : Nat) < 2 ^ 32 ∧ (65535 : Nat) < 65536 ∧
    ({ parked.port with rx := .body [0] 20 } : Port).rx = .body [0] 20 := by decide

/-- A LOCK that echoes the spin-up frame, one 32767 after it, and one before it. -/
theorem witness_ReturnFrameHandsOn :
    let s :=
      withExec { (working .spinup (.enter 200000 150000 (some 0) 40)).executor with spinupFrame := some 5 } running
    let u := withExec { (working .trim (.leave 40 true)).executor with trimFrame := some 5 } running
    s.part.state = .running ∧ s.executor.state = .spinup ∧ s.executor.spinupFrame = some 5 ∧
    s.executor.position.isSome = true ∧ ((5 : FrameNo) - 5).toNat < 32768 ∧ ((32772 : FrameNo) - 5).toNat < 32768 ∧
    32768 ≤ ((4 : FrameNo) - 5).toNat ∧ u.executor.state = .trim ∧ u.executor.trimFrame = some 5 ∧
    u.executor.current.isSome = true ∧ (withState .running State.reset).executor.position = none ∧
    running.port.held.alarm = false := by decide

/-- A trim-done in the TRIM of a LIFT, one micrometre above the Z cut; an alarm in FAULT, held and not held. -/
theorem witness_ReturnFrameHandsOn_lift :
    let u := working .trim (.pivot ⟨.lift, 1, true, false, some 40⟩)
    let s := withExec { u.executor with trimFrame := some 5, position := some ⟨200000, 150000, 45001, 0⟩ } u
    let f := withState .fault parked
    s.part.state = .running ∧ s.executor.state = .trim ∧ s.executor.trimFrame = some 5 ∧ s.part.setup = some exSetup ∧
    s.executor.current = some ⟨⟨31, [], .pivot ⟨.lift, 1, true, false, some 40⟩⟩, 0, 0, 0, 0, 0, 0, false⟩ ∧
    exSetup.zCut < 45001 ∧ f.part.state = .fault ∧ f.port.held.alarm = false ∧
    ({ f.port.held with alarm := true } : Held).alarm = true := by decide

/-- Without a position, with the TRAVEL and ENTER of a closed stab and those of an open contour in the window: PARKED,
in FAULT and STOPPED, RECOVERING and RUNNING. -/
theorem witness_ReturnFrameHandsOn_adopts :
    let window : List WindowEntry := [⟨⟨21, [], .travel 200000 150000 none⟩, 0, false⟩,
      ⟨⟨21, [], .enter 200000 150000 none 40⟩, 0, false⟩, ⟨⟨24, [], .travel 210000 150000 none⟩, 0, true⟩]
    let s := fun (p : PartState) (st : ExecState) => withState p (withExec
      { parked.executor with position := none, state := st }
      { parked with planner := { parked.planner with window := window } })
    (∀ u ∈ [s .parked .idle, s .fault .stopped, s .recovering .idle, s .running .idle],
      u.part.inReset = false ∧ u.port.rx = .hunt false ∧ u.port.sending = true ∧ u.part.state ≠ .unconfigured ∧
      u.executor.position = none ∧ u.planner.actions = [] ∧ u.port.held.alarm = false) ∧
    (s .fault .stopped).part.state = .fault ∧ (s .parked .idle).part.state = .parked ∧
    (s .recovering .idle).part.state = .recovering ∧ (1 : Byte).getLsbD 0 = true ∧ (6 : Byte).getLsbD 0 = false ∧
    (6 : Byte).getLsbD 1 = true ∧ (6 : Byte).getLsbD 2 = true ∧ (4294967295 : Nat) < 2 ^ 32 ∧
    (65535 : Nat) < 65536 ∧ parked.executor.position.isSome = true := by decide

/-- The adoption lets the TRAVEL and ENTER of a closed stab go: both are due, and none is called for before. -/
theorem witness_ReturnFrameHandsOn_releases :
    let entry := fun (b : Body) => (⟨⟨21, [], b⟩, 0, false⟩ : WindowEntry)
    let s := fun (h : Option Nat) => withState .running (withExec { parked.executor with position := none }
      { parked with planner := { parked.planner with
        releasePoint := some 1
        window := [entry (.travel 200000 150000 h), entry (.enter 200000 150000 h 40)] } })
    ((s none).part.inReset = false ∧ (s none).port.rx = .hunt false ∧ (s none).port.sending = true ∧
     (s none).executor.position = none ∧ (s none).part.state = .running ∧ (s none).part.abortFlag = false ∧
     (s none).planner.actions = []) ∧
    (s none).callsFor 0 = 0 ∧ (s (some 100)).callsFor 0 = 2 := by decide

theorem witness_ArbiterChoosesByPriority :
    parked.part.inReset = false ∧ parked.report.responses = [] ∧ (withResponses 1 parked).report.responses ≠ [] ∧
    ({ parked.report.events with fault := true, link := true } : Events).fault = true ∧
    (∀ n : Fin 7, parked.report.enables.getLsbD n = true) ∧ parked.report.events.fault = false ∧
    parked.report.marks = [] ∧
    ({ parked.report with marks := [1], enables := 0 } : Report).enables.getLsbD 1 = false := by
  decide

theorem witness_BoundsAreKept : Bounded State.reset ∧ step State.reset = .next State.reset := by
  refine ⟨by constructor <;> decide, rfl⟩

theorem witness_EveryCommandAnswersANextState :
    parked.tables.consistent ∧ parked.tables.blade ≠ none ∧ parked.tables.zone ≠ [] := by
  refine ⟨by unfold TableStore.consistent; decide, by decide⟩

end Sys2Proof.Tests
end

namespace Sys2Proof.Machine

/-! ## The CRC as a run over presented bits (R48) -/

/-- The `k` low bits of a byte in the order they are presented, most significant first. -/
def presentedBits (k : Nat) (b : Byte) : List Bool := (List.range k).map fun i => b.getLsbD (k - 1 - i)

@[simp] theorem presentedBits_zero (b : Byte) : presentedBits 0 b = [] := rfl

theorem presentedBits_succ (k : Nat) (b : Byte) : presentedBits (k + 1) b = b.getLsbD k :: presentedBits k b := by
  rw [presentedBits, List.range_succ_eq_map, List.map_cons, List.map_map]
  have hshift (i : Nat) : k + 1 - 1 - (i + 1) = k - 1 - i := by omega
  exact congrArg (b.getLsbD k :: ·) (List.map_congr_left fun i _ => congrArg b.getLsbD (hshift i))

/-- The register is shifted in either case; the combined bit decides only what it is combined with. -/
theorem crcBit_eq_shiftLeft_xor (reg : BitVec 16) (bit : Bool) :
    crcBit reg bit = (reg <<< 1) ^^^ (if (reg.getLsbD 15 ^^ bit) = true then 0x1021 else 0) := by
  rw [crcBit, BitVec.msb_eq_getLsbD_last]
  split
  · rfl
  · exact BitVec.xor_zero.symm

theorem crcBits_eq_foldl (k : Nat) (reg : BitVec 16) (b : Byte) :
    crcBits k reg b = (presentedBits k b).foldl crcBit reg := by
  induction k generalizing reg with
  | zero => rw [crcBits, presentedBits_zero, List.foldl_nil]
  | succ k ih => rw [crcBits, ih, presentedBits_succ, List.foldl_cons]

theorem crc_concat (bytes : List Byte) (b : Byte) :
    crc (bytes ++ [b]) = (presentedBits 8 b).foldl crcBit (crc bytes) := by
  rw [← crcBits_eq_foldl, crc, List.foldl_concat, crc]

/-- Settles O7: one more byte is eight more presented bits, and each bit's step is the register rule of R48; the two
given values are computed. -/
theorem crcFollowsItsRule : Obligations.CrcFollowsItsRule := by
  unfold Obligations.CrcFollowsItsRule
  refine ⟨rfl, by decide +kernel, fun bytes b => ?_⟩
  simp only [← crcBit_eq_shiftLeft_xor]
  exact crc_concat bytes b

end Sys2Proof.Machine

namespace Sys2Proof.Machine

/-! ## The rotation and the heading change (R54) -/

theorem rawChange_lt (h1 h2 : Nat) : rawChange h1 h2 < 36000 := Nat.mod_lt _ (by decide)

/-- The model adds a full turn before it subtracts, to stay in the natural numbers; R54 subtracts. -/
theorem rawChange_eq_toNat_emod (h1 h2 : Nat) : rawChange h1 h2 = (((h2 : Int) - h1) % 36000).toNat := by
  simp only [rawChange, Config.turn]
  omega

theorem rotationOf_of_le {h1 h2 : Nat} (h : rawChange h1 h2 ≤ 18000) : rotationOf h1 h2 = rawChange h1 h2 :=
  if_pos h

theorem rotationOf_of_lt {h1 h2 : Nat} (h : 18000 < rawChange h1 h2) :
    rotationOf h1 h2 = -((36000 : Int) - rawChange h1 h2) := by
  have hlt := rawChange_lt h1 h2
  simp only [rotationOf, Config.turn, Config.halfTurn]
  omega

theorem headingChange_eq_min (h1 h2 : Nat) : headingChange h1 h2 = min (rawChange h1 h2) (36000 - rawChange h1 h2) :=
  rfl

theorem headingChange_le_halfTurn (h1 h2 : Nat) : headingChange h1 h2 ≤ 18000 := by
  rw [headingChange_eq_min]
  omega

theorem natAbs_rotationOf (h1 h2 : Nat) : (rotationOf h1 h2).natAbs = headingChange h1 h2 := by
  have hlt := rawChange_lt h1 h2
  rw [headingChange_eq_min]
  rcases Nat.lt_or_ge 18000 (rawChange h1 h2) with h | h
  · rw [rotationOf_of_lt h]
    omega
  · rw [rotationOf_of_le h]
    omega

/-- The two ways round differ by a full turn, so the rotation is the change modulo 36000 in either case. -/
theorem rotationOf_emod_turn (h1 h2 : Nat) : rotationOf h1 h2 % 36000 = ((h2 : Int) - h1) % 36000 := by
  have hraw := rawChange_eq_toNat_emod h1 h2
  rcases Nat.lt_or_ge 18000 (rawChange h1 h2) with h | h
  · rw [rotationOf_of_lt h]
    omega
  · rw [rotationOf_of_le h]
    omega

theorem turnBy_rotationOf (h1 : Nat) {h2 : Nat} (hh2 : h2 < 36000) : turnBy h1 (rotationOf h1 h2) = h2 := by
  have hmod := rotationOf_emod_turn h1 h2
  simp only [turnBy, Config.turn]
  omega

/-! ## The rows of Table 4.3 -/

section Junction
variable {blade : BladeEntry} {h1 c1 h2 c2 : Nat} {snap : Snapshot} {d : Nat}

theorem junctionOf_of_overdue (hd : (blade.trimInterval + blade.trimGrace) * 1000000 ≤ d) :
    junctionOf blade h1 c1 h2 c2 snap d = ⟨some ⟨.lift, rotationOf h1 h2, true, true, some snap.plunge⟩, 0, 0⟩ :=
  if_pos (decide_eq_true hd)

theorem not_trimOverdue (hd : d < (blade.trimInterval + blade.trimGrace) * 1000000) : ¬ trimOverdue blade d := by
  rw [trimOverdue, decide_eq_true_iff]
  exact hd.not_ge

theorem junctionOf_of_blend (hd : d < (blade.trimInterval + blade.trimGrace) * 1000000)
    (hb : headingChange h1 h2 ≤ blade.blend) :
    junctionOf blade h1 c1 h2 c2 snap d = ⟨none, blendSpeed blade c1 c2 (headingChange h1 h2), d⟩ := by
  rw [junctionOf, if_neg (not_trimOverdue hd), classify, if_pos hb]

theorem junctionOf_of_swivel (hd : d < (blade.trimInterval + blade.trimGrace) * 1000000)
    (hb : blade.blend < headingChange h1 h2) (hs : headingChange h1 h2 ≤ blade.swivel) :
    junctionOf blade h1 c1 h2 c2 snap d = ⟨some ⟨.swivel, rotationOf h1 h2, false, false, none⟩, 0, d⟩ := by
  rw [junctionOf, if_neg (not_trimOverdue hd), classify, if_neg hb.not_ge, if_pos hs]

theorem junctionOf_of_lift (hd : d < (blade.trimInterval + blade.trimGrace) * 1000000)
    (hb : blade.blend < headingChange h1 h2) (hs : blade.swivel < headingChange h1 h2) :
    junctionOf blade h1 c1 h2 c2 snap d =
      ⟨some ⟨.lift, rotationOf h1 h2, trimDue blade d, false, some snap.plunge⟩, 0,
        if trimDue blade d then 0 else d⟩ := by
  rw [junctionOf, if_neg (not_trimOverdue hd), classify, if_neg hb.not_ge, if_neg hs.not_ge]

/-- Whichever row of Table 4.3 makes the PIVOT, it carries the rotation of its junction. -/
theorem rotation_of_junctionOf_pivot {p : PivotRecord} (hp : (junctionOf blade h1 c1 h2 c2 snap d).pivot = some p) :
    p.rotation = rotationOf h1 h2 := by
  rcases Nat.lt_or_ge d ((blade.trimInterval + blade.trimGrace) * 1000000) with hd | hd
  · rcases Nat.lt_or_ge blade.blend (headingChange h1 h2) with hb | hb
    · rcases Nat.lt_or_ge blade.swivel (headingChange h1 h2) with hs | hs
      · rw [junctionOf_of_lift hd hb hs] at hp
        cases hp
        rfl
      · rw [junctionOf_of_swivel hd hb hs] at hp
        cases hp
        rfl
    · rw [junctionOf_of_blend hd hb] at hp
      cases hp
  · rw [junctionOf_of_overdue hd] at hp
    cases hp
    rfl

end Junction

/-- Settles O18: the rotation's value from the raw change, its effect from the congruence of the two ways round, and
the PIVOT from the rows of Table 4.3. -/
theorem rotationTakesTheShorterWay : Obligations.RotationTakesTheShorterWay := by
  unfold Obligations.RotationTakesTheShorterWay
  refine ⟨fun h1 h2 _ hh2 => ?_, fun blade h1 c1 h2 c2 snap d p => ⟨rotation_of_junctionOf_pivot, fun hd hb => ?_⟩⟩
  · simp only [← rawChange_eq_toNat_emod]
    refine ⟨?_, headingChange_eq_min h1 h2, headingChange_le_halfTurn h1 h2, natAbs_rotationOf h1 h2,
      turnBy_rotationOf h1 hh2⟩
    split
    case isTrue h => exact rotationOf_of_le h
    case isFalse h => exact rotationOf_of_lt (Nat.lt_of_not_ge h)
  · rw [junctionOf_of_blend hd hb]

end Sys2Proof.Machine

namespace Sys2Proof.Machine

/-! ## The whole root and the speeds of R74 -/

/-- The root lies in `[r, r + 2 ^ k)` before bit `k` is decided, and so in one half of it after. -/
theorem isqrtBits_eq_sqrt (k : Nat) {n r : Nat} (hlo : r * r ≤ n) (hhi : n < (r + 2 ^ k) * (r + 2 ^ k)) :
    isqrtBits k n r = n.sqrt := by
  induction k generalizing r with
  | zero => exact Nat.eq_sqrt.2 ⟨hlo, hhi⟩
  | succ k ih =>
    rw [isqrtBits]
    split
    case isTrue hbit =>
      refine ih hbit ?_
      rwa [Nat.add_assoc, ← Nat.two_mul, ← Nat.pow_succ']
    case isFalse hbit => exact ih hlo (Nat.lt_of_not_ge hbit)

theorem isqrt_eq_sqrt (n : Nat) : isqrt n = n.sqrt := by
  refine isqrtBits_eq_sqrt _ (Nat.zero_le n) ?_
  calc n < 2 ^ (n.log2 + 1) := Nat.lt_log2_self
    _ ≤ 2 ^ ((n.log2 / 2 + 1) + (n.log2 / 2 + 1)) := Nat.pow_le_pow_right (by decide) (by omega)
    _ = (0 + 2 ^ (n.log2 / 2 + 1)) * (0 + 2 ^ (n.log2 / 2 + 1)) := by rw [Nat.zero_add, Nat.pow_add]

/-- R74: the speeds up to `reach` are those of its formula, whose division by 1000 rounds no whole speed away. -/
theorem le_reach_iff {a u len v : Nat} :
    v ≤ reach a u len ↔ 1000 * v * v ≤ 1000 * u * u + 2 * a * len := by
  rw [reach, isqrt_eq_sqrt, Nat.le_sqrt, Nat.le_div_iff_mul_le (by decide), Nat.mul_comm, ← Nat.mul_assoc]

theorem le_reach_self (a u len : Nat) : u ≤ reach a u len :=
  le_reach_iff.2 (Nat.le_add_right _ _)

/-- Settles O21: the bitwise root is the whole root, and `reach` is the greatest speed of its formula by
`le_reach_iff`. -/
theorem reachIsTheLargestSpeed : Obligations.ReachIsTheLargestSpeed := by
  unfold Obligations.ReachIsTheLargestSpeed
  refine ⟨fun a u len => ⟨le_reach_iff.1 le_rfl, fun _ => le_reach_iff.2, le_reach_self a u len⟩, ?_⟩
  rw [isqrt_eq_sqrt]
  exact (Nat.eq_sqrt.2 (by decide)).symm

end Sys2Proof.Machine

namespace Sys2Proof.Machine

/-! ## The governor's evaluation (R100, R101) -/

/-! The rows of Table 6.3, from the top. -/

section Table63
variable {load c override jam : Nat}

theorem evaluate_of_above (hl : c < load) (ho : 25 < override) :
    evaluate load c override jam = (if override - 10 < 25 then 25 else override - 10, 0) := by
  rw [evaluate, if_pos hl, if_pos ho, Prod.mk.injEq]
  refine ⟨?_, rfl⟩
  split <;> omega

theorem evaluate_of_above_at_25 (hl : c < load) (hj : jam ≤ 8) :
    evaluate load c 25 jam = (25, if jam = 8 then 8 else jam + 1) := by
  rw [evaluate, if_pos hl, if_neg (lt_irrefl 25), Prod.mk.injEq]
  refine ⟨rfl, ?_⟩
  split <;> omega

theorem evaluate_of_middle (hlo : c * 80 / 100 ≤ load) (hhi : load ≤ c) :
    evaluate load c override jam = (override, 0) := by
  rw [evaluate, if_neg hhi.not_gt, if_pos hlo]

theorem evaluate_of_below (hl : load < c * 80 / 100) :
    evaluate load c override jam = (if 100 < override + 5 then 100 else override + 5, 0) := by
  have hc : load ≤ c := by omega
  rw [evaluate, if_neg hc.not_gt, if_neg hl.not_ge, Prod.mk.injEq]
  refine ⟨?_, rfl⟩
  split <;> omega

end Table63

/-- The Load Governor after an evaluation of `load` against ceiling `c`. -/
def Governor.evaluated (g : Governor) (load c : Nat) : Governor :=
  { g with
    override := (evaluate load c g.override g.jamCount).1
    jamCount := (evaluate load c g.override g.jamCount).2
    evalDue := none
    jamDue := g.jamDue || ((evaluate load c g.override g.jamCount).2 == 8 && g.jamCount != 8) }

theorem Governor.evaluated_jamDue_iff (g : Governor) (load c : Nat) :
    (g.evaluated load c).jamDue = true ↔
      g.jamDue = true ∨ ((g.evaluated load c).jamCount = 8 ∧ g.jamCount ≠ 8) := by
  simp only [evaluated, Bool.or_eq_true, Bool.and_eq_true, beq_iff_eq, bne_iff_ne]

/-- A due evaluation changes the Load Governor, and otherwise at most raises GOVERNOR. -/
theorem governorEvaluate_of_due {s : State} {c : Nat} (hdue : s.governor.evalDue = some c) :
    governorEvaluate s =
      if 25 < s.governor.override ∧ (s.governor.evaluated s.port.held.load c).override = 25 then
        raiseGovernor 25 (s.setGovernor (s.governor.evaluated s.port.held.load c))
      else s.setGovernor (s.governor.evaluated s.port.held.load c) := by
  simp only [governorEvaluate, hdue]
  split
  case isTrue h =>
    exact (congrArg (raiseGovernor · _) h.2).trans (if_pos h).symm
  case isFalse h => exact (if_neg h).symm

theorem governorEvaluate_governor {s : State} {c : Nat} (hdue : s.governor.evalDue = some c) :
    (governorEvaluate s).governor = s.governor.evaluated s.port.held.load c := by
  rw [governorEvaluate_of_due hdue]
  split <;> rfl

/-- R101: GOVERNOR is raised exactly when the override comes down to 25. -/
theorem governorEvaluate_report {s : State} {c : Nat} (hdue : s.governor.evalDue = some c) :
    (governorEvaluate s).report =
      if 25 < s.governor.override ∧ (governorEvaluate s).governor.override = 25 then
        { s.report with events := { s.report.events with governor := true, governorValue := 25 } }
      else s.report := by
  rw [governorEvaluate_governor hdue, governorEvaluate_of_due hdue]
  split <;> rfl

theorem governorEvaluate_frame {s : State} {c : Nat} (hdue : s.governor.evalDue = some c) :
    governorEvaluate s =
      { s with governor := (governorEvaluate s).governor, report := (governorEvaluate s).report } := by
  rw [governorEvaluate_of_due hdue]
  split <;> rfl

/-- Settles O50: the rows of `evaluate` are the rows of Table 6.3, and the event, the jam and the frame are those of
`governorEvaluate`. -/
theorem evaluationFollowsTable63 : Obligations.EvaluationFollowsTable63 := by
  unfold Obligations.EvaluationFollowsTable63
  intro s c hrun hdue _ _ hj
  have hexec : exec .governorEvaluation s = .next (governorEvaluate s) :=
    congrArg Host.Outcome.next (unlessReset_of_running hrun governorEvaluate)
  have hgov := governorEvaluate_governor hdue
  have hreport := governorEvaluate_report hdue
  have hframe := governorEvaluate_frame hdue
  refine ⟨governorEvaluate s, hexec, ?above, ?aboveAt25, ?middle, ?below, ?raised, ?notRaised, ?jam, ?effective, ?due,
    ?count, ?operator, ?frame⟩
  case above =>
    intro hl ho
    simp only [hgov, Governor.evaluated, evaluate_of_above hl ho, and_self]
  case aboveAt25 =>
    intro hl ho
    simp only [hgov, Governor.evaluated, ho, evaluate_of_above_at_25 hl hj, and_self]
  case middle =>
    intro hlo hhi
    simp only [hgov, Governor.evaluated, evaluate_of_middle hlo hhi, and_self]
  case below =>
    intro hl
    simp only [hgov, Governor.evaluated, evaluate_of_below hl, and_self]
  case raised => exact fun ho ht => hreport.trans (if_pos ⟨ho, ht⟩)
  case notRaised =>
    intro hno
    refine hreport.trans (if_neg ?_)
    rintro ⟨ho, ht⟩
    exact hno.elim ho.ne' (· ht)
  case jam => rw [hgov]; exact s.governor.evaluated_jamDue_iff _ _
  case effective | due | count | operator => rw [hgov]; rfl
  case frame =>
    rw [hframe]
    exact ⟨rfl, rfl, rfl, rfl, rfl, rfl⟩

end Sys2Proof.Machine

namespace Sys2Proof.Machine

/-! ## An immediate packet that its owner answers (R163, R173) -/

/-- What joined the queue behind the reserved place stays behind the response that fills it. -/
theorem fillPlace_reserved_append (r : Response) {ps : List Place} (h : ∀ p ∈ ps, p ≠ .reserved) (later : List Place) :
    fillPlace r (ps ++ .reserved :: later) = ps ++ .held r :: later := by
  induction ps with
  | nil => rfl
  | cons p rest ih =>
    obtain ⟨hp, hrest⟩ := List.forall_mem_cons.1 h
    cases p with
    | reserved => exact absurd rfl hp
    | held q => exact congrArg (Place.held q :: ·) (ih hrest)

section Answered
variable {kind : Byte} {tag : Tag} {owner : State → State × Reply} {s : State}

/-- An owner that changes nothing leaves its response at the tail, and nothing else. -/
theorem handImmediate_of_unchanged {reply : Reply} (h : Answerable s) (hc : s.part.state ≠ .unconfigured)
    (ho : owner (reservePlace s) = (reservePlace s, reply)) :
    handImmediate kind tag owner s = s.respond (reply.response kind tag) := by
  rw [handImmediate_of_room (.inl hc) h.place, ho]
  exact congrArg (fun ps => s.setReport { s.report with responses := ps })
    (fillPlace_reserved _ _ h.noneReserved)

/-- The response goes to the queue alone, so the part is as the owner left it. -/
theorem handImmediate_part (h : Answerable s) (hc : s.part.state ≠ .unconfigured) :
    (handImmediate kind tag owner s).part = (owner (reservePlace s)).1.part := by
  rw [handImmediate_of_room (.inl hc) h.place]
  rfl

/-- An owner that adds responses of its own adds them behind its answer, whose place was reserved before. -/
theorem handImmediate_responses_prefix (h : Answerable s) (hc : s.part.state ≠ .unconfigured)
    (ho : (reservePlace s).report.responses <+: (owner (reservePlace s)).1.report.responses) :
    (s.report.responses ++ [.held ((owner (reservePlace s)).2.response kind tag)]) <+:
      (handImmediate kind tag owner s).report.responses := by
  rw [handImmediate_of_room (.inl hc) h.place]
  obtain ⟨later, hlater⟩ := ho
  refine ⟨later, ?_⟩
  have hqueue : (owner (reservePlace s)).1.report.responses = s.report.responses ++ .reserved :: later :=
    hlater.symm.trans (List.append_assoc ..)
  rw [answer, State.setReport_report, hqueue, fillPlace_reserved_append _ h.noneReserved]
  exact List.append_assoc ..

end Answered

/-! ## The RECOVER retract (R154, R155) -/

/-- A commit only adds to the response queue, or loses its response (R44, R174). -/
theorem commitBlade_responses_prefix (s : State) : s.report.responses <+: (commitBlade s).report.responses := by
  unfold commitBlade
  split
  case h_1 => exact List.prefix_rfl
  case h_2 w _ =>
    split
    case isFalse => exact List.prefix_rfl
    case isTrue =>
      rcases postResponse_cases ⟨kindTableClose, w.tag, .accepted, []⟩
        (s.setTables { s.tables with blade := w.entry, waiting := none }) with ⟨_, hpost⟩ | ⟨_, hpost⟩ <;> rw [hpost]
      · exact List.prefix_append _ _
      · exact List.prefix_rfl

/-- The state in which the RECOVER retract ends (R155). -/
def recovered (s : State) : State := commitBlade ((s.setExecutor s.executor.enterIdle).setPartState .parked)

theorem recovered_part (s : State) : (recovered s).part = { s.part with state := .parked } := commitBlade_part _

theorem recovered_responses_prefix (s : State) : s.report.responses <+: (recovered s).report.responses :=
  commitBlade_responses_prefix ((s.setExecutor s.executor.enterIdle).setPartState .parked)

/-- The RECOVER retract begins, ends as it begins, or, without a position, is not made. -/
theorem beginRecover_cases (s : State) :
    (∃ e, beginRecover s = s.setExecutor e) ∨ (∃ e, beginRecover s = recovered (s.setExecutor e)) := by
  unfold beginRecover
  split
  case h_1 =>
    unfold endRecover
    split
    case isTrue => exact .inr ⟨_, rfl⟩
    case isFalse => exact .inl ⟨_, rfl⟩
  case h_2 => exact .inr ⟨s.executor, rfl⟩

theorem beginRecover_part (s : State) :
    (beginRecover s).part = s.part ∨ (beginRecover s).part = { s.part with state := .parked } := by
  rcases beginRecover_cases s with ⟨e, he⟩ | ⟨e, he⟩ <;> rw [he]
  · exact .inl rfl
  · exact .inr (recovered_part _)

theorem beginRecover_responses_prefix (s : State) : s.report.responses <+: (beginRecover s).report.responses := by
  rcases beginRecover_cases s with ⟨e, he⟩ | ⟨e, he⟩ <;> rw [he]
  · exact List.prefix_rfl
  · exact recovered_responses_prefix (s.setExecutor e)

/-! ## CLEAR-FAULT as its owner judges it (R153) -/

section OwnClearFault
variable {s : State}

theorem ownClearFault_of_ne_fault (h : s.part.state ≠ .fault) : ownClearFault s = (s, .refused .state []) := if_pos h

theorem ownClearFault_of_stopInput (hf : s.part.state = .fault) (hi : s.part.stopInput = true) :
    ownClearFault s = (s, .refused .stopped []) :=
  (if_neg (not_not_intro hf)).trans (if_pos hi)

theorem ownClearFault_of_ne_stopped (hf : s.part.state = .fault) (hi : s.part.stopInput = false)
    (he : s.executor.state ≠ .stopped) : ownClearFault s = (s, .refused .state []) :=
  (if_neg (not_not_intro hf)).trans ((if_neg (Bool.eq_false_iff.1 hi)).trans (if_pos he))

theorem ownClearFault_of_stopped (hf : s.part.state = .fault) (hi : s.part.stopInput = false)
    (he : s.executor.state = .stopped) : ownClearFault s = (beginRecover (clearForRecovery s), .accepted []) :=
  (if_neg (not_not_intro hf)).trans ((if_neg (Bool.eq_false_iff.1 hi)).trans (if_neg (not_not_intro he)))

end OwnClearFault

section ExecClearFault
variable {s : State} (tag : Tag)

theorem exec_clearFault (h : Answerable s) :
    exec (.clearFault tag) s = .next (handImmediate kindClearFault tag ownClearFault s) :=
  congrArg Host.Outcome.next (unlessReset_of_running h.running _)

theorem exec_clearFault_of_refused {reason : Reason} (h : Answerable s) (hc : s.part.state ≠ .unconfigured)
    (ho : ownClearFault (reservePlace s) = (reservePlace s, .refused reason [])) :
    exec (.clearFault tag) s = .next (s.respond ⟨0x16, tag, .refused reason, []⟩) :=
  (exec_clearFault tag h).trans (congrArg Host.Outcome.next (handImmediate_of_unchanged h hc ho))

theorem exec_clearFault_of_unconfigured (h : Answerable s) (hu : s.part.state = .unconfigured) :
    exec (.clearFault tag) s = .next (s.respond ⟨0x16, tag, .refused .notConfigured, []⟩) := by
  rw [exec_clearFault tag h, handImmediate, if_pos ⟨hu, rfl⟩, postResponse_of_room h.place]
  rfl

theorem exec_clearFault_of_stopped (h : Answerable s) (hf : s.part.state = .fault) (hi : s.part.stopInput = false)
    (he : s.executor.state = .stopped) :
    ∃ t, exec (.clearFault tag) s = .next t ∧ t.part.record.cause = none ∧
      (t.part.state = .recovering ∨ t.part.state = .parked) ∧
      (s.report.responses ++ [.held ⟨0x16, tag, .accepted, []⟩]) <+: t.report.responses := by
  have hc : s.part.state ≠ .unconfigured := by simp [hf]
  have hown : ownClearFault (reservePlace s) = (beginRecover (clearForRecovery (reservePlace s)), .accepted []) :=
    ownClearFault_of_stopped hf hi he
  have hpart := handImmediate_part (kind := kindClearFault) (tag := tag) (owner := ownClearFault) h hc
  have hresponses := handImmediate_responses_prefix (kind := kindClearFault) (tag := tag) (owner := ownClearFault) h hc
  rw [hown] at hpart hresponses
  refine ⟨_, exec_clearFault tag h, ?cause, ?state,
    hresponses (beginRecover_responses_prefix (clearForRecovery (reservePlace s)))⟩ <;> rw [hpart]
  case cause => rcases beginRecover_part (clearForRecovery (reservePlace s)) with hp | hp <;> rw [hp] <;> rfl
  case state => exact (beginRecover_part _).imp (congrArg Part.state) (congrArg Part.state)

end ExecClearFault

/-- At speed 0 the end of the fault deceleration makes the Executor STOPPED, and changes nothing else (R130). -/
theorem exec_stopped_of_rest {s : State} (hr : s.part.inReset = false) (he : s.executor.state = .stopping)
    (hv : s.executor.speed = 0) :
    exec .stopped s = .next (s.setExecutor { s.executor with state := .stopped }) :=
  congrArg Host.Outcome.next ((unlessReset_of_running hr takeStopped).trans (if_pos ⟨he, hv⟩))

/-- Settles O35: each refusal is its row of `ownClearFault`, which changes nothing; an acceptance is `beginRecover`,
whose commit adds its response behind the one of CLEAR-FAULT; and the stop's end makes the Executor STOPPED. -/
theorem clearFaultIsJudged : Obligations.ClearFaultIsJudged := by
  unfold Obligations.ClearFaultIsJudged
  intro tag s h
  refine ⟨?stopInput, ?notStopped, ?notFault, exec_clearFault_of_unconfigured tag h, exec_clearFault_of_stopped tag h,
    ?lastFrame⟩
  case stopInput =>
    intro hf hi
    exact exec_clearFault_of_refused tag h (by simp [hf]) (ownClearFault_of_stopInput hf hi)
  case notStopped =>
    intro hf hi he
    exact exec_clearFault_of_refused tag h (by simp [hf]) (ownClearFault_of_ne_stopped hf hi he)
  case notFault =>
    intro hw
    have hc : s.part.state ≠ .unconfigured := by rcases hw with hw | hw | hw <;> simp [hw]
    have hnf : s.part.state ≠ .fault := by rcases hw with hw | hw | hw <;> simp [hw]
    exact exec_clearFault_of_refused tag h hc (ownClearFault_of_ne_fault hnf)
  case lastFrame =>
    intro hf hi he hv
    have hu : Answerable (s.setExecutor { s.executor with state := .stopped }) := ⟨h.running, h.place, h.noneReserved⟩
    obtain ⟨t, ht, hcause, -⟩ := exec_clearFault_of_stopped tag hu hf hi rfl
    exact ⟨_, t, exec_stopped_of_rest h.running he hv, ht, hcause⟩

end Sys2Proof.Machine

namespace Sys2Proof.Machine

/-! ## The lane of a bad packet (R159, R160) -/

section BadLane
variable {s : State} {kept : Bool}

/-- The sync pair puts the Receiver in LENGTH, whatever byte was kept before it. -/
theorem receiveForward_syncPair (hrx : s.link.rx = .hunt kept) (rest : List Byte) :
    receiveForward (Config.sync1 :: Config.packetSync2 :: rest) s = receiveForward rest (setRx .length s) := by
  have hfirst : forwardByte s Config.sync1 = setRx (.hunt true) s := by
    have hne : (Config.sync1 == Config.packetSync2) = false := by decide
    simp only [forwardByte, hrx, hne, Bool.and_false, Bool.false_eq_true, if_false, beq_self_eq_true]
  calc receiveForward (Config.sync1 :: Config.packetSync2 :: rest) s
      = receiveForward (Config.packetSync2 :: rest) (forwardByte s Config.sync1) := rfl
    _ = receiveForward (Config.packetSync2 :: rest) (setRx (.hunt true) s) := by rw [hfirst]
    _ = receiveForward rest (setRx .length s) := rfl

theorem receiveForward_of_overlong {len : Byte} (hrx : s.link.rx = .hunt kept) (hlen : 48 < len.toNat) :
    receiveForward [Config.sync1, Config.packetSync2, len] s = dropBad (setRx (.hunt false) s) :=
  (receiveForward_syncPair hrx [len]).trans (if_pos hlen)

theorem judgePacket_of_ne_crc {len : Byte} {front : List Byte} {c : BitVec 16} (hfront : front.length = len.toNat + 3)
    (hc : c ≠ crc (len :: front)) : judgePacket len (front ++ tagBytes c) s = dropBad s := by
  have htake : (front ++ tagBytes c).take (len.toNat + 3) = front := List.take_left' hfront
  have hfield : fieldU (front ++ tagBytes c) (len.toNat + 3) 2 = beNat (tagBytes c) := by
    simpa using fieldU_at front (tagBytes c) [] _ 2 hfront rfl
  unfold judgePacket
  dsimp only
  rw [htake, hfield, ofNat_beNat_tagBytes, if_pos hc.symm]

theorem receiveForward_of_ne_crc {kind : Byte} {tag : Tag} {payload : List Byte} {c : BitVec 16}
    (hrx : s.link.rx = .hunt kept) (hlen : payload.length ≤ 48) (hc : c ≠ crc (coveredBytes kind tag payload)) :
    receiveForward ([Config.sync1, Config.packetSync2] ++ coveredBytes kind tag payload ++ tagBytes c) s =
      dropBad (setRx (.hunt false) s) := by
  have hn : (BitVec.ofNat 8 payload.length).toNat = payload.length := by
    rw [BitVec.toNat_ofNat]
    omega
  have hfront : (kind :: (tagBytes tag ++ payload)).length = payload.length + 3 := by
    simp only [List.length_cons, List.length_append, tagBytes_length]
    omega
  have hbody : (kind :: (tagBytes tag ++ payload) ++ tagBytes c).length = payload.length + 5 := by
    rw [List.length_append, hfront, tagBytes_length]
  calc receiveForward ([Config.sync1, Config.packetSync2] ++ coveredBytes kind tag payload ++ tagBytes c) s
      = judgePacket (BitVec.ofNat 8 payload.length) (kind :: (tagBytes tag ++ payload) ++ tagBytes c)
          (setRx (.hunt false) s) := receiveForward_framed hrx (hn.trans_le hlen) (hbody.trans (by rw [hn]))
    _ = dropBad (setRx (.hunt false) s) := judgePacket_of_ne_crc (by rw [hn, hfront]) hc

theorem sortPacket_of_misfit {kind : Byte} {tag : Tag} {payload : List Byte}
    (hkind : isStreamKind kind = true ∨ isImmediateKind kind = true) (hfit : lengthFits kind payload.length = false) :
    sortPacket kind tag payload s = dropBad s := by
  have hknown : ¬ (!isStreamKind kind && !isImmediateKind kind) = true := by
    rcases hkind with h | h <;> simp [h]
  rw [sortPacket, if_neg hknown, hfit]
  rfl

theorem receiveForward_of_misfit {kind : Byte} {tag : Tag} {payload : List Byte} (hrx : s.link.rx = .hunt kept)
    (hlen : payload.length ≤ 48) (hkind : isStreamKind kind = true ∨ isImmediateKind kind = true)
    (hfit : lengthFits kind payload.length = false) :
    receiveForward (packetBytes kind tag payload) s = dropBad (setRx (.hunt false) s) :=
  (receiveForward_packet kind tag payload hrx hlen).trans (sortPacket_of_misfit hkind hfit)

end BadLane

/-- A kind of Table 10.2, by its number. -/
theorem isStreamKind_or_isImmediateKind {kind : Byte}
    (h : (1 ≤ kind.toNat ∧ kind.toNat ≤ 10) ∨ (16 ≤ kind.toNat ∧ kind.toNat ≤ 23)) :
    isStreamKind kind = true ∨ isImmediateKind kind = true := by
  simpa only [isStreamKind, isImmediateKind, Bool.and_eq_true, decide_eq_true_iff] using h

/-! ## What the drop raises (R161) -/

theorem dropBad_of_running {s : State} (h : s.part.state = .running) : dropBad s = enterFault .linkCrc s :=
  (if_pos h).trans (raiseFault_of_working (.inr (.inl h)))

theorem dropBad_of_not_running {s : State} (h : s.part.state ≠ .running) : dropBad s = raiseLink .badPacket s :=
  if_neg h

@[simp] theorem dropBad_link (s : State) : (dropBad s).link = s.link := by
  unfold dropBad
  split
  · exact raiseFault_link _ s
  · rfl

@[simp] theorem dropBad_responses (s : State) : (dropBad s).report.responses = s.report.responses := by
  unfold dropBad
  split
  · exact raiseFault_responses _ s
  · rfl

/-- R130: a fault stop decelerates, or is at rest at once. -/
theorem Executor.faultStop_state (e : Executor) : e.faultStop.state = .stopping ∨ e.faultStop.state = .stopped :=
  ite_eq_or_eq _ _ _

/-- Settles O5: each of the three lanes ends in the same drop, and the drop's effect goes by the part state alone. -/
theorem badPacketIsDropped : Obligations.BadPacketIsDropped := by
  unfold Obligations.BadPacketIsDropped
  intro s kept lane hrun hrx hlane
  have hdrop : receiveForward lane s = dropBad (setRx (.hunt false) s) := by
    rcases hlane with ⟨len, hlen, rfl⟩ | ⟨kind, tag, payload, c, hlen, hc, rfl⟩ |
      ⟨kind, tag, payload, hlen, hkind, hfit, rfl⟩
    · exact receiveForward_of_overlong hrx hlen
    · exact receiveForward_of_ne_crc hrx hlen hc
    · exact receiveForward_of_misfit hrx hlen (isStreamKind_or_isImmediateKind hkind) hfit
  have hexec : exec (.badPacketDrop lane) s = .next (dropBad (setRx (.hunt false) s)) :=
    congrArg Host.Outcome.next ((unlessReset_of_running hrun (receiveForward lane)).trans hdrop)
  refine ⟨_, hexec, dropBad_link _, dropBad_responses _, ?running, ?elsewhere⟩
  case running =>
    intro hr
    have hfault : dropBad (setRx (.hunt false) s) = enterFault .linkCrc (setRx (.hunt false) s) :=
      dropBad_of_running hr
    rw [hfault]
    exact ⟨rfl, rfl, rfl, rfl, rfl, s.executor.faultStop_state⟩
  case elsewhere => exact fun hr => dropBad_of_not_running hr

end Sys2Proof.Machine

namespace Sys2Proof.Machine

/-! ## The law of R32 -/

/-- The law speaks of the density and zone tables alone. -/
theorem TableStore.consistent.congr {t u : TableStore} (h : t.consistent) (hd : u.density = t.density)
    (hz : u.zone = t.zone) : u.consistent := by
  unfold TableStore.consistent at h ⊢
  rwa [hd, hz]

theorem governorEvaluate_tables (s : State) : (governorEvaluate s).tables = s.tables := by
  cases hdue : s.governor.evalDue with
  | none => simp only [governorEvaluate, hdue]
  | some c => rw [governorEvaluate_frame hdue]

theorem judgeStop_cases (s : State) : judgeStop s = s ∨ judgeStop s = raiseFault .stop s :=
  (ite_eq_or_eq _ _ _).symm

/-- What SETUP makes of the part, before the STOP input is judged (R146). -/
def configured (r : Setup) (s : State) : State :=
  (s.setPart { s.part with state := .parked, setup := some r }).setPort
    { s.port with sending := true, dropMask := r.dropMask }

/-- SETUP is refused and changes nothing, or takes its record and has STOP judged (R146, R147). -/
theorem ownSetup_cases (r : Setup) (s : State) :
    (ownSetup r s).1 = s ∨ (s.part.state = .unconfigured ∧ (ownSetup r s).1 = judgeStop (configured r s)) := by
  unfold ownSetup
  split
  case isTrue => exact .inl rfl
  case isFalse hu =>
    split
    · exact .inl rfl
    · exact .inr ⟨not_not.1 hu, rfl⟩

/-- A close that is not refused passes the check of R32. -/
theorem keepsLaw_of_accepted {load : Load} {p : Packet} {s : State} (h : closeRefusal load p s = none) :
    keepsLaw load.staged s.tables = true := by
  by_contra hlaw
  simp only [closeRefusal, Bool.eq_false_iff.2 hlaw] at h
  split at h
  · cases h
  · split at h
    · cases h
    · split at h <;> simp at h

/-- A commit that passes the check of R32 keeps the law, which a blade table does not touch. -/
theorem acceptClose_consistent {staged : Staged} {p : Packet} {s : State} (hs : s.tables.consistent)
    (hlaw : keepsLaw staged s.tables = true) : (acceptClose staged p s).tables.consistent := by
  cases staged with
  | density es =>
    exact .congr (t := { s.tables with density := es }) ⟨hlaw, hs.2⟩ (by simp [acceptClose]) (by simp [acceptClose])
  | zone es =>
    have hes : classesPresent es s.tables.density = true ∧ (es = [] ∨ zonePresent es = true) := by
      cases es with
      | nil => exact ⟨rfl, .inl rfl⟩
      | cons e rest =>
        obtain ⟨hp, hc⟩ := (Bool.and_eq_true _ _).mp hlaw
        exact ⟨hc, .inr hp⟩
    exact .congr (t := { s.tables with zone := es }) hes (by simp [acceptClose]) (by simp [acceptClose])
  | blade es =>
    refine hs.congr ?_ ?_
    · unfold acceptClose beginStall
      rw [commitBlade_density]
      split <;> rfl
    · unfold acceptClose beginStall
      rw [commitBlade_zone]
      split <;> rfl

theorem refusePacket_tables (p : Packet) (reason : Reason) (data : List Byte) (s : State) :
    (refusePacket p reason data s).tables = s.tables := by
  unfold refusePacket
  dsimp only
  split <;> simp

theorem dealTableClose_consistent {r : Setup} {p : Packet} {s : State} (hs : s.tables.consistent) :
    (dealTableClose r p s).tables.consistent := by
  unfold dealTableClose
  split
  · rwa [refusePacket_tables]
  · split
    · rw [refusePacket_tables]
      exact hs
    · rename_i load _ hnone
      exact acceptClose_consistent (s := abandonLoad s) hs (keepsLaw_of_accepted hnone)

/-- Every update that a command is built from keeps the law: all but a commit leave both tables as they are. -/
theorem keptAll_consistent : KeptAll fun s => s.tables.consistent where
  executor _ _ h _ := h
  moment s h := (plannerMoment_frame s).tables ▸ h
  mark s tag h := (reportMark_tables tag s).symm ▸ h
  events _ _ h := h
  workPort _ _ h _ _ := h
  governor _ _ h _ _ _ _ := h
  evaluate s h := (governorEvaluate_tables s).symm ▸ h
  keptFreq _ _ h := h
  part _ _ h _ _ _ := h
  commit s h := h.congr (commitBlade_density s) (commitBlade_zone s)
  port _ _ h _ _ _ := h
  link _ _ h _ := h
  abandon _ h := h
  cleared _ _ h := h
  stabs _ _ h := h
  record s tag body j o h := (makeRecord_frame tag body j o s).tables ▸ h
  acts s h := (makeActions_frame s).tables ▸ h
  planner _ _ h := h
  load _ _ h := h
  post s r h := (postResponse_tables r s).symm ▸ h
  report _ _ h := h
  close _ _ _ h := dealTableClose_consistent h
  intake _ _ h := h
  setup s f h := by
    rcases ownSetup_cases f s with he | ⟨-, he⟩
    · rwa [he]
    · rcases judgeStop_cases (configured f s) with hj | hj <;> rw [he, hj]
      · exact h
      · rwa [raiseFault_tables]

/-- A step carries out the command at the front, or idles. -/
theorem step_cases {s t : State} (h : step s = .next t) :
    t = s ∨ ∃ c rest, s.pending = c :: rest ∧ exec c (s.setPending rest) = .next t := by
  unfold step at h
  split at h
  · exact .inl (Host.Outcome.next.inj h).symm
  · exact .inr ⟨_, _, ‹_›, h⟩

/-- Settles O1: both clauses are the two rows of `step`. -/
theorem stepTakesFrontCommand : Obligations.StepTakesFrontCommand := by
  unfold Obligations.StepTakesFrontCommand
  refine ⟨fun _ _ _ => rfl, fun s hs => ?_⟩
  rw [step, hs]

/-- Settles O28: a property of the two tables that every single update keeps, a commit by its check of R32. -/
theorem zoneLawIsKept : Obligations.ZoneLawIsKept := by
  unfold Obligations.ZoneLawIsKept
  intro s t hs hstep
  rcases step_cases hstep with rfl | ⟨c, rest, -, he⟩
  · exact hs
  · exact keptAll_consistent.all c (s.setPending rest) t (fun _ => ⟨rfl, .inl rfl⟩) (fun _ => ⟨rfl, .inl rfl⟩) hs he

end Sys2Proof.Machine

namespace Sys2Proof.Machine

/-! ## How long the window can become (R69, R79) -/

theorem releaseHead_window_length_le (s : State) :
    (releaseHead s).planner.window.length ≤ s.planner.window.length := by
  unfold releaseHead
  split
  · exact le_rfl
  · rename_i hw
    simp [Planner.release, hw]

theorem applyReleases_window_length_le (s : State) :
    (applyReleases s).planner.window.length ≤ s.planner.window.length :=
  releaseLoop_induct (P := fun t => t.planner.window.length ≤ s.planner.window.length)
    (fun t h _ _ _ => (releaseHead_window_length_le t).trans h) _ s le_rfl

theorem headReleasable_iff (s : State) : headReleasable s = true ↔
    s.executor.queue.length < 32 ∧ ∃ w rest, s.planner.window = w :: rest ∧ w.record.body.headless = false := by
  have hcap : Config.queueCap = 32 := rfl
  unfold headReleasable
  split
  · rename_i w rest hw
    simp [hw, ← hcap]
  · rename_i hw
    simp [hw]

/-- A window that is full, with a head that can be released, comes down below 24 (R79). -/
theorem applyReleases_window_lt {s : State} (hw : plannerWorks s = true) (hh : headReleasable s = true)
    (hfull : s.planner.window.length = 24) : (applyReleases s).planner.window.length < 24 := by
  obtain ⟨-, hwin, -⟩ := applyReleases_released hw
  rw [hwin, List.length_drop, hfull]
  obtain ⟨hq, w, rest, hcons, hless⟩ := (headReleasable_iff s).1 hh
  have hmove : 0 < releaseCount s := by
    have hgo : (!w.record.body.headless) = true := by rw [hless]; rfl
    rw [releaseCount_eq, calledCount, hfull, hcons, List.takeWhile_cons, if_pos hgo, List.length_cons]
    omega
  exact Nat.sub_lt (by decide) hmove

@[simp] theorem releaseFull_window_length_le (s : State) :
    (releaseFull s).planner.window.length ≤ s.planner.window.length := by
  unfold releaseFull
  split
  · exact applyReleases_window_length_le s
  · exact le_rfl

theorem appendRecord_window_length_le (w : WindowEntry) (s : State) :
    (appendRecord w s).planner.window.length ≤ s.planner.window.length + 1 := by
  refine (releaseFull_window_length_le _).trans ?_
  simp [joinWindow]

/-- Appending leaves the head of a window that is not empty fit for release, or not, as it was. -/
theorem Planner.append_head_headless {p : Planner} {v : WindowEntry} {rest : List WindowEntry}
    (hp : p.window = v :: rest) (a : Nat) (b : Bool) (w : WindowEntry) :
    ∃ v' rest', (p.append a b w).window = v' :: rest' ∧ v'.record.body.headless = v.record.body.headless := by
  have hplan : ∀ q : Planner, q.window = v :: (rest ++ [w]) →
      ∃ v' rest', (q.replan a).window = v' :: rest' ∧ v'.record.body.headless = v.record.body.headless := by
    intro q hq
    have hu := Planner.replan_unplanned a q
    rw [hq, List.map_cons] at hu
    obtain ⟨v', rest', hv', hhead, -⟩ := List.map_eq_cons_iff.1 hu
    refine ⟨v', rest', hv', ?_⟩
    have hless : ∀ r : Record, r.unplanned.body.headless = r.body.headless := by
      intro r
      unfold Record.unplanned
      split
      · rename_i hc; simp [hc, Body.headless]
      · rfl
    rw [← hless, hhead, hless]
  unfold Planner.append
  split
  · exact hplan _ (by simp [hp])
  · split
    · exact ⟨v, rest ++ [w], by simp [hp], rfl⟩
    · exact ⟨v, rest ++ [w], by simp [hp], rfl⟩

theorem startsWork_works {s : State} (h : plannerWorks s = true) : plannerWorks (startsWork s) = true := by
  unfold startsWork
  split
  · rename_i hc
    simp only [plannerWorks, hc.2.2, Bool.and_eq_true] at h
    simp [plannerWorks, h.2]
  · exact h

/-- The window has room for a record, and for a second one once the release rules have been applied behind the first
(R79, R84). -/
def HasRoom (s : State) : Prop :=
  s.planner.window.length ≤ 22 ∨
    (s.planner.window.length = 23 ∧ plannerWorks s = true ∧ headReleasable s = true)

theorem HasRoom.length_le {s : State} (h : HasRoom s) : s.planner.window.length ≤ 23 := by
  rcases h with h | ⟨h, -, -⟩ <;> omega

theorem HasRoom.appendRecord {s : State} (h : HasRoom s) (w : WindowEntry) :
    (appendRecord w s).planner.window.length ≤ 23 := by
  rcases h with h | ⟨h, hworks, hhead⟩
  · exact (appendRecord_window_length_le w s).trans (by omega)
  · have hlen : (joinWindow w (startsWork s)).planner.window.length = 24 := by simp [joinWindow, h]
    have hworks' : plannerWorks (joinWindow w (startsWork s)) = true := startsWork_works hworks
    have hhead' : headReleasable (joinWindow w (startsWork s)) = true := by
      obtain ⟨hq, v, rest, hv, hless⟩ := (headReleasable_iff s).1 hhead
      obtain ⟨v', rest', hv', hless'⟩ := Planner.append_head_headless hv (startsWork s).accel
        (startsWork s).tables.waiting.isSome w
      exact (headReleasable_iff _).2 ⟨by simpa using hq, v', rest', by simpa [joinWindow] using hv',
        hless'.trans hless⟩
    have hfull : Machine.appendRecord w s = applyReleases (joinWindow w (startsWork s)) :=
      if_pos (hlen ▸ le_rfl)
    have := applyReleases_window_lt hworks' hhead' hlen
    rw [hfull]
    omega

theorem makeRecord_window_length_le (tag : Tag) (body : Body) (j : Nat) (o : Bool) (s : State) :
    (makeRecord tag body j o s).planner.window.length ≤ s.planner.window.length + 1 :=
  appendRecord_window_length_le _ _

theorem HasRoom.makeRecord {s : State} (h : HasRoom s) (tag : Tag) (body : Body) (j : Nat) (o : Bool) :
    (makeRecord tag body j o s).planner.window.length ≤ 23 :=
  HasRoom.appendRecord (s := s.setPlanner { s.planner with actions := [] }) h _

theorem HasRoom.makeActions {s : State} (h : HasRoom s) : (makeActions s).planner.window.length ≤ 23 :=
  HasRoom.appendRecord (s := s.setPlanner { s.planner with actions := [] }) h _

theorem plannerMoment_window_length_le {s : State} (h : s.planner.window.length ≤ 24) :
    (plannerMoment s).planner.window.length ≤ 24 := by
  have hreleased := (applyReleases_window_length_le s).trans h
  unfold plannerMoment
  dsimp only
  split
  case isTrue hdue =>
    have hempty : (applyReleases s).planner.window = [] := by
      simp only [actionsDue, Bool.and_eq_true, List.isEmpty_iff] at hdue
      exact hdue.2
    refine (applyReleases_window_length_le _).trans ?_
    refine (appendRecord_window_length_le _ _).trans ?_
    simp [hempty]
  case isFalse => exact hreleased

theorem plannerMoment_actions_length_le (s : State) :
    (plannerMoment s).planner.actions.length ≤ s.planner.actions.length := by
  unfold plannerMoment
  dsimp only
  split <;> simp

/-! ## The bounds behind a response that is being made (R173) -/

/-- The bounds of `Bounded`, while the response queue begins with `front`, whose places may be reserved, and has none
reserved behind it: the bounds as the owner of an immediate packet finds them. -/
structure BoundedBehind (front : List Place) (s : State) : Prop where
  counts : Bounded (s.setReport { s.report with responses := [] })
  places : s.report.responses.length ≤ 16
  behind : ∃ later, s.report.responses = front ++ later ∧ ∀ p ∈ later, p ≠ .reserved

theorem boundedBehind_nil_iff (s : State) : BoundedBehind [] s ↔ Bounded s where
  mp h := by
    obtain ⟨later, hlater, hnone⟩ := h.behind
    exact { h.counts with responses := h.places, noneReserved := hlater ▸ hnone }
  mpr h := ⟨{ h with responses := Nat.zero_le _, noneReserved := fun _ hp => absurd hp List.not_mem_nil }, h.responses,
    _, rfl, h.noneReserved⟩

namespace BoundedBehind
variable {front : List Place} {s t : State}

/-- The Planner's own work changes of what is bounded the window, the pending actions and the execution queue. -/
theorem of_planFrame (h : BoundedBehind front s) (hf : PlanFrame s t) (hw : t.planner.window.length ≤ 24)
    (hq : t.executor.queue.length ≤ 32) (ha : t.planner.actions.length ≤ 4) : BoundedBehind front t where
  counts :=
    { intake := hf.link ▸ h.counts.intake
      window := hw
      queue := hq
      actions := ha
      responses := Nat.zero_le _
      noneReserved := fun _ hp => absurd hp List.not_mem_nil
      marks := by rw [State.setReport_report, hf.report]; exact h.counts.marks
      operator := hf.governor ▸ h.counts.operator
      override := hf.governor ▸ h.counts.override
      evalCount := hf.governor ▸ h.counts.evalCount
      jamCount := hf.governor ▸ h.counts.jamCount
      missed := hf.port ▸ h.counts.missed
      further := hf.record ▸ h.counts.further
      load := hf.port ▸ h.counts.load
      heading := hf.port ▸ h.counts.heading }
  places := hf.report ▸ h.places
  behind := hf.report ▸ h.behind

theorem setPlanner (h : BoundedBehind front s) {p : Planner} (hw : p.window.length ≤ 24) (ha : p.actions.length ≤ 4) :
    BoundedBehind front (s.setPlanner p) :=
  ⟨{ h.counts with window := hw, actions := ha }, h.places, h.behind⟩

theorem setTables (h : BoundedBehind front s) (x : TableStore) : BoundedBehind front (s.setTables x) :=
  ⟨{ h.counts with }, h.places, h.behind⟩

theorem setEvents (h : BoundedBehind front s) (e : Events) :
    BoundedBehind front (s.setReport { s.report with events := e }) :=
  ⟨{ h.counts with }, h.places, h.behind⟩

theorem post (h : BoundedBehind front s) (kind : Byte) (tag : Tag) (result : Result) (data : List Byte) :
    BoundedBehind front (postResponse ⟨kind, tag, result, data⟩ s) := by
  rcases postResponse_cases ⟨kind, tag, result, data⟩ s with ⟨hroom, he⟩ | ⟨-, he⟩ <;> rw [he]
  · obtain ⟨later, hlater, hnone⟩ := h.behind
    have hlen : (s.report.responses ++ [Place.held ⟨kind, tag, result, data⟩]).length ≤ 16 := by
      rw [List.length_append]
      exact hroom
    refine ⟨{ h.counts with }, hlen,
      later ++ [.held ⟨kind, tag, result, data⟩], by simp [hlater], ?_⟩
    intro p hp
    rcases List.mem_append.1 hp with hp | hp
    · exact hnone p hp
    · rw [List.mem_singleton.1 hp]; exact Place.noConfusion
  · exact h.setEvents _

theorem evaluate (h : BoundedBehind front s) : BoundedBehind front (governorEvaluate s) := by
  cases hdue : s.governor.evalDue with
  | none => simpa only [governorEvaluate, hdue] using h
  | some c =>
    have hov := h.counts.override
    have hjam := h.counts.jamCount
    simp only [State.setReport_governor] at hov hjam
    have hnew : 25 ≤ (s.governor.evaluated s.port.held.load c).override ∧
        (s.governor.evaluated s.port.held.load c).override ≤ 100 ∧
        (s.governor.evaluated s.port.held.load c).jamCount ≤ 8 := by
      simp only [Governor.evaluated, Machine.evaluate]
      repeat' split
      all_goals dsimp only; omega
    have hset : BoundedBehind front (s.setGovernor (s.governor.evaluated s.port.held.load c)) :=
      ⟨{ h.counts with override := ⟨hnew.1, hnew.2.1⟩, jamCount := hnew.2.2 }, h.places, h.behind⟩
    rw [governorEvaluate_of_due hdue]
    split
    · exact hset.setEvents _
    · exact hset

theorem commit (h : BoundedBehind front s) : BoundedBehind front (commitBlade s) := by
  unfold commitBlade
  split
  · exact h
  · split
    · exact (h.setTables _).post _ _ _ _
    · exact h

theorem moment (h : BoundedBehind front s) : BoundedBehind front (plannerMoment s) :=
  h.of_planFrame (plannerMoment_frame s) (plannerMoment_window_length_le h.counts.window)
    (plannerMoment_queue s h.counts.queue) ((plannerMoment_actions_length_le s).trans h.counts.actions)

theorem mark (h : BoundedBehind front s) (tag : Tag) : BoundedBehind front (reportMark tag s) := by
  have hmarks := reportMark_marks_length tag s h.counts.marks
  unfold reportMark at hmarks ⊢
  split
  · rw [if_pos ‹_›] at hmarks
    exact ⟨{ h.counts with marks := hmarks }, h.places, h.behind⟩
  · exact ⟨{ h.counts with }, h.places, h.behind⟩

end BoundedBehind

end Sys2Proof.Machine

namespace Sys2Proof.Machine

/-! ## The bounds are kept by the blocks behind the Planner -/

/-- A bounded number that an update leaves, or sets within its bound, stays within it. -/
theorem bound_of_eq_or {α : Type*} {p : α → Prop} {a b : α} (h : p a) (hb : b = a ∨ p b) : p b :=
  hb.elim (· ▸ h) id

theorem kept_boundedBehind (front : List Place) : Kept (BoundedBehind front) where
  executor _ _ h hq := ⟨{ h.counts with queue := hq.trans h.counts.queue }, h.places, h.behind⟩
  moment _ h := h.moment
  mark _ tag h := h.mark tag
  events _ e h := h.setEvents e
  workPort _ _ h hp _ := by
    rw [hp]
    exact ⟨{ h.counts with }, h.places, h.behind⟩
  governor s g h hop hov hev hjam := ⟨{ h.counts with
    operator := bound_of_eq_or (p := fun n => 25 ≤ n ∧ n ≤ 100) h.counts.operator hop
    override := bound_of_eq_or (p := fun n => 25 ≤ n ∧ n ≤ 100) h.counts.override
      (hov.imp_right fun h100 => by simp [h100])
    evalCount := bound_of_eq_or (p := (· ≤ 15)) h.counts.evalCount hev
    jamCount := bound_of_eq_or (p := (· ≤ 8)) h.counts.jamCount (hjam.imp_right fun h0 => by simp [h0]) }, h.places,
    h.behind⟩
  evaluate _ h := h.evaluate
  keptFreq _ _ h := ⟨{ h.counts with }, h.places, h.behind⟩
  part _ _ h _ _ hf := ⟨{ h.counts with further := bound_of_eq_or (p := (· ≤ 255)) h.counts.further hf }, h.places,
    h.behind⟩
  commit _ h := h.commit
  port _ _ h hm hl hh := ⟨{ h.counts with
    missed := bound_of_eq_or (p := (· ≤ 255)) h.counts.missed hm
    load := bound_of_eq_or (p := (· ≤ 250)) h.counts.load hl
    heading := bound_of_eq_or (p := (· < 36000)) h.counts.heading hh }, h.places, h.behind⟩
  link _ _ h hl := ⟨{ h.counts with intake := hl.trans h.counts.intake }, h.places, h.behind⟩
  abandon _ h := h.setTables _
  cleared _ _ h := h.setPlanner (Nat.zero_le _) (Nat.zero_le _)
  stabs s hd h := h.setPlanner (by simpa [fillStabs] using h.counts.window) h.counts.actions

/-! ## The bounds are kept by the taking of a packet -/

namespace BoundedBehind
variable {front : List Place} {s : State}

theorem fault (h : BoundedBehind front s) (c : FaultCode) : BoundedBehind front (raiseFault c s) :=
  (kept_boundedBehind front).fault c h

theorem refuse (h : BoundedBehind front s) (p : Packet) (reason : Reason) (data : List Byte) :
    BoundedBehind front (refusePacket p reason data s) := by
  unfold refusePacket
  dsimp only
  split
  · exact (h.post _ _ _ _).fault _
  · exact h.post _ _ _ _

theorem makeRecord (h : BoundedBehind front s) (hw : s.planner.window.length ≤ 23) (tag : Tag) (body : Body) (j : Nat)
    (o : Bool) : BoundedBehind front (makeRecord tag body j o s) :=
  h.of_planFrame (makeRecord_frame ..) ((makeRecord_window_length_le ..).trans (by omega))
    (appendRecord_queue _ (s.setPlanner { s.planner with actions := [] }) h.counts.queue) (by simp)

theorem makeActions (h : BoundedBehind front s) (hw : s.planner.window.length ≤ 23) :
    BoundedBehind front (makeActions s) :=
  h.of_planFrame (makeActions_frame s) ((appendRecord_window_length_le _ _).trans (by simp; omega))
    (makeActions_queue s h.counts.queue) (by simp)

theorem dealBlock (h : BoundedBehind front s) (hr : HasRoom s) (r : Setup) (p : Packet) :
    BoundedBehind front (dealBlock r p s) := by
  unfold Machine.dealBlock
  split
  · exact h.refuse _ _ _
  · have hmade := h.makeRecord hr.length_le p.tag
      (.blockStart (blockTop r p) (blockClear r p) (blockDry p) p.tag) 0 false
    have hrun : ∀ {t : State}, BoundedBehind front t → BoundedBehind front (runPart t) := by
      intro t ht
      unfold runPart
      split
      · exact (kept_boundedBehind front).partState _ ht PartState.noConfusion
      · exact ht
    exact (hrun hmade).setPlanner (hrun hmade).counts.window (hrun hmade).counts.actions

theorem dealContour {t : State} (h : BoundedBehind front s) (hr : HasRoom s) {r : Setup} {p : Packet}
    (ht : dealContour r p s = .ok t) : BoundedBehind front t := by
  unfold Machine.dealContour at ht
  split at ht
  · split at ht
    · cases ht
      exact h.refuse _ _ _
    · split at ht
      · cases ht
        rename_i b _ _ _ _ snap _
        have hmade := (h.makeRecord hr.length_le p.tag (.travel (machineX b p) (machineY b p) none) 0 true).makeRecord
          (hr.makeRecord _ _ _ _) p.tag (.enter (machineX b p) (machineY b p) none snap.plunge) 0 true
        exact hmade.setPlanner hmade.counts.window hmade.counts.actions
      · cases ht
  · cases ht
    exact h.refuse _ _ _

theorem makeCut (h : BoundedBehind front s) (hr : HasRoom s) (b : PlannedBlock) (k : ContourRecord)
    (blade : BladeEntry) (c : CutRecord) (p : Packet) : BoundedBehind front (makeCut b k blade c p s) := by
  have htrim : ∀ d, BoundedBehind front (setTrimDist d s) := fun d => h.setPlanner h.counts.window h.counts.actions
  have hpivot : ∀ d pv, BoundedBehind front (makePivot p.tag pv (setTrimDist d s)) ∧
      (makePivot p.tag pv (setTrimDist d s)).planner.window.length ≤ 23 := by
    intro d pv
    have hroom : HasRoom (setTrimDist d s) := hr
    cases pv with
    | none => exact ⟨htrim d, hroom.length_le⟩
    | some pivot => exact ⟨(htrim d).makeRecord hroom.length_le _ _ _ _, hroom.makeRecord _ _ _ _⟩
  obtain ⟨hbound, hlen⟩ := hpivot (cutJunction k blade c s).trimDist (cutJunction k blade c s).pivot
  obtain ⟨w, hfill, hw, -⟩ := fillFirst_eq k c.heading
    (makePivot p.tag (cutJunction k blade c s).pivot (setTrimDist (cutJunction k blade c s).trimDist s))
  have hfilled := hbound.setPlanner (p := { (makePivot p.tag (cutJunction k blade c s).pivot
      (setTrimDist (cutJunction k blade c s).trimDist s)).planner with window := w }) (hw.trans_le hbound.counts.window)
    hbound.counts.actions
  have hmade := hfilled.makeRecord (hw.trans_le hlen) p.tag (.cut c) (cutJunction k blade c s).speed false
  unfold Machine.makeCut
  dsimp only
  rw [hfill]
  exact hmade.setPlanner hmade.counts.window hmade.counts.actions

theorem dealCut {t : State} (h : BoundedBehind front s) (hr : HasRoom s) {r : Setup} {p : Packet}
    (ht : dealCut r p s = .ok t) : BoundedBehind front t := by
  unfold Machine.dealCut at ht
  split at ht
  · split at ht
    · cases ht
      exact h.refuse _ _ _
    · split at ht
      · cases ht
        exact h
      · split at ht
        · cases ht
        · split at ht
          · cases ht
          · cases ht
            exact h.makeCut hr _ _ _ _ _
  · cases ht
    exact h.refuse _ _ _

theorem dealClose {t : State} (h : BoundedBehind front s) (hr : HasRoom s) {r : Setup} {p : Packet}
    (ht : dealClose r p s = .ok t) : BoundedBehind front t := by
  unfold Machine.dealClose at ht
  split at ht
  · split at ht
    · cases ht
      rename_i k _ _ _ blade _
      obtain ⟨w, hfill, hw, -⟩ := fillStab_eq k s
      have hlen : (closeMarks w).length = s.planner.window.length := by rw [closeMarks, List.length_map, hw]
      have hbegun : BoundedBehind front (beginLeave (trimDue blade s.planner.trimDist) (fillStab k s)) ∧
          (beginLeave (trimDue blade s.planner.trimDist) (fillStab k s)).planner.window.length ≤ 23 := by
        rw [beginLeave, hfill]
        exact ⟨h.setPlanner (hlen.trans_le h.counts.window) h.counts.actions, hlen.trans_le hr.length_le⟩
      have hmade := hbegun.1.makeRecord hbegun.2 p.tag
        (.leave (leaveSpeed k) (trimDue blade s.planner.trimDist)) 0 false
      exact hmade.setPlanner hmade.counts.window hmade.counts.actions
    · cases ht
  · cases ht
    exact h.refuse _ _ _

theorem dealBlockEnd (h : BoundedBehind front s) (hr : HasRoom s) (r : Setup) (p : Packet) :
    BoundedBehind front (dealBlockEnd r p s) := by
  unfold Machine.dealBlockEnd
  split
  · rename_i b _ _
    have hmade := h.makeRecord hr.length_le p.tag (.blockDone b.tag) 0 false
    exact hmade.setPlanner hmade.counts.window hmade.counts.actions
  · exact h.refuse _ _ _

theorem addAction (h : BoundedBehind front s) (hr : HasRoom s) (a : Action) :
    BoundedBehind front (addAction a s) := by
  unfold Machine.addAction joinAction
  split
  · have hmade := h.makeActions hr.length_le
    exact hmade.setPlanner hmade.counts.window (by simp)
  · rename_i hfew
    have hcap : Config.actionCap = 4 := rfl
    exact h.setPlanner h.counts.window (by simp; omega)

theorem dealTableOpen (h : BoundedBehind front s) (r : Setup) (p : Packet) :
    BoundedBehind front (dealTableOpen r p s) := by
  unfold Machine.dealTableOpen
  split
  · exact h.refuse _ _ _
  · split
    · exact h.setTables _
    · exact h.refuse _ _ _

theorem dealTableData (h : BoundedBehind front s) (r : Setup) (p : Packet) :
    BoundedBehind front (dealTableData r p s) := by
  unfold Machine.dealTableData
  split
  · exact h.refuse _ _ _
  · split
    · exact h
    · exact h.setTables _

theorem fixMemory_actions (p : Planner) : p.fixMemory.actions = p.actions := by
  unfold Planner.fixMemory
  split
  · split <;> rfl
  all_goals rfl

theorem acceptClose (h : BoundedBehind front s) (staged : Staged) (p : Packet) :
    BoundedBehind front (acceptClose staged p s) := by
  unfold Machine.acceptClose
  split
  · exact (h.setTables _).post _ _ _ _
  · exact (h.setTables _).post _ _ _ _
  · refine commit ?_
    unfold beginStall
    split
    · exact h.setTables _
    · exact (h.setTables _).setPlanner (by simpa [Planner.fixMemory_window] using h.counts.window)
        (by simpa [fixMemory_actions] using h.counts.actions)

theorem dealTableClose (h : BoundedBehind front s) (r : Setup) (p : Packet) :
    BoundedBehind front (dealTableClose r p s) := by
  unfold Machine.dealTableClose
  split
  · exact h.refuse _ _ _
  · split
    · exact (h.setTables _).refuse _ _ _
    · exact (h.setTables _).acceptClose _ _

end BoundedBehind

/-- What may be taken finds room in the window (R84). -/
theorem takePacket_cases (kind : Byte) (s : State) : takePacket kind s = none ∨
    ∃ r p rest, takePacket kind s = some (r, p, takeIntake rest s) ∧ s.part.setup = some r ∧
      s.link.intake = p :: rest ∧ canTake s = true ∧ p.kind = kind := by
  unfold takePacket
  split
  · rename_i r p rest hr hi
    split
    · rename_i hc
      simp only [Bool.and_eq_true, beq_iff_eq] at hc
      exact .inr ⟨r, p, rest, rfl, hr, hi, hc⟩
    · exact .inl rfl
  · exact .inl rfl

theorem HasRoom.of_canTake {s : State} (h : canTake s = true) : HasRoom s := by
  simp only [canTake, Bool.and_eq_true, Bool.or_eq_true, decide_eq_true_iff] at h
  exact h.2.imp_right fun h23 => ⟨h23.1, h.1.1, h23.2⟩

theorem takeIntake_bounded {front : List Place} {s : State} {p : Packet} {rest : List Packet}
    (h : BoundedBehind front s) (hi : s.link.intake = p :: rest) : BoundedBehind front (takeIntake rest s) :=
  (kept_boundedBehind front).link s _ h (by rw [hi]; exact Nat.le_succ _)

theorem takeAndDeal_bounded {front : List Place} {s : State} (kind : Byte) {deal : Setup → Packet → State → State}
    (hd : ∀ r p u, BoundedBehind front u → HasRoom u → BoundedBehind front (deal r p u)) (h : BoundedBehind front s) :
    BoundedBehind front (takeAndDeal kind deal s) := by
  rcases takePacket_cases kind s with he | ⟨r, p, rest, he, -, hi, hc, -⟩
  · simpa only [takeAndDeal, he] using h
  · rw [takeAndDeal, he]
    exact (hd r p _ (takeIntake_bounded h hi) (.of_canTake (s := s) hc)).moment

theorem takeAndTry_bounded {front : List Place} {s t : State} (kind : Byte)
    {deal : Setup → Packet → State → Except Fault State}
    (hd : ∀ r p u v, BoundedBehind front u → HasRoom u → deal r p u = .ok v → BoundedBehind front v)
    (h : BoundedBehind front s) (ht : takeAndTry kind deal s = .next t) : BoundedBehind front t := by
  unfold takeAndTry at ht
  split at ht
  · cases ht
    exact h
  · rcases takePacket_cases kind s with he | ⟨r, p, rest, he, -, hi, hc, -⟩ <;> rw [he] at ht
    · cases ht
      exact h
    · dsimp only at ht
      split at ht
      · rename_i v hv
        cases ht
        exact (hd r p _ v (takeIntake_bounded h hi) (.of_canTake (s := s) hc) hv).moment
      · cases ht

/-! ## The bounds are kept by the links -/

/-- The answer fills the place reserved for it, behind the responses held before and before those of the owner. -/
theorem handImmediate_bounded (kind : Byte) (tag : Tag) (owner : State → State × Reply)
    (ho : ∀ front u, BoundedBehind front u → BoundedBehind front (owner u).1) {s : State} (h : BoundedBehind [] s) :
    BoundedBehind [] (handImmediate kind tag owner s) := by
  rcases handImmediate_cases kind tag owner s with ⟨-, -, he⟩ | ⟨-, hroom, he⟩ | ⟨-, -, he⟩ <;> rw [he]
  · exact h.post _ _ _ _
  · have hnone : ∀ p ∈ s.report.responses, p ≠ .reserved := ((boundedBehind_nil_iff s).1 h).noneReserved
    have hreserved : BoundedBehind (s.report.responses ++ [.reserved]) (reservePlace s) :=
      ⟨{ h.counts with }, by rw [reservePlace, State.setReport_report, List.length_append]; exact hroom, [],
        (List.append_nil _).symm,
        fun _ hp => absurd hp List.not_mem_nil⟩
    have howned := ho _ _ hreserved
    generalize (owner (reservePlace s)).2.response kind tag = resp
    obtain ⟨later, hlater, hheld⟩ := howned.behind
    have hfilled : fillPlace resp (owner (reservePlace s)).1.report.responses =
        s.report.responses ++ .held resp :: later := by
      rw [hlater, List.append_assoc, List.singleton_append, fillPlace_reserved_append resp hnone]
    refine ⟨{ howned.counts with }, by simpa [answer] using howned.places, _, hfilled, ?_⟩
    intro p hp
    rcases List.mem_append.1 hp with hp | hp
    · exact hnone p hp
    · rcases List.mem_cons.1 hp with rfl | hp
      · exact Place.noConfusion
      · exact hheld p hp
  · exact h.setEvents _

theorem ownSetup_bounded (r : Setup) {front : List Place} {s : State} (h : BoundedBehind front s) :
    BoundedBehind front (ownSetup r s).1 := by
  have hconfigured : BoundedBehind front (configured r s) := ⟨{ h.counts with }, h.places, h.behind⟩
  rcases ownSetup_cases r s with he | ⟨-, he⟩ <;> rw [he]
  · exact h
  · rcases judgeStop_cases (configured r s) with hj | hj <;> rw [hj]
    · exact hconfigured
    · exact hconfigured.fault _

theorem ownEventMask_bounded (v : Byte) {front : List Place} {s : State} (h : BoundedBehind front s) :
    BoundedBehind front (ownEventMask v s).1 := ⟨{ h.counts with }, h.places, h.behind⟩

theorem ownerOf_bounded (kind : Byte) (payload : List Byte) (front : List Place) (s : State)
    (h : BoundedBehind front s) : BoundedBehind front (ownerOf kind payload s).1 := by
  have k := kept_boundedBehind front
  unfold ownerOf
  repeat' split
  · exact ownSetup_bounded _ h
  · exact h
  · exact k.ownOverride _ h
  · exact k.ownHalt h
  · exact k.ownResume h
  · exact k.ownAbort h
  · exact k.ownClearFault h
  · exact ownEventMask_bounded _ h

namespace BoundedBehind
variable {front : List Place} {s : State}

theorem setRx (h : BoundedBehind front s) (r : Reception) : BoundedBehind front (setRx r s) :=
  (kept_boundedBehind front).link s _ h le_rfl

theorem dropBad (h : BoundedBehind front s) : BoundedBehind front (dropBad s) := by
  unfold Machine.dropBad
  split
  · exact h.fault _
  · exact h.setEvents _

theorem arriveStream (h : BoundedBehind front s) (p : Packet) : BoundedBehind front (arriveStream p s) := by
  unfold Machine.arriveStream
  split
  · exact h.post _ _ _ _
  · split
    · rename_i hroom
      have hcap : Config.intakeCap = 64 := rfl
      exact ⟨{ h.counts with intake := by simp [appendIntake]; omega }, h.places, h.behind⟩
    · exact h.fault _

theorem sortPacket (h : BoundedBehind [] s) (kind : Byte) (tag : Tag) (payload : List Byte) :
    BoundedBehind [] (sortPacket kind tag payload s) := by
  unfold Machine.sortPacket
  split
  · exact h.post _ _ _ _
  · split
    · exact h.dropBad
    · split
      · exact h.arriveStream _
      · exact handImmediate_bounded _ _ _ (ownerOf_bounded _ _) h

theorem forwardByte (h : BoundedBehind [] s) (b : Byte) : BoundedBehind [] (forwardByte s b) := by
  unfold Machine.forwardByte
  split
  · split <;> exact h.setRx _
  · split
    · exact (h.setRx _).dropBad
    · exact h.setRx _
  · split
    · unfold judgePacket
      dsimp only
      split
      · exact (h.setRx _).dropBad
      · exact (h.setRx _).sortPacket _ _ _
    · exact h.setRx _

theorem receiveForward (lane : List Byte) (h : BoundedBehind [] s) : BoundedBehind [] (receiveForward lane s) :=
  List.foldlRecOn lane Machine.forwardByte h fun _ hu b _ => hu.forwardByte b

theorem chooseEvent (h : BoundedBehind [] s) : BoundedBehind [] (chooseEvent s) := by
  have event : ∀ (bytes : List Byte) (e : Events), BoundedBehind [] (sendPacket bytes (Machine.setEvents e s)) :=
    fun _ _ => ⟨{ h.counts with }, h.places, h.behind⟩
  unfold Machine.chooseEvent
  dsimp only
  split
  · exact event _ _
  · split
    · rename_i t rest hmarks _
      have hm : rest.length ≤ 8 := by
        have := h.counts.marks
        rw [State.setReport_report, hmarks] at this
        exact (Nat.le_succ _).trans this
      exact ⟨{ h.counts with marks := hm }, h.places, h.behind⟩
    · repeat' split
      case isFalse.isFalse.isFalse.isFalse.isFalse => exact ⟨{ h.counts with }, h.places, h.behind⟩
      all_goals exact event _ _

theorem chooseLane (h : BoundedBehind [] s) : BoundedBehind [] (chooseLane s) := by
  unfold Machine.chooseLane
  split
  · rename_i r rest hresponses
    have hsub : rest ⊆ s.report.responses := by rw [hresponses]; exact List.subset_cons_self _ _
    have hlen : rest.length ≤ 16 := by
      have := h.places
      rw [hresponses] at this
      exact (Nat.le_succ _).trans this
    have hnone := ((boundedBehind_nil_iff s).1 h).noneReserved
    exact ⟨{ h.counts with }, hlen, rest, rfl, fun p hp => hnone p (hsub hp)⟩
  · exact h.chooseEvent
  · exact h.chooseEvent

end BoundedBehind

/-! ## The bounds are kept by every command -/

/-- Settles O59: every queue and list is empty at reset, and every count 0 but for the overrides of 100. -/
theorem boundsHoldAtReset : Obligations.BoundsHoldAtReset := by
  unfold Obligations.BoundsHoldAtReset
  constructor <;> decide

theorem resetPart_bounded (s : State) : Bounded (resetPart s) := { boundsHoldAtReset with }

theorem holdInReset_bounded (s : State) : Bounded (holdInReset s) := { boundsHoldAtReset with }

theorem exec_bounded (c : Instr) {s t : State} (h : BoundedBehind [] s) (he : exec c s = .next t) :
    BoundedBehind [] t := by
  have k := kept_boundedBehind []
  have worked : ∀ {f : State → State}, exec c s = .next (unlessReset s f) →
      (BoundedBehind [] s → BoundedBehind [] (f s)) → BoundedBehind [] t := by
    intro f hf hkeep
    rw [← Host.Outcome.next.inj (hf.symm.trans he)]
    exact unlessReset_keeps f hkeep h
  have hand : ∀ (kind : Byte) (tag : Tag) (owner : State → State × Reply),
      (∀ front u, BoundedBehind front u → BoundedBehind front (owner u).1) →
      BoundedBehind [] s → BoundedBehind [] (handImmediate kind tag owner s) :=
    fun kind tag owner ho hs => handImmediate_bounded kind tag owner ho hs
  cases c with
  | streamPacketArrival lane | unknownKind lane | badPacketDrop lane =>
    exact worked (f := receiveForward lane) rfl (·.receiveForward lane)
  | block =>
    exact worked (f := takeAndDeal _ _) rfl (takeAndDeal_bounded _ fun r p u hu hr => hu.dealBlock hr r p)
  | contour => exact takeAndTry_bounded _ (fun _ _ _ _ hu hr hv => hu.dealContour hr hv) h he
  | cut => exact takeAndTry_bounded _ (fun _ _ _ _ hu hr hv => hu.dealCut hr hv) h he
  | close => exact takeAndTry_bounded _ (fun _ _ _ _ hu hr hv => hu.dealClose hr hv) h he
  | blockEnd =>
    exact worked (f := takeAndDeal _ _) rfl (takeAndDeal_bounded _ fun r p u hu hr => hu.dealBlockEnd hr r p)
  | mark => exact worked (f := takeAndDeal _ _) rfl (takeAndDeal_bounded _ fun _ _ _ hu hr => hu.addAction hr _)
  | aux => exact worked (f := takeAndDeal _ _) rfl (takeAndDeal_bounded _ fun _ _ _ hu hr => hu.addAction hr _)
  | tableOpen =>
    exact worked (f := takeAndDeal _ _) rfl (takeAndDeal_bounded _ fun r p u hu _ => hu.dealTableOpen r p)
  | tableData =>
    exact worked (f := takeAndDeal _ _) rfl (takeAndDeal_bounded _ fun r p u hu _ => hu.dealTableData r p)
  | tableClose =>
    exact worked (f := takeAndDeal _ _) rfl (takeAndDeal_bounded _ fun r p u hu _ => hu.dealTableClose r p)
  | bladeTableCommit => exact worked (f := commitBlade) rfl (·.commit)
  | release => exact worked (f := plannerMoment) rfl (·.moment)
  | setup tag fields => exact worked (f := handImmediate _ _ _) rfl (hand _ _ _ fun _ _ hu => ownSetup_bounded _ hu)
  | queryStatus tag id | queryPosition tag id | queryTable tag id | querySetup tag id | queryItemRange tag item id =>
    exact worked (f := handImmediate _ _ (ownQuery _ _)) rfl (hand _ _ _ fun _ _ hu => hu)
  | override tag v =>
    exact worked (f := handImmediate _ _ _) rfl
      (hand _ _ _ fun front _ hu => (kept_boundedBehind front).ownOverride v hu)
  | halt tag =>
    exact worked (f := handImmediate _ _ _) rfl (hand _ _ _ fun front _ hu => (kept_boundedBehind front).ownHalt hu)
  | resume tag =>
    exact worked (f := handImmediate _ _ _) rfl (hand _ _ _ fun front _ hu => (kept_boundedBehind front).ownResume hu)
  | abort tag =>
    exact worked (f := handImmediate _ _ _) rfl (hand _ _ _ fun front _ hu => (kept_boundedBehind front).ownAbort hu)
  | clearFault tag =>
    exact worked (f := handImmediate _ _ _) rfl
      (hand _ _ _ fun front _ hu => (kept_boundedBehind front).ownClearFault hu)
  | eventMask tag v => exact worked (f := handImmediate _ _ _) rfl (hand _ _ _ fun _ _ hu => ownEventMask_bounded v hu)
  | frame =>
    change execFrame s = _ at he
    unfold execFrame at he
    split at he
    · cases he
      exact h
    · split at he
      · cases he
      · rw [← Host.Outcome.next.inj he]
        exact k.runFrame h
  | driveLink => exact worked (f := raiseDriveLink) rfl k.raiseDriveLink
  | governorEvaluation => exact worked (f := governorEvaluate) rfl (·.evaluate)
  | bladeJam => exact worked (f := raiseBladeJam) rfl k.raiseBladeJam
  | lockTimeout => exact worked (f := takeLockTimeout) rfl k.takeLockTimeout
  | trimTimeout => exact worked (f := takeTrimTimeout) rfl k.takeTrimTimeout
  | dwellTimeout => exact worked (f := takeDwellTimeout) rfl k.takeDwellTimeout
  | standoff => exact worked (f := endStandoffRetract) rfl k.endStandoffRetract
  | holdEntry => exact worked (f := takeHoldEntry) rfl k.takeHoldEntry
  | abortStopEnd => exact worked (f := endAbortStop) rfl k.endAbortStop
  | stopped => exact worked (f := takeStopped) rfl k.takeStopped
  | recoverRetractEnd => exact worked (f := endRecover) rfl k.endRecover
  | returnFrame lane => exact worked (f := receiveDrive lane) rfl (k.receiveDrive lane)
  | stopAsserted =>
    have hset : BoundedBehind [] (setStop true s) := ⟨{ h.counts with }, h.places, h.behind⟩
    change execStopAsserted s = _ at he
    unfold execStopAsserted at he
    split at he
    · cases he
      exact hset
    · cases he
      exact hset.fault _
  | stopReleased =>
    cases he
    exact ⟨{ h.counts with }, h.places, h.behind⟩
  | reset =>
    cases he
    exact (boundedBehind_nil_iff _).2 (holdInReset_bounded s)
  | returnLaneChoice => exact worked (f := chooseLane) rfl (·.chooseLane)
  | partialFrameDiscard =>
    refine worked (f := discardPartial) rfl fun hs => ?_
    unfold discardPartial
    split
    · exact hs
    · exact ⟨{ hs.counts with }, hs.places, hs.behind⟩
  | resetReleased =>
    rw [← Host.Outcome.next.inj he]
    split
    · exact (boundedBehind_nil_iff _).2 (resetPart_bounded s)
    · exact h

/-- Settles O58: the bounds hold with at most one response place reserved while a command is carried out, and each
command ends with none. -/
theorem boundsAreKept : Obligations.BoundsAreKept := by
  unfold Obligations.BoundsAreKept
  intro s t hs hstep
  rcases step_cases hstep with rfl | ⟨c, rest, -, he⟩
  · exact hs
  · have hrest : BoundedBehind [] (s.setPending rest) := (boundedBehind_nil_iff _).2 { hs with }
    exact (boundedBehind_nil_iff t).1 (exec_bounded c hrest he)

end Sys2Proof.Machine

namespace Sys2Proof.Machine

/-! ## Reset (R158) -/

/-- In reset no command but the two inputs changes anything (R158, log 24). -/
theorem exec_of_reset {c : Instr} {s : State} (h : s.part.inReset = true) (h1 : c ≠ .stopAsserted)
    (h2 : c ≠ .stopReleased) (h3 : c ≠ .reset) (h4 : c ≠ .resetReleased) : exec c s = .next s := by
  cases c with
  | stopAsserted => exact absurd rfl h1
  | stopReleased => exact absurd rfl h2
  | reset => exact absurd rfl h3
  | resetReleased => exact absurd rfl h4
  | contour | cut | close => exact if_pos h
  | frame => exact if_pos (by rw [h, Bool.true_or])
  | _ => exact congrArg Host.Outcome.next (unlessReset_of_reset h _)

/-- Settles O2: the reset state is the one written out, field by field. -/
theorem resetClearsEveryBlock : Obligations.ResetClearsEveryBlock := by
  unfold Obligations.ResetClearsEveryBlock
  exact ⟨fun _ => rfl, fun _ h => congrArg Host.Outcome.next (if_pos h),
    fun _ h => congrArg Host.Outcome.next (if_neg (Bool.eq_false_iff.1 h)), fun _ _ => exec_of_reset⟩

/-! ## When the Planner may take a packet (R43, R84, R86) -/

theorem plannerWorks_iff (s : State) : plannerWorks s = true ↔
    (s.part.state = .parked ∨ s.part.state = .running) ∧ s.part.abortFlag = false := by
  simp [plannerWorks]

theorem canTake_iff (s : State) : canTake s = true ↔
    ((s.part.state = .parked ∨ s.part.state = .running) ∧ s.part.abortFlag = false) ∧ s.tables.waiting = none ∧
      (s.planner.window.length ≤ 22 ∨ (s.planner.window.length = 23 ∧ s.executor.queue.length < 32 ∧
        ∃ w rest, s.planner.window = w :: rest ∧ w.record.body.headless = false)) := by
  rw [← plannerWorks_iff, ← headReleasable_iff]
  simp [canTake, and_assoc]

/-- Settles O8: each of the ten takings asks `canTake` and the kind of the packet at the head. -/
theorem plannerTakesNothing : Obligations.PlannerTakesNothing := by
  unfold Obligations.PlannerTakesNothing
  intro c kind s hc hbar
  have hnone : s.part.inReset = true ∨ takePacket kind s = none := by
    rcases takePacket_cases kind s with hn | ⟨r, p, rest, -, -, hi, hcan, hkind⟩
    · exact .inr hn
    · obtain ⟨⟨hworks, habort⟩, hwait, hroom⟩ := (canTake_iff s).1 hcan
      rcases hbar with h | h | h | h | h | h | h | ⟨h23, h⟩ | h | ⟨p', rest', h, hk⟩
      · exact .inl h
      · exact absurd hwait h
      · rcases hworks with hw | hw <;> rw [hw] at h <;> cases h
      · rcases hworks with hw | hw <;> rw [hw] at h <;> cases h
      · rcases hworks with hw | hw <;> rw [hw] at h <;> cases h
      · rw [habort] at h; cases h
      · rcases hroom with hr | ⟨hr, -⟩ <;> omega
      · rcases hroom with hr | ⟨-, hq, w, tail, hw, hless⟩
        · omega
        · rcases h with h | ⟨w', tail', hw', hless'⟩
          · omega
          · rw [hw] at hw'
            cases hw'
            rw [hless] at hless'
            cases hless'
      · rw [hi] at h; cases h
      · rw [hi] at h
        cases h
        exact absurd hkind hk
  have hdeal : ∀ deal, unlessReset s (takeAndDeal kind deal) = s := by
    intro deal
    rcases hnone with h | h
    · exact unlessReset_of_reset h _
    · simp [unlessReset, takeAndDeal, h]
  have htry : ∀ deal, takeAndTry kind deal s = .next s := by
    intro deal
    rcases hnone with h | h
    · exact if_pos h
    · simp [takeAndTry, h]
  simp only [List.mem_cons, List.not_mem_nil, or_false, Prod.mk.injEq] at hc
  rcases hc with ⟨rfl, rfl⟩ | ⟨rfl, rfl⟩ | ⟨rfl, rfl⟩ | ⟨rfl, rfl⟩ | ⟨rfl, rfl⟩ | ⟨rfl, rfl⟩ | ⟨rfl, rfl⟩ | ⟨rfl, rfl⟩ |
    ⟨rfl, rfl⟩ | ⟨rfl, rfl⟩
  case inr.inl | inr.inr.inl | inr.inr.inr.inl => exact htry _
  all_goals exact congrArg Host.Outcome.next (hdeal _)

/-! ## Responses (R172 to R174) -/

theorem postResponse_of_lt {r : Response} {s : State} (h : s.report.responses.length < 16) :
    postResponse r s = s.respond r := postResponse_of_room h

theorem postResponse_of_full {r : Response} {s : State} (h : s.report.responses.length = 16) :
    postResponse r s = s.responseFull := if_neg (by rw [h]; decide)

/-- With the response queue full an immediate packet comes to nothing but the LINK event (R174). -/
theorem handImmediate_of_full {kind : Byte} {tag : Tag} {owner : State → State × Reply} {s : State}
    (h : s.report.responses.length = 16) : handImmediate kind tag owner s = s.responseFull := by
  rcases handImmediate_cases kind tag owner s with ⟨-, -, he⟩ | ⟨-, hroom, -⟩ | ⟨-, -, he⟩
  · rw [he, postResponse_of_full h]
  · rw [h] at hroom
    cases hroom.ne rfl
  · exact he

theorem handImmediate_of_unconfigured {kind : Byte} {tag : Tag} {owner : State → State × Reply} {s : State}
    (hu : s.part.state = .unconfigured) (hk : isSetupQueryMask kind = false)
    (h : s.report.responses.length < 16) :
    handImmediate kind tag owner s = s.respond ⟨kind, tag, .refused .notConfigured, []⟩ :=
  (if_pos ⟨hu, hk⟩).trans (postResponse_of_lt h)

/-! ## A packet on the forward lane (R159, R160) -/

section Packet
variable {s : State} {kept : Bool} {kind : Byte} {tag : Tag} {payload : List Byte}

/-- A whole packet, found in HUNT, is sorted. -/
theorem receive_packet (hrun : s.part.inReset = false) (hrx : s.link.rx = .hunt kept) (hlen : payload.length ≤ 48) :
    unlessReset s (receiveForward (packetBytes kind tag payload)) = sortPacket kind tag payload s.hunting :=
  (unlessReset_of_running hrun _).trans (receiveForward_packet kind tag payload hrx hlen)

theorem sortPacket_of_stream (hk : 1 ≤ kind.toNat ∧ kind.toNat ≤ 10) (hfit : lengthFits kind payload.length = true) :
    sortPacket kind tag payload s = arriveStream ⟨kind, tag, payload⟩ s := by
  have hs : isStreamKind kind = true := by simp [isStreamKind, hk]
  simp [sortPacket, hs, hfit]

theorem sortPacket_of_immediate (hk : 16 ≤ kind.toNat ∧ kind.toNat ≤ 23)
    (hfit : lengthFits kind payload.length = true) :
    sortPacket kind tag payload s = handImmediate kind tag (ownerOf kind payload) s := by
  have hi : isImmediateKind kind = true := by simp [isImmediateKind, hk]
  have hs : isStreamKind kind = false := by simp [isStreamKind]; omega
  simp [sortPacket, hi, hs, hfit]

theorem sortPacket_of_unknown (hk : kind.toNat = 0 ∨ (10 < kind.toNat ∧ kind.toNat < 16) ∨ 23 < kind.toNat) :
    sortPacket kind tag payload s = postResponse ⟨kind, tag, .unknown, []⟩ s := by
  have hi : isImmediateKind kind = false := by simp [isImmediateKind]; omega
  have hs : isStreamKind kind = false := by simp [isStreamKind]; omega
  simp [sortPacket, hi, hs, answerUnknown]

end Packet

/-! ## Taking a fault, by the part state (R148, R149) -/

theorem PartState.works_of_ne {p : PartState} (hu : p ≠ .unconfigured) (hf : p ≠ .fault) :
    p = .parked ∨ p = .running ∨ p = .recovering := by
  cases p <;> simp_all

theorem raiseFault_part_of_working {c : FaultCode} {s : State}
    (h : s.part.state = .parked ∨ s.part.state = .running ∨ s.part.state = .recovering) :
    (raiseFault c s).part = { s.part with
      state := .fault
      record := { cause := some c, tag := s.executor.currentTag, position := s.executor.position, further := 0 }
      abortFlag := false } := by
  rw [raiseFault_of_working h]
  rfl

theorem raiseFault_part_of_fault {c : FaultCode} {s : State} (h : s.part.state = .fault) :
    (raiseFault c s).part =
      { s.part with record := { s.part.record with further := min 255 (s.part.record.further + 1) } } := by
  rw [raiseFault_of_fault h]
  rfl

theorem raiseFault_state {c : FaultCode} {s : State} (h : s.part.state ≠ .unconfigured) :
    (raiseFault c s).part.state = .fault := by
  by_cases hf : s.part.state = .fault
  · rw [raiseFault_part_of_fault hf, hf]
  · rw [raiseFault_part_of_working (PartState.works_of_ne h hf)]

/-! ## Stream packets (R162, R164 to R166) -/

theorem arriveStream_of_room {p : Packet} {s : State} (hc : s.part.state ≠ .unconfigured)
    (h : s.link.intake.length < 64) : arriveStream p s = appendIntake p s :=
  (if_neg hc).trans (if_pos h)

theorem arriveStream_of_full {p : Packet} {s : State} (hc : s.part.state ≠ .unconfigured)
    (h : s.link.intake.length = 64) : arriveStream p s = raiseFault .intakeOverrun s :=
  (if_neg hc).trans (if_neg (by rw [h]; decide))

/-- Settles O3: a stream packet that passes the checks goes to `arriveStream`, whose rows are the three cases. -/
theorem streamPacketIsTakenIn : Obligations.StreamPacketIsTakenIn := by
  unfold Obligations.StreamPacketIsTakenIn
  have hexec : ∀ (s : State) (kept : Bool) (kind : Byte) (tag : Tag) (payload : List Byte),
      s.part.inReset = false → s.link.rx = .hunt kept → 1 ≤ kind.toNat ∧ kind.toNat ≤ 10 → payload.length ≤ 48 →
      lengthFits kind payload.length = true →
      exec (.streamPacketArrival (packetBytes kind tag payload)) s =
        .next (arriveStream ⟨kind, tag, payload⟩ s.hunting) := by
    intro s kept kind tag payload hrun hrx hk hlen hfit
    exact congrArg Host.Outcome.next ((receive_packet hrun hrx hlen).trans (sortPacket_of_stream hk hfit))
  constructor
  · intro s kept kind tag payload r hrun hrx hk hlen hfit hc hsetup hroom
    rw [hexec s kept kind tag payload hrun hrx hk hlen hfit, arriveStream_of_room (s := s.hunting) hc hroom]
    have hpace : paceUp s.hunting (s.link.intake.length + 1) =
        (s.link.pace || decide (s.link.intake.length + 1 = r.paceHigh)) := by
      simp [paceUp, State.hunting, hsetup]
    exact congrArg (fun b => Host.Outcome.next (s.setLink ⟨.hunt false, s.link.intake ++ [⟨kind, tag, payload⟩], b⟩))
      hpace
  · intro s kept kind tag payload hrun hrx hk hlen hfit
    refine ⟨_, hexec s kept kind tag payload hrun hrx hk hlen hfit, ?refused, ?overrun⟩
    case refused =>
      intro hu
      have harrive : arriveStream ⟨kind, tag, payload⟩ s.hunting =
          postResponse ⟨kind, tag, .refused .notConfigured, []⟩ s.hunting := if_pos hu
      rw [harrive]
      refine ⟨by rw [postResponse_link]; rfl, postResponse_part _ _, fun hroom => ?_⟩
      rw [postResponse_of_lt (s := s.hunting) hroom]
      rfl
    case overrun =>
      intro hc hfull
      rw [arriveStream_of_full (s := s.hunting) hc hfull]
      refine ⟨by rw [raiseFault_link]; rfl, by rw [raiseFault_link]; rfl, raiseFault_responses _ _,
        raiseFault_state hc, fun hf => ?_, fun hf => ?_⟩
      · rw [raiseFault_part_of_fault (s := s.hunting) hf]
        rfl
      · rw [raiseFault_part_of_working (s := s.hunting) (PartState.works_of_ne hc hf)]
        rfl

/-- Settles O4: UNKNOWN is posted by the sorting, NOT-CONFIGURED by `handImmediate` before it looks for an owner, and a
full response queue loses what comes. -/
theorem packetsThatReachNoOwner : Obligations.PacketsThatReachNoOwner := by
  unfold Obligations.PacketsThatReachNoOwner
  refine ⟨?unknown, ?unconfigured, ?full, fun r s => ⟨postResponse_of_lt, postResponse_of_full⟩⟩
  case unknown =>
    intro s kept kind tag payload hrun hrx hlen hk
    have hexec : exec (.unknownKind (packetBytes kind tag payload)) s =
        .next (postResponse ⟨kind, tag, .unknown, []⟩ s.hunting) :=
      congrArg Host.Outcome.next ((receive_packet hrun hrx hlen).trans (sortPacket_of_unknown hk))
    rw [hexec]
    exact ⟨fun h => congrArg _ (postResponse_of_lt h), fun h => congrArg _ (postResponse_of_full h)⟩
  case unconfigured =>
    intro tag v s c kind hrun hc hu hroom
    obtain ⟨owner, hexec, hk⟩ : ∃ owner, exec c s = .next (unlessReset s (handImmediate kind tag owner)) ∧
        isSetupQueryMask kind = false := by
      simp only [List.mem_cons, List.not_mem_nil, or_false, Prod.mk.injEq] at hc
      rcases hc with ⟨rfl, rfl⟩ | ⟨rfl, rfl⟩ | ⟨rfl, rfl⟩ | ⟨rfl, rfl⟩ | ⟨rfl, rfl⟩ <;> exact ⟨_, rfl, by decide⟩
    rw [hexec, unlessReset_of_running hrun, handImmediate_of_unconfigured hu hk hroom]
  case full =>
    intro tag v w fields s c hrun hc hfull
    obtain ⟨kind, owner, hexec⟩ : ∃ kind owner, exec c s = .next (unlessReset s (handImmediate kind tag owner)) := by
      simp only [List.mem_cons, List.not_mem_nil, or_false] at hc
      rcases hc with rfl | rfl | rfl | rfl | rfl | rfl | rfl | rfl | rfl | rfl | rfl | rfl <;> exact ⟨_, _, rfl⟩
    rw [hexec, unlessReset_of_running hrun, handImmediate_of_full hfull]

/-! ## The bytes of immediate packets (R163, Table 12.2) -/

theorem setupBytes_length (r : Setup) : (setupBytes r).length = 34 := by simp [setupBytes, u8, u16, u32]

/-- The SETUP payload spells the record it was written from. -/
theorem setupOf_setupBytes {r : Setup} (h : r.fits = true) : setupOf (setupBytes r) = r := by
  simp only [Setup.fits, Bool.and_eq_true, decide_eq_true_iff] at h
  obtain ⟨⟨⟨⟨⟨⟨⟨⟨⟨⟨⟨⟨h1, h2⟩, h3⟩, h4⟩, h5⟩, h6⟩, h7⟩, h8⟩, h9⟩, h10⟩, h11⟩, h12⟩, h13⟩ := h
  have hmask : beNat [r.dropMask] = r.dropMask.toNat := by simp [beNat]
  have e1 := beNat_u8 _ h1
  have e2 := beNat_u16 _ h2
  have e3 := beNat_u16 _ h3
  have e4 := beNat_u16 _ h4
  have e5 := beNat_u16 _ h5
  have e6 := beNat_u32 _ h6
  have e7 := beNat_u32 _ h7
  have e8 := beNat_u32 _ h8
  have e9 := beNat_u32 _ h9
  have e10 := beNat_u32 _ h10
  have e11 := beNat_u16 _ h11
  have e12 := beNat_u8 _ h12
  have e13 := beNat_u8 _ h13
  simp only [u8, u16, u32, List.cons_append, List.nil_append] at e1 e2 e3 e4 e5 e6 e7 e8 e9 e10 e11 e12 e13
  simp [setupOf, setupBytes, fieldU, u8, u16, u32, -BitVec.ofNat_eq_ofNat, *]

/-- Settles O6: the bytes reach `handImmediate` with the owner that their kind and payload name, as the command does. -/
theorem immediateBytesAreTheCommand : Obligations.ImmediateBytesAreTheCommand := by
  unfold Obligations.ImmediateBytesAreTheCommand
  intro s kept tag hrx hrun
  have hexec : ∀ (kind : Byte) (payload : List Byte) (owner : State → State × Reply),
      16 ≤ kind.toNat ∧ kind.toNat ≤ 23 → payload.length ≤ 48 → lengthFits kind payload.length = true →
      ownerOf kind payload = owner → exec (.streamPacketArrival (packetBytes kind tag payload)) s =
        .next (unlessReset s.hunting (handImmediate kind tag owner)) := by
    intro kind payload owner hk hlen hfit howner
    rw [unlessReset_of_running (s := s.hunting) hrun, ← howner]
    exact congrArg Host.Outcome.next ((receive_packet hrun hrx hlen).trans (sortPacket_of_immediate hk hfit))
  refine ⟨fun r hr => ?setup, fun id => ⟨?status, ?position, ?table, ?record⟩, fun item id => ?item,
    fun v => ⟨?override, ?mask⟩, ?halt, ?resume, ?abort, ?clearFault⟩
  case setup =>
    have howner : ownerOf 0x10 (setupBytes r) = ownSetup r := congrArg ownSetup (setupOf_setupBytes hr)
    have hlen := setupBytes_length r
    exact hexec 0x10 (setupBytes r) _ (by decide) (by omega) (by rw [hlen]; rfl) howner
  case status | position | table | record | item => exact hexec 0x11 [_, _] _ (by decide) (by simp) rfl rfl
  case override => exact hexec 0x12 [v] _ (by decide) (by simp) rfl rfl
  case mask => exact hexec 0x17 [v] _ (by decide) (by simp) rfl rfl
  case halt => exact hexec 0x13 [] _ (by decide) (by decide) rfl rfl
  case resume => exact hexec 0x14 [] _ (by decide) (by decide) rfl rfl
  case abort => exact hexec 0x15 [] _ (by decide) (by decide) rfl rfl
  case clearFault => exact hexec 0x16 [] _ (by decide) (by decide) rfl rfl

end Sys2Proof.Machine

/-! # The return lane (R175 to R177) and the packets whose owner answers from the state as it stands -/

namespace Sys2Proof.Machine

/-! ## The rows of the arbiter's choice -/

section
variable {s : State}

theorem chooseLane_of_response {r : Response} {rest : List Place} (h : s.report.responses = .held r :: rest) :
    chooseLane s = sendPacket (responseBytes r) (s.setReport { s.report with responses := rest }) := by
  simp only [chooseLane, h]

theorem chooseLane_of_empty (h : s.report.responses = []) : chooseLane s = chooseEvent s := by
  simp only [chooseLane, h]

/-- A source that is not pending, or not enabled, is not sent. -/
theorem flag_and_enabled_eq_false {flag enable : Bool} (h : flag = false ∨ enable = false) :
    (flag && enable) = false := by
  rcases h with rfl | rfl
  · rfl
  · exact Bool.and_false _

theorem chooseEvent_of_fault (h : s.report.events.fault = true) (he : s.report.enables.getLsbD 0 = true) :
    chooseEvent s = sendPacket (eventBytes 1 s.report.events.faultTag (u8 (causeCode s.report.events.faultCode)))
      (setEvents { s.report.events with fault := false } s) :=
  if_pos (by rw [h, enabled, he]; rfl)

theorem chooseEvent_of_mark {m : Tag} {rest : List Tag}
    (hf : s.report.events.fault = false ∨ s.report.enables.getLsbD 0 = false) (h : s.report.marks = m :: rest)
    (he : s.report.enables.getLsbD 1 = true) :
    chooseEvent s = sendPacket (eventBytes 2 m (flagU8 s.report.lost))
      (s.setReport { s.report with marks := rest, lost := false }) := by
  simp only [chooseEvent, enabled, flag_and_enabled_eq_false hf, h, he, Bool.false_eq_true, if_false]

/-- With neither FAULT nor MARK to send, the five sources behind them are looked at in turn. -/
theorem chooseEvent_of_noMark (hf : s.report.events.fault = false ∨ s.report.enables.getLsbD 0 = false)
    (hm : s.report.marks = [] ∨ s.report.enables.getLsbD 1 = false) :
    chooseEvent s =
      if s.report.events.blockDone && s.report.enables.getLsbD 2 then
        sendPacket (eventBytes 3 s.report.events.blockDoneTag [])
          (setEvents { s.report.events with blockDone := false } s)
      else if s.report.events.standoff && s.report.enables.getLsbD 3 then
        sendPacket (eventBytes 4 s.report.events.standoffTag
            (s32 s.report.events.standoffX ++ s32 s.report.events.standoffY))
          (setEvents { s.report.events with standoff := false } s)
      else if s.report.events.trimForced && s.report.enables.getLsbD 4 then
        sendPacket (eventBytes 5 s.report.events.trimForcedTag [])
          (setEvents { s.report.events with trimForced := false } s)
      else if s.report.events.governor && s.report.enables.getLsbD 5 then
        sendPacket (eventBytes 6 0 (u8 s.report.events.governorValue))
          (setEvents { s.report.events with governor := false } s)
      else if s.report.events.link && s.report.enables.getLsbD 6 then
        sendPacket (eventBytes 7 0 (u8 (linkReasonCode s.report.events.linkReason)))
          (setEvents { s.report.events with link := false } s)
      else s.setReport { s.report with lane := none } := by
  simp only [chooseEvent, enabled, flag_and_enabled_eq_false hf, Bool.false_eq_true, if_false]
  rcases hm with hm | hm <;> rw [hm]
  · rfl
  · cases s.report.marks <;> rfl

end

/-- Settles O57: one row of the choice per source, each behind the sources of higher priority. -/
theorem arbiterChoosesByPriority : Obligations.ArbiterChoosesByPriority := by
  unfold Obligations.ArbiterChoosesByPriority
  intro s hrun
  have hexec : exec .returnLaneChoice s = .next (chooseLane s) :=
    congrArg Host.Outcome.next (unlessReset_of_running hrun chooseLane)
  rw [hexec]
  refine ⟨fun r rest h => ?_, fun hempty => ?_⟩
  · rw [chooseLane_of_response h]
    rfl
  rw [chooseLane_of_empty hempty]
  refine ⟨fun h he => ?_, fun hf => ⟨fun m rest h he => ?_, fun hm => ?_⟩⟩
  · rw [chooseEvent_of_fault h he]
    rfl
  · rw [chooseEvent_of_mark hf h he]
    rfl
  rw [chooseEvent_of_noMark hf hm]
  refine ⟨fun h he => ?blockDone, fun h3 => ⟨fun h he => ?standoff, fun h4 => ⟨fun h he => ?trimForced, fun h5 =>
    ⟨fun h he => ?governor, fun h6 => ⟨fun h he => ?link, fun h7 => ?idle⟩⟩⟩⟩⟩
  case blockDone => rw [h, he]; rfl
  case standoff => rw [flag_and_enabled_eq_false h3, h, he]; rfl
  case trimForced => rw [flag_and_enabled_eq_false h3, flag_and_enabled_eq_false h4, h, he]; rfl
  case governor =>
    rw [flag_and_enabled_eq_false h3, flag_and_enabled_eq_false h4, flag_and_enabled_eq_false h5, h, he]; rfl
  case link =>
    rw [flag_and_enabled_eq_false h3, flag_and_enabled_eq_false h4, flag_and_enabled_eq_false h5,
      flag_and_enabled_eq_false h6, h, he]
    rfl
  case idle =>
    rw [flag_and_enabled_eq_false h3, flag_and_enabled_eq_false h4, flag_and_enabled_eq_false h5,
      flag_and_enabled_eq_false h6, flag_and_enabled_eq_false h7]
    rfl

/-! ## An immediate packet whose owner works beside the response queue -/

section
variable {kind : Byte} {tag : Tag} {owner : State → State × Reply} {s u : State} {reply : Reply}

/-- The owner's reply takes the place reserved for it, behind the responses that stood there (R173). -/
theorem handImmediate_of_owner (hroom : s.report.responses.length < 16)
    (hnone : ∀ p ∈ s.report.responses, p ≠ .reserved)
    (hc : s.part.state ≠ .unconfigured ∨ isSetupQueryMask kind = true)
    (ho : owner (reservePlace s) = (reservePlace u, reply)) (hu : u.report.responses = s.report.responses) :
    handImmediate kind tag owner s = u.respond (reply.response kind tag) := by
  rw [handImmediate_of_room hc hroom, ho]
  show answer (reply.response kind tag) (reservePlace u) = _
  simp only [answer, reservePlace, State.respond, State.setReport,
    fillPlace_reserved _ _ (hu ▸ hnone)]

theorem Reaches.hand (h : Reaches s) (ho : owner (reservePlace s) = (reservePlace u, reply))
    (hu : u.report.responses = s.report.responses) :
    unlessReset s (handImmediate kind tag owner) = u.respond (reply.response kind tag) := by
  rw [unlessReset_of_running h.running, handImmediate_of_owner h.place h.noneReserved (.inl h.configured) ho hu]

theorem Answerable.hand (h : Answerable s) (hk : isSetupQueryMask kind = true)
    (ho : owner (reservePlace s) = (reservePlace u, reply)) (hu : u.report.responses = s.report.responses) :
    unlessReset s (handImmediate kind tag owner) = u.respond (reply.response kind tag) := by
  rw [unlessReset_of_running h.running, handImmediate_of_owner h.place h.noneReserved (.inr hk) ho hu]

end

/-! ## OVERRIDE and EVENT-MASK (R96, R171) -/

theorem clampOverride_eq (n : Nat) : clampOverride n = if n < 25 then 25 else if 100 < n then 100 else n := by
  unfold clampOverride
  split_ifs <;> omega

/-- Settles O31. -/
theorem overrideAndEventMask : Obligations.OverrideAndEventMask := by
  unfold Obligations.OverrideAndEventMask
  refine ⟨fun tag requested s h => ?override, fun tag enables s h => ?mask⟩
  case override =>
    rw [← clampOverride_eq]
    exact congrArg Host.Outcome.next (h.hand (owner := ownOverride requested)
      (u := s.setGovernor { s.governor with operator := clampOverride requested.toNat }) rfl rfl)
  case mask =>
    have hdata : u8 (enables.setWidth 7).toNat = [enables &&& 0x7F] := by
      have : BitVec.ofNat 8 (enables.setWidth 7).toNat = enables &&& 0x7F := by
        apply BitVec.eq_of_getLsbD_eq
        intro i hi
        simp only [BitVec.ofNat_toNat, BitVec.getLsbD_setWidth, BitVec.getLsbD_and, hi, decide_true, Bool.true_and]
        have : i = 0 ∨ i = 1 ∨ i = 2 ∨ i = 3 ∨ i = 4 ∨ i = 5 ∨ i = 6 ∨ i = 7 := by omega
        rcases this with rfl | rfl | rfl | rfl | rfl | rfl | rfl | rfl <;> simp
      exact congrArg (fun b => [b]) this
    refine ⟨_, congrArg Host.Outcome.next (h.hand (owner := ownEventMask enables) rfl
      (u := s.setReport { s.report with enables := enables.setWidth 7 }) rfl rfl), fun n h1 h7 => ?_, ?_⟩
    · show (enables.setWidth 7).getLsbD (n - 1) = _
      have : n - 1 < 7 := by omega
      simp [this]
    · show State.respond _ _ = State.respond _ _
      rw [Reply.response, hdata]
      rfl

/-! ## Reading the fields of a run of bytes -/

theorem fieldU_append_of_eq {mid rest : List Byte} {m : Nat} (h : mid.length = m) :
    fieldU (mid ++ rest) 0 m = beNat mid := by
  simp [fieldU, h]

theorem fieldU_append_of_le {pre rest : List Byte} {n m : Nat} (h : pre.length ≤ n) :
    fieldU (pre ++ rest) n m = fieldU rest (n - pre.length) m := by
  simp [fieldU, List.drop_append, List.drop_of_length_le h]

theorem fieldU_self {mid : List Byte} {m : Nat} (h : mid.length = m) : fieldU mid 0 m = beNat mid := by
  subst h
  simp [fieldU]

theorem setpointBytes_length (p : Option Position) : (setpointBytes p).length = 14 := by
  cases p <;> simp [setpointBytes]

/-- The lengths again, in the form that `simp` can use to tell where a field begins. -/
theorem length_u8 (n : Nat) : (u8 n).length = 1 := by simp [u8]
theorem length_u16 (n : Nat) : (u16 n).length = 2 := by simp [u16]
theorem length_u32 (n : Nat) : (u32 n).length = 4 := by simp [u32, u16]
theorem length_s32 (i : Int) : (s32 i).length = 4 := by simp [s32, u32, u16]
theorem length_tagBytes (t : Tag) : (tagBytes t).length = 2 := by simp [tagBytes, u16]

/-- A field that lies within a stretch of `l` bytes from offset `n`. -/
theorem fieldU_of_stretch {d w : List Byte} {n l : Nat} (h : (d.drop n).take l = w) (k m : Nat) (hk : k + m ≤ l) :
    fieldU d (n + k) m = fieldU w k m := by
  subst h
  rw [fieldU, fieldU, List.drop_take, List.take_take, List.drop_drop, Nat.min_eq_left (by omega)]

/-- The four setpoints as they stand in a run of bytes. -/
theorem setpointBytes_fields (q : Position) :
    fieldU (setpointBytes (some q)) 0 4 = beNat (s32 q.x) ∧ fieldU (setpointBytes (some q)) 4 4 = beNat (s32 q.y) ∧
    fieldU (setpointBytes (some q)) 8 4 = beNat (u32 q.z) ∧
    fieldU (setpointBytes (some q)) 12 2 = beNat (u16 q.heading) := by
  simp only [setpointBytes, List.append_assoc, fieldU_append_of_eq, fieldU_append_of_le, fieldU_self, length_s32,
    length_u32, length_u16, Nat.reduceLeDiff, Nat.reduceSub, and_self]

/-- A position that stands from offset `n` on is read back where its fields can hold it. -/
theorem position_fields {d : List Byte} {n : Nat} {q : Position}
    (h : (d.drop n).take 14 = setpointBytes (some q)) :
    (-2 ^ 31 ≤ q.x ∧ q.x < 2 ^ 31 → fieldS d n = q.x) ∧ (-2 ^ 31 ≤ q.y ∧ q.y < 2 ^ 31 → fieldS d (n + 4) = q.y) ∧
    (q.z < 2 ^ 32 → fieldU d (n + 8) 4 = q.z) ∧ (q.heading < 65536 → fieldU d (n + 12) 2 = q.heading) := by
  obtain ⟨hx, hy, hz, hh⟩ := setpointBytes_fields q
  have at_ := fieldU_of_stretch h
  refine ⟨fun hb => ?_, fun hb => ?_, fun hb => ?_, fun hb => ?_⟩
  · rw [fieldS, ← Nat.add_zero n, at_ 0 4 (by omega), hx, asS32_s32 _ hb]
  · rw [fieldS, at_ 4 4 (by omega), hy, asS32_s32 _ hb]
  · rw [at_ 8 4 (by omega), hz, beNat_u32 _ hb]
  · rw [at_ 12 2 (by omega), hh, beNat_u16 _ hb]

/-! ## QUERY (R50, R169, R170) -/

/-- A QUERY is answered with `queryReply` of the state as it stands. -/
theorem Answerable.query {s : State} (h : Answerable s) (tag : Tag) (item id : Byte) :
    unlessReset s (handImmediate kindQuery tag (ownQuery item id)) =
      s.respond ((queryReply item id s).response kindQuery tag) :=
  h.hand (owner := ownQuery item id) rfl rfl rfl

theorem statusData_length (s : State) : (statusData s).length = 33 := by
  simp [statusData, setpointBytes_length]

theorem positionData_length (s : State) : (positionData s).length = 32 := by
  simp [positionData, setpointBytes_length, flagU8]

theorem statusFlags_lt (s : State) : statusFlags s < 256 := by
  have h1 := s.part.abortFlag.toNat_le
  have h2 := s.tables.waiting.isSome.toNat_le
  have h3 := (heldFlag s.executor.state).toNat_le
  have h4 := s.link.pace.toNat_le
  have h5 := s.port.held.alarm.toNat_le
  have h6 := s.part.record.position.isSome.toNat_le
  unfold statusFlags
  omega

/-- Where the fields of the STATUS data stand (Table 12.4). -/
theorem statusData_fields (s : State) :
    fieldU (statusData s) 0 1 = beNat (u8 (partStateCode s.part.state)) ∧
    fieldU (statusData s) 1 1 = beNat (u8 (statusFlags s)) ∧
    fieldU (statusData s) 2 1 = beNat (u8 (streamStateCode s.planner.stream)) ∧
    fieldU (statusData s) 3 1 = beNat (u8 (execStateCode s.executor.state)) ∧
    fieldU (statusData s) 4 1 = beNat (u8 (purposeCode s.executor.state)) ∧
    fieldU (statusData s) 5 2 = s.executor.currentTag.toNat ∧
    fieldU (statusData s) 7 1 = beNat (u8 (causeCode s.part.record.cause)) ∧
    fieldU (statusData s) 8 2 = s.part.record.tag.toNat ∧
    fieldU (statusData s) 24 1 = beNat (u8 s.part.record.further) ∧
    fieldU (statusData s) 25 1 = beNat (u8 s.governor.operator) ∧
    fieldU (statusData s) 26 1 = beNat (u8 s.governor.effective) ∧
    fieldU (statusData s) 27 1 = beNat (u8 s.link.intake.length) ∧
    fieldU (statusData s) 28 1 = beNat (u8 s.planner.window.length) ∧
    fieldU (statusData s) 29 1 = beNat (u8 s.executor.queue.length) ∧
    fieldU (statusData s) 30 2 = beNat (u16 (trimSlot s.planner.trimDist)) ∧
    fieldU (statusData s) 32 1 = beNat (u8 s.port.held.ready.toNat) := by
  simp only [statusData, List.append_assoc, fieldU_append_of_eq, fieldU_append_of_le, fieldU_self, length_u8,
    length_u16, length_tagBytes, setpointBytes_length, Nat.reduceLeDiff, Nat.reduceSub, beNat_tagBytes, and_self]

theorem statusData_position (s : State) :
    ((statusData s).drop 10).take 14 = setpointBytes s.part.record.position := by
  simp [statusData, u8, u16, tagBytes, setpointBytes_length]

/-- Where the fields of the POSITION data stand (Table 12.4). -/
theorem positionData_fields (s : State) :
    fieldU (positionData s) 0 1 = beNat (u8 s.executor.position.isSome.toNat) ∧
    fieldU (positionData s) 15 4 = beNat (u32 s.port.held.x) ∧
    fieldU (positionData s) 19 4 = beNat (u32 s.port.held.y) ∧
    fieldU (positionData s) 23 4 = beNat (u32 s.port.held.z) ∧
    fieldU (positionData s) 27 2 = beNat (u16 s.port.held.heading) ∧
    fieldU (positionData s) 29 2 = s.port.held.echo.toNat ∧
    fieldU (positionData s) 31 1 = beNat (u8 s.port.missed) := by
  simp only [positionData, flagU8, List.append_assoc, fieldU_append_of_eq, fieldU_append_of_le, fieldU_self, length_u8,
    length_u16, length_u32, length_tagBytes, setpointBytes_length, Nat.reduceLeDiff, Nat.reduceSub, beNat_tagBytes,
    and_self]

theorem positionData_position (s : State) :
    ((positionData s).drop 1).take 14 = setpointBytes s.executor.position := by
  simp [positionData, flagU8, u8, setpointBytes_length]

/-- The data of a QUERY POSITION begin with 15 bytes of 0 while the position is absent. -/
theorem positionData_take_of_none {s : State} (h : s.executor.position = none) :
    (positionData s).take 15 = List.replicate 15 0 := by
  simp only [positionData, h, List.append_assoc]
  rfl

theorem Bool.toNat_weight (b : Bool) (w : Nat) : w * b.toNat = if b = true then w else 0 := by
  cases b <;> simp

theorem heldFlag_iff (e : ExecState) : heldFlag e = true ↔ e = .standoff true ∨ e = .hold true := by
  cases e <;> simp [heldFlag]

theorem statusFlags_eq (s : State) : statusFlags s =
    (if s.part.abortFlag then 1 else 0) + (if s.tables.waiting.isSome then 2 else 0) +
    (if s.executor.state = .standoff true ∨ s.executor.state = .hold true then 4 else 0) +
    (if s.link.pace then 8 else 0) + (if s.port.held.alarm then 16 else 0) +
    (if s.part.record.position.isSome then 32 else 0) := by
  simp only [statusFlags, Bool.toNat_weight, heldFlag_iff]
  cases s.part.abortFlag <;> rfl

theorem tableData_of_ne {t : TableStore} {id : Byte} (h1 : id ≠ 1) (h2 : id ≠ 2) (h3 : id ≠ 3) :
    tableData t id = none :=
  (if_neg h1).trans ((if_neg h2).trans (if_neg h3))

theorem queryReply_table (id : Byte) (s : State) : queryReply itemTable id s =
    match tableData s.tables id with
    | some data => .accepted data
    | none => .refused .range [] := rfl

theorem queryReply_setup (id : Byte) (s : State) : queryReply itemSetup id s =
    match s.part.setup with
    | some r => .accepted (setupBytes r)
    | none => .refused .notConfigured [] := rfl

theorem queryReply_of_ne {item id : Byte} {s : State} (h1 : item ≠ 1) (h2 : item ≠ 2) (h3 : item ≠ 3)
    (h4 : item ≠ 4) : queryReply item id s = .refused .range [] :=
  (if_neg h1).trans ((if_neg h2).trans ((if_neg h3).trans (if_neg h4)))

/-- Settles O30: each item's data are read back field by field. -/
theorem queriesAreAnswered : Obligations.QueriesAreAnswered := by
  unfold Obligations.QueriesAreAnswered
  intro tag id item s h
  have hq : ∀ item id : Byte, Host.Outcome.next (unlessReset s (handImmediate kindQuery tag (ownQuery item id))) =
      (.next (s.respond ((queryReply item id s).response kindQuery tag)) : Host.Outcome State Fault Refusal) :=
    fun item id => congrArg _ (h.query tag item id)
  refine ⟨⟨statusData s, hq itemStatus id, statusData_length s, ?status⟩,
    ⟨positionData s, hq itemPosition id, positionData_length s, ?position⟩, hq itemTable 1, hq itemTable 2,
    fun e he => (hq itemTable 3).trans ?blade, fun he => (hq itemTable 3).trans ?noBlade,
    fun h1 h2 h3 => (hq itemTable id).trans ?noTable, fun r hr => ⟨(hq itemSetup id).trans ?setup, setupBytes_length r⟩,
    fun hn => (hq itemSetup id).trans ?noSetup, fun hi => (hq item id).trans ?noItem⟩
  case status =>
    obtain ⟨f0, f1, f2, f3, f4, f5, f7, f8, f24, f25, f26, f27, f28, f29, f30, f32⟩ := statusData_fields s
    have hdrop := statusData_position s
    refine ⟨?_, ?_, ?_, ?_, ?_, f5, ?_, f8, fun hp => ?_, fun q hp => ?_, fun hb => ?_, ?_, ?_⟩
    · rw [f0]; cases s.part.state <;> rfl
    · rw [f1, beNat_u8 _ (statusFlags_lt s), statusFlags_eq]
    · rw [f2]; cases s.planner.stream <;> rfl
    · rw [f3]; cases s.executor.state <;> rfl
    · rw [f4]; rcases s.executor.state with _ | _ | _ | _ | _ | _ | p | _ | _ | _ | _ | _ | _ | _ <;> try rfl
      cases p <;> rfl
    · rw [f7]; rcases s.part.record.cause with _ | c <;> try rfl
      cases c <;> rfl
    · rw [hdrop, hp]; rfl
    · exact position_fields (hp ▸ hdrop)
    · rw [f24, f25, f26, f27, f28, f29]
      have := hb.further
      have := hb.operator
      have := hb.intake
      have := hb.window
      have := hb.queue
      refine ⟨beNat_u8 _ (by omega), beNat_u8 _ (by omega), beNat_u8 _ ?_, beNat_u8 _ (by omega),
        beNat_u8 _ (by omega), beNat_u8 _ (by omega)⟩
      exact lt_of_le_of_lt (min_le_left _ _) (by omega)
    · rw [f30, beNat_u16 _ (by unfold trimSlot; omega)]
      rfl
    · rw [f32, beNat_u8 _ (by omega)]
  case position =>
    obtain ⟨f0, f15, f19, f23, f27, f29, f31⟩ := positionData_fields s
    have hdrop := positionData_position s
    refine ⟨positionData_take_of_none, fun q hp => ⟨?_, position_fields (hp ▸ hdrop)⟩, fun hb => ?_, fun hb => ?_,
      fun hb => ?_, fun hb => ?_, f29, fun hb => ?_⟩
    · rw [f0, hp]
      exact Nat.one_ne_zero
    · rw [f15, beNat_u32 _ hb]
    · rw [f19, beNat_u32 _ hb]
    · rw [f23, beNat_u32 _ hb]
    · rw [f27, beNat_u16 _ hb]
    · rw [f31, beNat_u8 _ (by omega)]
  case blade =>
    show Host.Outcome.next (s.respond ⟨0x11, tag, .accepted, 3 :: (u8 (bladeEntries s.tables.blade).length ++
      crcBytes (bladeImages (bladeEntries s.tables.blade)))⟩) = _
    simp [he, bladeEntries, bladeImages, u8, crcBytes]
  case noBlade =>
    show Host.Outcome.next (s.respond ⟨0x11, tag, .accepted, 3 :: (u8 (bladeEntries s.tables.blade).length ++
      crcBytes (bladeImages (bladeEntries s.tables.blade)))⟩) = _
    rw [he]
    rfl
  case noTable => rw [queryReply_table, tableData_of_ne h1 h2 h3]; rfl
  case setup => rw [queryReply_setup, hr]; rfl
  case noSetup => rw [queryReply_setup, hn]; rfl
  case noItem =>
    have hne : ∀ b : Byte, 1 ≤ b.toNat ∧ b.toNat ≤ 4 → item ≠ b := by
      rintro b hb rfl
      omega
    rw [queryReply_of_ne (hne 1 (by decide)) (hne 2 (by decide)) (hne 3 (by decide)) (hne 4 (by decide))]
    rfl

end Sys2Proof.Machine

/-! # SETUP, HALT, RESUME, the STOP input and the commit of the blade table -/

namespace Sys2Proof.Machine

/-! ## The first check that fails -/

theorem firstFailing_of_all {l : List Bool} {no : Nat} (h : ∀ b ∈ l, b = true) : firstFailing no l = none := by
  induction l generalizing no with
  | nil => rfl
  | cons b l ih =>
    rw [firstFailing, if_pos (h b (by simp))]
    exact ih fun b hb => h b (by simp [hb])

theorem firstFailing_of_get {l : List Bool} {no i : Nat} (hi : l[i]? = some false) (hb : ∀ j < i, l[j]? = some true) :
    firstFailing no l = some (no + i) := by
  induction l generalizing no i with
  | nil => simp at hi
  | cons b l ih =>
    cases i with
    | zero =>
      obtain rfl : b = false := by simpa using hi
      rfl
    | succ i =>
      obtain rfl : b = true := by simpa using hb 0 (by omega)
      rw [firstFailing, if_pos rfl, ih (by simpa using hi) fun j hj => by simpa using hb (j + 1) (by omega)]
      congr 1
      omega

/-! ## SETUP (R146, R147) -/

/-- The check in place `n` of the list is that of field `n + 1`. -/
theorem setupChecks_get (r : Setup) {n : Nat} (h : n < 14) :
    ∃ b, (setupChecks r)[n]? = some b ∧ (b = true ↔ setupFieldOk r (n + 1)) := by
  interval_cases n <;> refine ⟨_, rfl, ?_⟩ <;>
    simp only [setupFieldOk, within, Bool.or_eq_true, Bool.and_eq_true, beq_iff_eq, decide_eq_true_iff, or_assoc,
      Nat.lt_iff_add_one_le, Nat.zero_le, true_and]

theorem firstFailing_setupChecks_of_ok {r : Setup} (h : ∀ n, setupFieldOk r n) :
    firstFailing 1 (setupChecks r) = none := by
  refine firstFailing_of_all fun b hb => ?_
  obtain ⟨n, hn, rfl⟩ := List.mem_iff_getElem.1 hb
  obtain ⟨b, hget, hiff⟩ := setupChecks_get r hn
  rw [List.getElem?_eq_getElem hn, Option.some.injEq] at hget
  rw [hget, hiff]
  exact h _

theorem firstFailing_setupChecks_of_first {r : Setup} {n : Nat} (hn : n ≤ 14) (hbad : ¬ setupFieldOk r n)
    (hbefore : ∀ m, m < n → setupFieldOk r m) : firstFailing 1 (setupChecks r) = some n := by
  obtain ⟨i, rfl⟩ : ∃ i, n = i + 1 := ⟨n - 1, by
    rcases n with _ | n
    · exact absurd trivial hbad
    · rfl⟩
  rw [Nat.add_comm i 1]
  refine firstFailing_of_get ?_ fun j hj => ?_
  · obtain ⟨b, hget, hiff⟩ := setupChecks_get r (n := i) (by omega)
    rw [hget, Option.some.injEq, ← Bool.not_eq_true, hiff]
    exact hbad
  · obtain ⟨b, hget, hiff⟩ := setupChecks_get r (n := j) (by omega)
    rw [hget, Option.some.injEq, hiff]
    exact hbefore _ (by omega)

theorem ownSetup_of_configured {r : Setup} {s : State} (h : s.part.state ≠ .unconfigured) :
    ownSetup r s = (s, .refused .state []) :=
  if_pos h

theorem ownSetup_of_failing {r : Setup} {s : State} {no : Nat} (h : s.part.state = .unconfigured)
    (hf : firstFailing 1 (setupChecks r) = some no) : ownSetup r s = (s, .refused .range (u8 no)) := by
  simp only [ownSetup, h, hf, ne_eq, not_true_eq_false, if_false]

theorem ownSetup_of_ok {r : Setup} {s : State} (h : s.part.state = .unconfigured)
    (hf : firstFailing 1 (setupChecks r) = none) : ownSetup r s = (judgeStop (configured r s), .accepted []) := by
  simp only [ownSetup, h, hf, ne_eq, not_true_eq_false, if_false]
  rfl

/-- The part is configured, with setup record `o`. -/
def Configured (o : Option Setup) (s : State) : Prop := s.part.setup = o ∧ s.part.state ≠ .unconfigured

theorem Configured.fault {o : Option Setup} {s : State} (c : FaultCode) (h : Configured o s) :
    Configured o (raiseFault c s) :=
  ⟨(raiseFault_setup c s).trans h.1, by rw [raiseFault_state h.2]; simp⟩

theorem Configured.post {o : Option Setup} {s : State} (r : Response) (h : Configured o s) :
    Configured o (postResponse r s) := by
  rw [Configured, postResponse_part]
  exact h

theorem Configured.planFrame {o : Option Setup} {s t : State} (h : Configured o s) (hf : PlanFrame s t) :
    Configured o t := by
  refine ⟨hf.setup.trans h.1, ?_⟩
  rcases hf.state with he | ⟨-, he⟩
  · rw [he]; exact h.2
  · rw [he]; simp

theorem Configured.refuse {o : Option Setup} {s : State} (p : Packet) (reason : Reason) (data : List Byte)
    (h : Configured o s) : Configured o (refusePacket p reason data s) := by
  unfold refusePacket
  dsimp only
  split
  · exact (h.post _).fault _
  · exact h.post _

theorem Configured.acceptClose {o : Option Setup} {s : State} (staged : Staged) (p : Packet) (h : Configured o s) :
    Configured o (acceptClose staged p s) := by
  cases staged with
  | density es => exact Configured.post (s := s.setTables _) _ h
  | zone es => exact Configured.post (s := s.setTables _) _ h
  | blade es =>
    have hp : (Machine.acceptClose (.blade es) p s).part = s.part := by
      simp only [Machine.acceptClose, commitBlade_part, beginStall]
      split <;> rfl
    rw [Configured, hp]
    exact h

/-- Every update keeps the setup record, and keeps the part configured. -/
theorem keptAll_configured (o : Option Setup) : KeptAll (Configured o) where
  executor _ _ h _ := h
  moment s h := h.planFrame (plannerMoment_frame s)
  mark s tag h := by rw [Configured, reportMark_part]; exact h
  events _ _ h := h
  workPort _ _ h _ _ := h
  governor _ _ h _ _ _ _ := h
  evaluate s h := by
    rcases hd : s.governor.evalDue with _ | c
    · simpa [governorEvaluate, hd] using h
    · rw [governorEvaluate_frame hd]; exact h
  keptFreq _ _ h := h
  part s p h hs hst _ := ⟨hs.trans h.1, hst.elim (fun e => e ▸ h.2) id⟩
  commit s h := by rw [Configured, commitBlade_part]; exact h
  port _ _ h _ _ _ := h
  link _ _ h _ := h
  abandon _ h := h
  cleared _ _ h := h
  stabs _ _ h := h
  record s tag body j o h := h.planFrame (makeRecord_frame tag body j o s)
  acts s h := h.planFrame (makeActions_frame s)
  planner _ _ h := h
  load _ _ h := h
  post _ r h := h.post r
  report _ _ h := h
  close s r p h := by
    unfold dealTableClose
    split
    · exact h.refuse ..
    · split
      · exact Configured.refuse (s := abandonLoad s) _ _ _ h
      · exact Configured.acceptClose (s := abandonLoad s) _ _ h
  intake _ _ h := h
  setup s f h := by rw [ownSetup_of_configured h.2]; exact h

/-- Settles O29: the first clause by the three rows of `ownSetup`, the second because every update keeps the record. -/
theorem setupIsJudgedAsAWhole : Obligations.SetupIsJudgedAsAWhole := by
  unfold Obligations.SetupIsJudgedAsAWhole
  refine ⟨fun tag r s h => ⟨fun hc => ?refused, fun hu => ⟨fun hok hstop => ?parked, fun hok hstop => ?stopped,
    fun n hn hbad hbefore => ?range⟩⟩, fun c s t hc hreset hrel he => ?kept⟩
  case refused => exact congrArg Host.Outcome.next (h.hand (u := s) rfl (ownSetup_of_configured hc) rfl)
  case parked =>
    refine congrArg Host.Outcome.next (h.hand (u := configured r s) (reply := .accepted []) rfl ?_ rfl)
    rw [ownSetup_of_ok (s := reservePlace s) hu (firstFailing_setupChecks_of_ok hok)]
    exact congrArg (·, Reply.accepted []) (if_neg (by rw [Bool.not_eq_true]; exact hstop))
  case stopped =>
    refine ⟨_, congrArg Host.Outcome.next (h.hand (u := enterFault .stop (configured r s)) (reply := .accepted [])
      rfl ?_ rfl), rfl, rfl, rfl, rfl, rfl⟩
    rw [ownSetup_of_ok (s := reservePlace s) hu (firstFailing_setupChecks_of_ok hok)]
    exact congrArg (·, Reply.accepted []) (if_pos hstop)
  case range =>
    have hf := firstFailing_setupChecks_of_first hn hbad hbefore
    exact congrArg Host.Outcome.next (h.hand (u := s) rfl (ownSetup_of_failing hu hf) rfl)
  case kept =>
    exact (keptAll_configured s.part.setup).all c s t (fun h => absurd h hreset) (fun h => absurd h hrel) ⟨rfl, hc⟩ he

end Sys2Proof.Machine

/-! # The STOP input, the commit of the blade table, HALT and RESUME -/

namespace Sys2Proof.Machine

/-! ## The STOP input (R130, R148 to R152) -/

theorem Executor.moving_of_path {e : Executor} {cur : Current} (hst : e.state = .cut ∨ e.state = .travel)
    (hc : e.current = some cur) (hp : cur.record.body.isPath = true) (hn : cur.complete = false)
    (hv : 0 < cur.speed) : e.moving = true := by
  rcases hst with hst | hst <;> simp [Executor.moving, hst, hc, hp, hn, hv]

theorem Executor.moving_of_speed {e : Executor} (h : e.speed = 0) : e.moving = false := by
  unfold Executor.moving
  unfold Executor.speed at h
  split <;> simp_all

theorem Executor.faultStop_of_moving {e : Executor} (hm : e.moving = true) (hp : e.position ≠ none) :
    e.faultStop.state = .stopping :=
  if_pos ⟨hm, Option.isSome_iff_ne_none.2 hp⟩

theorem Executor.faultStop_of_still {e : Executor} (h : e.position = none ∨ e.moving = false) :
    e.faultStop.state = .stopped :=
  if_neg fun ⟨hm, hp⟩ => by rcases h with h | h <;> simp_all

theorem execStopAsserted_of_released {s : State} (hrun : s.part.inReset = false) (h : s.part.stopInput = false) :
    exec .stopAsserted s = .next (raiseFault .stop (setStop true s)) :=
  if_neg (by rw [hrun, h]; simp)

/-- Settles O37: the assertion raises STOP in the state with its level noted. -/
theorem stopInputRaisesStop : Obligations.StopInputRaisesStop := by
  unfold Obligations.StopInputRaisesStop
  intro s hrun
  refine ⟨rfl, fun hs => ?held, fun hs => ⟨fun hu => ?unconfigured, fun hf => ?further, fun hw => ?first⟩⟩
  case held =>
    have hsame : setStop s.part.stopInput s = s := rfl
    rw [hs] at hsame
    exact (if_pos (by rw [hs]; simp)).trans (congrArg Host.Outcome.next hsame)
  all_goals rw [execStopAsserted_of_released hrun hs]
  case unconfigured =>
    unfold raiseFault
    rw [show (setStop true s).part.state = .unconfigured from hu]
    rfl
  case further => rw [raiseFault_of_fault (s := setStop true s) hf]; rfl
  case first =>
    rw [raiseFault_of_working (s := setStop true s) hw]
    refine ⟨_, rfl, rfl, rfl, fun n hn => ?lines, rfl, rfl, rfl, rfl, rfl, rfl, rfl, rfl, rfl, rfl, rfl, rfl, rfl, rfl,
      fun cur hst hc hp hn hv hpos => ?stopping, fun h => ?stopped, rfl, rfl, rfl, rfl, rfl, rfl⟩
    case lines =>
      show (s.port.lines &&& ~~~s.port.dropMask).getLsbD n = _
      simp [hn]
    case stopping => exact Executor.faultStop_of_moving (Executor.moving_of_path hst hc hp hn hv) hpos
    case stopped => exact Executor.faultStop_of_still (h.imp_right Executor.moving_of_speed)

/-! ## The commit of the blade table (R44) -/

theorem bladeCommits_iff (s : State) : bladeCommits s = true ↔
    s.tables.waiting ≠ none ∧ s.planner.window = [] ∧ s.executor.queue = [] ∧ s.executor.state = .idle := by
  simp [bladeCommits, and_assoc, Option.isSome_iff_ne_none]

/-- The waiting table becomes the active one, and its close is answered (R44). -/
theorem commitBlade_of_waiting {s : State} {w : WaitingBlade} (hw : s.tables.waiting = some w)
    (hwin : s.planner.window = []) (hq : s.executor.queue = []) (hi : s.executor.state = .idle) :
    commitBlade s = postResponse ⟨0x0A, w.tag, .accepted, []⟩
      (s.setTables { s.tables with blade := w.entry, waiting := none }) := by
  have hc : bladeCommits s = true := (bladeCommits_iff s).2 ⟨by simp [hw], hwin, hq, hi⟩
  simp only [commitBlade, hw, hc, if_true]
  rfl

/-- While a record is held, or the Executor is not IDLE, nothing commits. -/
theorem commitBlade_of_held {s : State}
    (h : s.planner.window ≠ [] ∨ s.executor.queue ≠ [] ∨ s.executor.state ≠ .idle) : commitBlade s = s := by
  have hc : bladeCommits s = false := by
    rw [← Bool.not_eq_true, bladeCommits_iff]
    rintro ⟨-, hwin, hq, hi⟩
    rcases h with h | h | h <;> exact h ‹_›
  unfold commitBlade
  split
  · rfl
  · rw [hc]; rfl

/-- Settles O27. -/
theorem bladeTableCommits : Obligations.BladeTableCommits := by
  unfold Obligations.BladeTableCommits
  intro s w hrun hw
  have hexec : exec .bladeTableCommit s = .next (commitBlade s) :=
    congrArg Host.Outcome.next (unlessReset_of_running hrun commitBlade)
  rw [hexec]
  refine ⟨fun hwin hq hi hroom => ?_, fun h => by rw [commitBlade_of_held h]⟩
  rw [commitBlade_of_waiting hw hwin hq hi]
  exact congrArg Host.Outcome.next (postResponse_of_lt hroom)

/-! ## HALT (R126, R168) -/

section
variable {s : State}

theorem State.blade_of_some {b : BladeEntry} (h : s.tables.blade = some b) : s.blade = b := by
  rw [State.blade, h]
  rfl

theorem ownHalt_of_ne_running (h : s.part.state ≠ .running) : ownHalt s = (s, .refused .state []) :=
  if_pos h

theorem ownHalt_of_running (h : s.part.state = .running) : ownHalt s =
    if s.part.abortFlag || s.executor.state.isHold || s.executor.haltRequest then (s, .accepted [])
    else (setHalt s, .accepted []) :=
  if_neg (not_not.2 h)

theorem setHalt_of_working (h : s.executor.state.haltsAtOnce = false) :
    setHalt s = s.setExecutor { s.executor with haltRequest := true } :=
  if_neg (by rw [h]; simp)

theorem setHalt_of_resting (h : s.executor.state.haltsAtOnce = true) :
    setHalt s = enterHold (s.setExecutor { s.executor with haltRequest := true }) :=
  if_pos h

/-- The Executor that has entered HOLD, from STANDOFF when `b` is set, before its dwell timer is judged (R126, R127). -/
def Executor.held (b : Bool) (e : Executor) : Executor :=
  { e with
    state := .hold b, haltRequest := false, current := e.restedCurrent, zMove := none, stepDone := false,
    reentering := false }

/-- The three ways into HOLD: with a dwell expiry already taken, in material with no dwell timer, and otherwise. -/
theorem enterHold_eq {b : Bool} (hb : b = true ↔ ∃ h, s.executor.state = .standoff h) :
    enterHold s =
      if s.executor.standoffPending then beginStandoffRetract (s.setExecutor (s.executor.held b))
      else if s.executor.inMaterial ∧ s.executor.dwellTimer = .stopped then
        expireAtStart (s.setExecutor { s.executor.held b with dwellTimer := Timer.start s.blade.dwellTimeout })
      else s.setExecutor (s.executor.held b) := by
  unfold enterHold Executor.held
  split
  · next h hs =>
    obtain rfl := hb.2 ⟨h, hs⟩
    rfl
  · next hne =>
    obtain rfl : b = false := by
      rw [← Bool.not_eq_true, hb]
      rintro ⟨h, hs⟩
      exact hne h hs
    rfl

/-- HOLD is entered with the dwell timer left as it is: out of material, or with the timer running (R126, R127). -/
theorem enterHold_of_kept {b : Bool} (hp : s.executor.standoffPending = false)
    (hd : s.executor.inMaterial = false ∨ s.executor.dwellTimer ≠ .stopped)
    (hb : b = true ↔ ∃ h, s.executor.state = .standoff h) :
    enterHold s = s.setExecutor (s.executor.held b) := by
  rw [enterHold_eq hb, if_neg (ne_true_of_eq_false hp)]
  refine if_neg ?_
  rintro ⟨hm, ht⟩
  rcases hd with hd | hd
  · rw [hd] at hm; exact Bool.false_ne_true hm
  · exact hd ht

/-- HOLD is entered in material, with the dwell timer started; a timeout above 0 does not expire at once (R126). -/
theorem enterHold_of_material {t : BladeEntry} {b : Bool} (hp : s.executor.standoffPending = false)
    (hm : s.executor.inMaterial = true) (hd : s.executor.dwellTimer = .stopped)
    (hb : b = true ↔ ∃ h, s.executor.state = .standoff h) (ht : s.tables.blade = some t) (h0 : 0 < t.dwellTimeout) :
    enterHold s = s.setExecutor { s.executor.held b with dwellTimer := .running 0 t.dwellTimeout } := by
  rw [enterHold_eq hb, if_neg (ne_true_of_eq_false hp), if_pos ⟨hm, hd⟩, State.blade_of_some ht]
  exact if_neg (by simp [Timer.start, Timer.expired]; omega)

end

/-- Settles O32: the rows of `ownHalt`, and, where the Executor stands still, of the entry of HOLD. -/
theorem haltAsksForHold : Obligations.HaltAsksForHold := by
  unfold Obligations.HaltAsksForHold
  intro tag s h
  refine ⟨fun hn => ?refused, fun hr => ⟨fun hheld => ?held, fun ha hh => ⟨fun hw => ?working,
    fun b hp hrest => ?resting⟩⟩⟩
  case refused => exact congrArg Host.Outcome.next (h.hand (u := s) (ownHalt_of_ne_running hn) rfl)
  all_goals have hrow := ownHalt_of_running (s := reservePlace s) hr
  case held =>
    refine congrArg Host.Outcome.next (h.hand (u := s) (reply := .accepted []) (hrow.trans (if_pos ?_)) rfl)
    show (s.part.abortFlag || s.executor.state.isHold || s.executor.haltRequest) = true
    rcases hheld with h | ⟨b, h⟩ | h <;> simp [h, ExecState.isHold]
  all_goals
    have hfree : ∀ {b : Bool}, s.executor.state.isHold = b →
        (s.part.abortFlag || s.executor.state.isHold || s.executor.haltRequest) = b := by
      intro b hb
      rw [ha, hh, hb]
      cases b <;> rfl
  case working =>
    have hst : s.executor.state.isHold = false ∧ s.executor.state.haltsAtOnce = false := by
      rcases hw with h | h | h | h | h | h | h | ⟨p, h⟩ <;> rw [h] <;> exact ⟨rfl, rfl⟩
    refine congrArg Host.Outcome.next (h.hand (u := s.setExecutor { s.executor with haltRequest := true })
      (reply := .accepted []) (hrow.trans ((if_neg ?_).trans ?_)) rfl)
    · rw [Bool.not_eq_true]; exact hfree hst.1
    · rw [setHalt_of_working (s := reservePlace s) hst.2]; rfl
  case resting =>
    have hst : s.executor.state.isHold = false ∧ s.executor.state.haltsAtOnce = true ∧
        (s.executor.inMaterial = false ∨ s.executor.dwellTimer ≠ .stopped) ∧
        (b = true ↔ ∃ h, s.executor.state = .standoff h) := by
      rcases hrest with ⟨h, hm, rfl⟩ | ⟨h, rfl, hd⟩ | ⟨⟨w, h⟩, hm, rfl⟩ <;> rw [h]
      · exact ⟨rfl, rfl, .inl hm, by simp⟩
      · exact ⟨rfl, rfl, .inr hd, by simp⟩
      · exact ⟨rfl, rfl, .inl hm, by simp⟩
    obtain ⟨hhold, hat, hd, hb⟩ := hst
    refine ⟨_, congrArg Host.Outcome.next (h.hand (u := s.setExecutor (s.executor.held b))
      (reply := .accepted []) (hrow.trans ((if_neg ?_).trans ?_)) rfl), ?_⟩
    · rw [Bool.not_eq_true]; exact hfree hhold
    · exact congrArg (·, Reply.accepted [])
        ((setHalt_of_resting (s := reservePlace s) hat).trans (enterHold_of_kept hp hd hb))
    · exact ⟨rfl, rfl, rfl, rfl, rfl, rfl, rfl, ⟨rfl, rfl, rfl, rfl, rfl, rfl, rfl⟩, rfl⟩

end Sys2Proof.Machine

/-! # RESUME (R128), and the judging of the part state behind it (R145) -/

namespace Sys2Proof.Machine

/-! ## The part state at the end of work -/

section
variable {s : State}

/-- The four conditions of R145 hold, outside an abort stop. -/
theorem judgeParked_of_rest (hr : s.part.state = .running) (ha : s.part.abortFlag = false)
    (hst : s.planner.stream = .noBlock) (hw : s.planner.window = []) (hq : s.executor.queue = [])
    (hi : s.executor.state = .idle) (hc : s.executor.current = none) : judgeParked s = s.setPartState .parked :=
  if_pos ⟨hr, ha, hst, by rw [hw]; rfl, by rw [hq]; rfl, hi, hc⟩

/-- One of the four conditions of R145 fails. -/
theorem judgeParked_of_held (h : s.planner.window ≠ [] ∨ s.executor.queue ≠ [] ∨ s.planner.stream ≠ .noBlock ∨
    s.executor.state ≠ .idle ∨ s.executor.current ≠ none) : judgeParked s = s :=
  if_neg fun ⟨_, _, hst, hw, hq, hi, hc⟩ => by
    rcases h with h | h | h | h | h
    · exact h (List.isEmpty_iff.1 hw)
    · exact h (List.isEmpty_iff.1 hq)
    · exact h hst
    · exact h hi
    · exact h hc

@[simp] theorem judgeParked_link (s : State) : (judgeParked s).link = s.link := by
  unfold judgeParked; split <;> rfl
@[simp] theorem judgeParked_tables (s : State) : (judgeParked s).tables = s.tables := by
  unfold judgeParked; split <;> rfl
@[simp] theorem judgeParked_planner (s : State) : (judgeParked s).planner = s.planner := by
  unfold judgeParked; split <;> rfl
@[simp] theorem judgeParked_executor (s : State) : (judgeParked s).executor = s.executor := by
  unfold judgeParked; split <;> rfl
@[simp] theorem judgeParked_governor (s : State) : (judgeParked s).governor = s.governor := by
  unfold judgeParked; split <;> rfl
@[simp] theorem judgeParked_port (s : State) : (judgeParked s).port = s.port := by
  unfold judgeParked; split <;> rfl
@[simp] theorem judgeParked_report (s : State) : (judgeParked s).report = s.report := by
  unfold judgeParked; split <;> rfl
@[simp] theorem judgeParked_pending (s : State) : (judgeParked s).pending = s.pending := by
  unfold judgeParked; split <;> rfl
@[simp] theorem judgeParked_keptFreq (s : State) : (judgeParked s).keptFreq = s.keptFreq := by
  unfold judgeParked; split <;> rfl

/-! ## DWELL -/

/-- DWELL is entered with its timer started; a timeout above 0 does not expire at once (R108, R124). -/
theorem enterDwell_of_timeout {b : BladeEntry} (hb : s.tables.blade = some b) (ht : 0 < b.dwellTimeout) :
    enterDwell s = s.setExecutor { s.executor with
      state := .dwell, current := none, dwellTimer := .running 0 b.dwellTimeout, reentering := false,
      stepDone := false } := by
  unfold enterDwell
  rw [State.blade_of_some hb]
  exact if_neg (by simp [Timer.start, Timer.expired]; omega)

/-! ## The rows of RESUME -/

theorem ownResume_of_refused (h : s.part.state ≠ .running ∨
    (¬ (∃ b, s.executor.state = .hold b) ∧ s.executor.state ≠ .standoff true)) :
    ownResume s = (s, .refused .state []) := by
  by_cases hr : s.part.state = .running
  · obtain ⟨hh, hs⟩ := h.resolve_left (not_not.2 hr)
    refine (if_neg (not_not.2 hr)).trans ?_
    split
    · exact absurd ⟨_, ‹_›⟩ hh
    · exact absurd ⟨_, ‹_›⟩ hh
    · exact absurd ‹_› hs
    all_goals rfl
  · exact if_pos hr

theorem ownResume_of_standoff (hr : s.part.state = .running)
    (h : s.executor.state = .hold true ∨ s.executor.state = .standoff true) :
    ownResume s = (s.setExecutor { s.executor with state := .standoff false }, .accepted []) := by
  refine (if_neg (not_not.2 hr)).trans ?_
  rcases h with h | h <;> rw [h]

theorem ownResume_of_hold (hr : s.part.state = .running) (h : s.executor.state = .hold false) :
    ownResume s = (resumeHold s, .accepted []) := by
  refine (if_neg (not_not.2 hr)).trans ?_
  rw [h]

theorem Executor.restedCurrent_of_partDone {e : Executor} {cur : Current} (hc : e.current = some cur)
    (hn : cur.complete = false) : e.restedCurrent = some { cur with speed := 0 } := by
  simp [Executor.restedCurrent, hc, hn]

theorem Executor.restedCurrent_of_none {e : Executor} (hc : e.current = none) : e.restedCurrent = none := by
  simp [Executor.restedCurrent, hc]

theorem resumeHold_of_cut {cur : Current} {c : CutRecord} (hc : s.executor.current = some cur)
    (hn : cur.complete = false) (hb : cur.record.body = .cut c) : resumeHold s = resumePath .cut s := by
  unfold resumeHold
  rw [Executor.restedCurrent_of_partDone hc hn]
  simp only [hb]

theorem resumeHold_of_travel {cur : Current} {x y : Int} {h : Option Nat} (hc : s.executor.current = some cur)
    (hn : cur.complete = false) (hb : cur.record.body = .travel x y h) : resumeHold s = resumePath .travel s := by
  unfold resumeHold
  rw [Executor.restedCurrent_of_partDone hc hn]
  simp only [hb]

theorem resumeHold_of_none (hc : s.executor.current = none) :
    resumeHold s = if s.executor.inMaterial then resumeDwell s else resumeIdle s := by
  unfold resumeHold
  rw [Executor.restedCurrent_of_none hc]

/-- The record of an Executor without one may be written as absent. -/
theorem Executor.with_current_none {e : Executor} (hc : e.current = none) (st : ExecState) (t : Timer) :
    ({ e with state := st, current := none, dwellTimer := t } : Executor) =
      { e with state := st, dwellTimer := t } := by
  simp [hc]

/-- The Executor in IDLE, and nothing else changed. -/
def idled (s : State) : State := s.setExecutor { s.executor with state := .idle }

theorem resumeIdle_of_none (hc : s.executor.current = none) :
    resumeIdle s = commitBlade (judgeParked (idled s)) := by
  unfold resumeIdle
  rw [Executor.with_current_none hc .idle s.executor.dwellTimer]
  rfl

/-- RESUME of a HOLD out of material without a record: the reply fills its place once the part state has been judged
and a waiting blade table has had its close answered (R44, R128, R145). -/
theorem resume_of_idle {kind : Byte} {tag : Tag} (h : Reaches s) (hr : s.part.state = .running)
    (hs : s.executor.state = .hold false) (hc : s.executor.current = none) (hm : s.executor.inMaterial = false) :
    unlessReset s (handImmediate kind tag ownResume) = answer ⟨kind, tag, .accepted, []⟩
      (commitBlade (judgeParked (reservePlace (idled s)))) := by
  rw [unlessReset_of_running h.running, handImmediate_of_room (.inl h.configured) h.place,
    ownResume_of_hold (s := reservePlace s) hr hs, resumeHold_of_none (s := reservePlace s) hc,
    if_neg (show ¬ (reservePlace s).executor.inMaterial = true from ne_true_of_eq_false hm),
    resumeIdle_of_none (s := reservePlace s) hc]
  rfl

end

/-! ## The reply in its place -/

@[simp] theorem answer_link (r : Response) (s : State) : (answer r s).link = s.link := rfl
@[simp] theorem answer_tables (r : Response) (s : State) : (answer r s).tables = s.tables := rfl
@[simp] theorem answer_planner (r : Response) (s : State) : (answer r s).planner = s.planner := rfl
@[simp] theorem answer_executor (r : Response) (s : State) : (answer r s).executor = s.executor := rfl
@[simp] theorem answer_keptFreq (r : Response) (s : State) : (answer r s).keptFreq = s.keptFreq := rfl
@[simp] theorem answer_governor (r : Response) (s : State) : (answer r s).governor = s.governor := rfl
@[simp] theorem answer_port (r : Response) (s : State) : (answer r s).port = s.port := rfl
@[simp] theorem answer_part (r : Response) (s : State) : (answer r s).part = s.part := rfl
@[simp] theorem answer_pending (r : Response) (s : State) : (answer r s).pending = s.pending := rfl

/-- What a RESUME into IDLE does to tables and responses: with no table waiting nothing, and with one its close is
answered behind the RESUME, or its answer is lost (R44, R174). -/
theorem answer_commitBlade {s : State} (r : Response) (hroom : s.report.responses.length < 16)
    (hnone : ∀ p ∈ s.report.responses, p ≠ .reserved) :
    (s.tables.waiting = none ∨ s.planner.window ≠ [] ∨ s.executor.queue ≠ [] ∨ s.executor.state ≠ .idle →
      answer r (commitBlade (reservePlace s)) = s.respond r) ∧
    (∀ w, s.tables.waiting = some w → s.planner.window = [] → s.executor.queue = [] → s.executor.state = .idle →
      (answer r (commitBlade (reservePlace s))).tables = { s.tables with blade := w.entry, waiting := none } ∧
      (s.report.responses.length < 15 → (answer r (commitBlade (reservePlace s))).report.responses =
        s.report.responses ++ [.held r, .held ⟨0x0A, w.tag, .accepted, []⟩]) ∧
      (s.report.responses.length = 15 → (answer r (commitBlade (reservePlace s))).report.responses =
          s.report.responses ++ [.held r] ∧
        (answer r (commitBlade (reservePlace s))).report.events.link = true ∧
        (answer r (commitBlade (reservePlace s))).report.events.linkReason = some .responseFull)) := by
  have hfill : answer r (reservePlace s) = s.respond r := by
    simp only [answer, reservePlace, State.respond, State.setReport, fillPlace_reserved _ _ hnone]
  refine ⟨fun h => ?_, fun w hw hwin hq hi => ?_⟩
  · rcases h with h | h
    · rw [commitBlade_of_none (s := reservePlace s) h, hfill]
    · rw [commitBlade_of_held (s := reservePlace s) h, hfill]
  · rw [commitBlade_of_waiting (s := reservePlace s) hw hwin hq hi]
    have hlen : ∀ t : TableStore, ((reservePlace s).setTables t).report.responses.length =
        s.report.responses.length + 1 := fun _ => List.length_append
    refine ⟨by simp only [answer, State.setReport_tables, postResponse_tables]; rfl, fun hl => ?_, fun hl => ?_⟩
    · rw [postResponse_of_lt (by rw [hlen]; omega)]
      show fillPlace r ((s.report.responses ++ [.reserved]) ++ [_]) = _
      rw [List.append_assoc]
      exact fillPlace_reserved_append r hnone _
    · rw [postResponse_of_full (by rw [hlen]; omega)]
      exact ⟨fillPlace_reserved r _ hnone, rfl, rfl⟩

/-- Settles O33: one row per place that a RESUME leads to. -/
theorem resumeLeavesHold : Obligations.ResumeLeavesHold := by
  unfold Obligations.ResumeLeavesHold
  intro tag s h
  refine ⟨fun hn => ?refused, fun hr => ⟨fun hs => ?standoff, fun hs => ⟨fun cur c hc hn hb => ?cut,
    fun cur x y hd hc hn hb => ?travel, fun b hc hm hq hb ht => ?dwell, fun hc hm hq => ?waiting,
    fun hc hm => ?idle⟩⟩⟩
  case refused => exact congrArg Host.Outcome.next (h.hand (u := s) (ownResume_of_refused hn) rfl)
  case standoff =>
    exact congrArg Host.Outcome.next (h.hand (u := s.setExecutor { s.executor with state := .standoff false })
      (ownResume_of_standoff (s := reservePlace s) hr hs) rfl)
  all_goals have hrow := ownResume_of_hold (s := reservePlace s) hr hs
  case cut =>
    rw [resumeHold_of_cut (s := reservePlace s) hc hn hb] at hrow
    exact congrArg Host.Outcome.next (h.hand (u := s.setExecutor
      { s.executor with state := .cut, dwellTimer := .stopped, reentry := none }) hrow rfl)
  case travel =>
    rw [resumeHold_of_travel (s := reservePlace s) hc hn hb] at hrow
    exact congrArg Host.Outcome.next (h.hand (u := s.setExecutor
      { s.executor with state := .travel, dwellTimer := .stopped, reentry := none }) hrow rfl)
  case dwell =>
    rw [resumeHold_of_none (s := reservePlace s) hc, if_pos (show (reservePlace s).executor.inMaterial = true from hm),
      resumeDwell, if_pos (show (reservePlace s).executor.queue.isEmpty = true from List.isEmpty_iff.2 hq),
      enterDwell_of_timeout (s := reservePlace s) hb ht] at hrow
    refine ⟨_, congrArg Host.Outcome.next (h.hand (u := s.setExecutor { s.executor with
      state := .dwell, current := none, dwellTimer := .running 0 b.dwellTimeout, reentering := false,
      stepDone := false }) hrow rfl), rfl, rfl, rfl, ⟨rfl, rfl, rfl, rfl, rfl, rfl, rfl⟩, rfl⟩
  case waiting =>
    rw [resumeHold_of_none (s := reservePlace s) hc, if_pos (show (reservePlace s).executor.inMaterial = true from hm),
      resumeDwell, if_neg (show ¬ (reservePlace s).executor.queue.isEmpty = true from mt List.isEmpty_iff.1 hq),
      Executor.with_current_none (e := (reservePlace s).executor) hc] at hrow
    exact congrArg Host.Outcome.next (h.hand (u := s.setExecutor
      { s.executor with state := .dwell, dwellTimer := .stopped }) hrow rfl)
  case idle =>
    obtain ⟨hkeeps, -⟩ := answer_commitBlade (s := idled s) ⟨kindResume, tag, .accepted, []⟩ h.place h.noneReserved
    refine ⟨_, congrArg Host.Outcome.next (resume_of_idle h hr hs hc hm), ?_⟩
    simp only [answer_executor, answer_link, answer_planner, answer_governor, answer_port, answer_part,
      commitBlade_executor, commitBlade_link, commitBlade_planner, commitBlade_governor, commitBlade_port,
      commitBlade_part, judgeParked_executor, judgeParked_link, judgeParked_planner, judgeParked_governor,
      judgeParked_port]
    refine ⟨rfl, rfl, rfl, rfl, rfl, fun hheld => ?held, fun hw hq hst ha => ?rest⟩
    case held =>
      have hj : judgeParked (reservePlace (idled s)) = reservePlace (idled s) :=
        judgeParked_of_held (hheld.imp_right (Or.imp_right .inl))
      rw [hj]
      refine ⟨rfl, fun hno => ?_⟩
      rw [hkeeps (by rcases hno with h | h | h <;> simp [h, idled])]
      exact ⟨rfl, rfl⟩
    case rest =>
      have hj : judgeParked (reservePlace (idled s)) = reservePlace ((idled s).setPartState .parked) :=
        judgeParked_of_rest hr ha hst hw hq rfl hc
      obtain ⟨hkeeps, hcommits⟩ := answer_commitBlade (s := (idled s).setPartState .parked)
        ⟨kindResume, tag, .accepted, []⟩ h.place h.noneReserved
      rw [hj]
      refine ⟨rfl, fun hno => ?_, fun w hwait => hcommits w hwait hw hq rfl⟩
      rw [hkeeps (.inl hno)]
      exact ⟨rfl, rfl⟩

end Sys2Proof.Machine

/-! # Junctions (Table 4.3), the governing class (R25 to R27) and the two passes of the plan (R72, R73) -/

namespace Sys2Proof.Machine

/-! ## Junctions -/

/-- Settles O19: the rows of `junctionOf`, with the two of a LIFT apart by whether a trim is due. -/
theorem junctionFollowsTable43 : Obligations.JunctionFollowsTable43 := by
  unfold Obligations.JunctionFollowsTable43
  refine ⟨fun blade h1 c1 h2 c2 snap d => ⟨junctionOf_of_overdue, junctionOf_of_blend, junctionOf_of_swivel,
    fun hd hb hs hdue => ?_, fun hd hb hs hdue => ?_⟩, fun blade memory h2 c2 snap d => ⟨rfl, ?_, ?_⟩⟩
  · have htrim : trimDue blade d = true := decide_eq_true hdue
    rw [junctionOf_of_lift hd hb hs, htrim]
    rfl
  · have htrim : trimDue blade d = false := decide_eq_false (Nat.not_le.2 hdue)
    rw [junctionOf_of_lift hd hb hs, htrim]
    rfl
  · rintro h1 c1 rfl
    rfl
  · rintro h1 c1 exit rfl
    rfl

/-! ## The governing class -/

/-- Of two snapshots, `a` governs `b`: the lower feed cap, then the lower class index (R26). -/
def Snapshot.GovernsOver (a b : Snapshot) : Prop :=
  a.feedCap < b.feedCap ∨ (a.feedCap = b.feedCap ∧ a.cls ≤ b.cls)

theorem Snapshot.GovernsOver.trans {a b c : Snapshot} (h : a.GovernsOver b) (k : b.GovernsOver c) :
    a.GovernsOver c := by
  unfold Snapshot.GovernsOver at *
  omega

/-- The one chosen of two is one of them, and governs both. -/
theorem governs_spec (a b : Snapshot) :
    (governs a b = a ∨ governs a b = b) ∧ (governs a b).GovernsOver a ∧ (governs a b).GovernsOver b := by
  unfold governs
  split
  · next h => exact ⟨.inl rfl, .inr ⟨rfl, le_rfl⟩, h⟩
  · next h =>
    refine ⟨.inr rfl, ?_, .inr ⟨rfl, le_rfl⟩⟩
    unfold Snapshot.GovernsOver
    omega

theorem snapshotOf_eq_some {density : List (Nat × DensityEntry)} {cls : Nat} {a : Snapshot}
    (h : snapshotOf density cls = some a) : ∃ e, lookupKey cls density = some e ∧
      a = ⟨cls, e.feedCap, e.pitchTarget, e.pitchMax, e.plunge, e.ceiling⟩ := by
  unfold snapshotOf at h
  split at h
  · exact ⟨_, ‹_›, (Option.some.inj h).symm⟩
  · cases h

/-- The snapshot chosen from a list of classes is that of one of them, and governs those of all of them. -/
theorem governingOf_spec {density : List (Nat × DensityEntry)} : ∀ {l : List Nat} {snap : Snapshot},
    governingOf density l = some snap → (snap.cls ∈ l ∧ snapshotOf density snap.cls = some snap) ∧
      ∀ cls ∈ l, ∃ a, snapshotOf density cls = some a ∧ snap.GovernsOver a
  | [], snap, h => by cases h
  | [c], snap, h => by
    obtain ⟨e, he, rfl⟩ := snapshotOf_eq_some h
    exact ⟨⟨by simp, h⟩, by simpa using ⟨_, h, .inr ⟨rfl, le_rfl⟩⟩⟩
  | c :: c' :: cs, snap, h => by
    rw [governingOf] at h
    · split at h
      · next a b ha hb =>
        obtain ⟨⟨hbmem, hbsnap⟩, hball⟩ := governingOf_spec hb
        obtain ⟨e, -, hae⟩ := snapshotOf_eq_some ha
        have hcls : a.cls = c := by rw [hae]
        obtain ⟨hchoice, hga, hgb⟩ := governs_spec a b
        obtain rfl := Option.some.inj h
        refine ⟨?_, fun cls hmem => ?_⟩
        · rcases hchoice with hc | hc <;> rw [hc]
          · exact ⟨by simp [hcls], hcls ▸ ha⟩
          · exact ⟨List.mem_cons_of_mem _ hbmem, hbsnap⟩
        · rcases List.mem_cons.1 hmem with rfl | hmem
          · exact ⟨a, ha, hga⟩
          · obtain ⟨x, hx, hbx⟩ := hball cls hmem
            exact ⟨x, hx, hgb.trans hbx⟩
      · cases h
    · simp

theorem mem_candidates {zone : List (Nat × ZoneEntry)} {b : Box} {cls : Nat} :
    cls ∈ candidates zone b ↔ ∃ i e, (i, e) ∈ zone ∧ candidate zone b e = true ∧ e.cls = cls := by
  simp [candidates, and_assoc]

theorem candidate_dflt {zone : List (Nat × ZoneEntry)} {b : Box} {c : Nat} :
    candidate zone b (.dflt c) = true ↔ ¬ ∃ i e, (i, e) ∈ zone ∧ ZoneEntry.contains b e = true := by
  simp [candidate]

/-- Settles O20. -/
theorem governingClassIsTheHardest : Obligations.GoverningClassIsTheHardest := by
  unfold Obligations.GoverningClassIsTheHardest
  refine ⟨fun zone b cls => ?_, fun t b snap h => ?_⟩
  · have hcontains : (∃ i e, (i, e) ∈ zone ∧ ZoneEntry.contains b e = true) ↔
        ∃ i xLo yLo xHi yHi c, (i, ZoneEntry.rect xLo yLo xHi yHi c) ∈ zone ∧
          xLo ≤ b.xLo ∧ b.xHi ≤ xHi ∧ yLo ≤ b.yLo ∧ b.yHi ≤ yHi := by
      constructor
      · rintro ⟨i, e, hmem, he⟩
        cases e with
        | dflt c => cases he
        | rect xLo yLo xHi yHi c => exact ⟨i, xLo, yLo, xHi, yHi, c, hmem, by simpa [ZoneEntry.contains] using he⟩
      · rintro ⟨i, xLo, yLo, xHi, yHi, c, hmem, he⟩
        exact ⟨i, _, hmem, by simpa [ZoneEntry.contains] using he⟩
    rw [mem_candidates, ← hcontains]
    constructor
    · rintro ⟨i, e, hmem, hc, rfl⟩
      cases e with
      | dflt c => exact .inr ⟨⟨i, hmem⟩, candidate_dflt.1 hc⟩
      | rect xLo yLo xHi yHi c =>
        exact .inl ⟨i, xLo, yLo, xHi, yHi, hmem, by simpa [candidate, ZoneEntry.meets] using hc⟩
    · rintro (⟨i, xLo, yLo, xHi, yHi, hmem, hc⟩ | ⟨⟨i, hmem⟩, hc⟩)
      · exact ⟨i, _, hmem, by simpa [candidate, ZoneEntry.meets] using hc, rfl⟩
      · exact ⟨i, _, hmem, candidate_dflt.2 hc, rfl⟩
  · obtain ⟨⟨hmem, hsnap⟩, hall⟩ := governingOf_spec h
    refine ⟨hmem, snapshotOf_eq_some hsnap, fun cls hcls => ?_⟩
    obtain ⟨a, ha, hg⟩ := hall cls hcls
    obtain ⟨e, he, rfl⟩ := snapshotOf_eq_some ha
    exact ⟨e, he, hg⟩

end Sys2Proof.Machine

/-! # The two passes of the plan over the CUTs of the run (R71 to R73, R77, R82) -/

namespace Sys2Proof.Machine

/-- A CUT of the run with the junction speed kept beside it. -/
abbrev RunCut : Type := Nat × CutRecord

/-- The CUTs of a list of window entries, in order. -/
def cutsOf (l : List WindowEntry) : List RunCut :=
  l.filterMap fun w => (w.record.body.cut?).map fun c => (w.junction, c)

/-- What a CUT allows the one before it as exit: the lesser of its junction speed and its entry (R72). -/
def exitBound : Option RunCut → Nat
  | none => 0
  | some q => min q.1 q.2.entry

/-- The backward pass over CUTs alone. -/
def backward (a : Nat) : List RunCut → List RunCut
  | [] => []
  | (j, c) :: rest =>
    (j, { c with
      exit := exitBound (backward a rest).head?
      entry := min c.cap (min j (reach a (exitBound (backward a rest).head?) c.len)) }) :: backward a rest

/-- The forward pass over CUTs alone. -/
def forward (a : Nat) : Nat → List RunCut → List RunCut
  | _, [] => []
  | b, (j, c) :: rest =>
    (j, { c with entry := min c.entry b, exit := min c.exit (reach a (min c.entry b) c.len) }) ::
      forward a (min c.exit (reach a (min c.entry b) c.len)) rest

/-! ## The passes of the model are these -/

theorem Body.cut?_eq_none {b : Body} : b.cut? = none ↔ ∀ c, b ≠ .cut c := by
  cases b <;> simp [Body.cut?]

theorem cutsOf_cons_of_cut {w : WindowEntry} {c : CutRecord} (h : w.record.body = .cut c) (l : List WindowEntry) :
    cutsOf (w :: l) = (w.junction, c) :: cutsOf l := by
  simp [cutsOf, h, Body.cut?]

theorem cutsOf_cons_of_other {w : WindowEntry} (h : ∀ c, w.record.body ≠ .cut c) (l : List WindowEntry) :
    cutsOf (w :: l) = cutsOf l := by
  simp [cutsOf, Body.cut?_eq_none.2 h]

theorem planBackward_eq_backward (a : Nat) : ∀ l : List WindowEntry,
    cutsOf (planBackward a l).1 = backward a (cutsOf l) ∧
    ((planBackward a l).2).getD 0 = exitBound (backward a (cutsOf l)).head?
  | [] => ⟨rfl, rfl⟩
  | w :: rest => by
    obtain ⟨ih, ihe⟩ := planBackward_eq_backward a rest
    rw [planBackward]
    split
    · next c hc =>
      rw [cutsOf_cons_of_cut hc, cutsOf_cons_of_cut rfl, backward, ih, ihe]
      exact ⟨rfl, rfl⟩
    · next hc =>
      rw [cutsOf_cons_of_other hc, cutsOf_cons_of_other hc]
      exact ⟨ih, ihe⟩

theorem planForward_eq_forward (a : Nat) : ∀ (l : List WindowEntry) (b : Nat),
    cutsOf (planForward a b l) = forward a b (cutsOf l)
  | [], _ => rfl
  | w :: rest, b => by
    rw [planForward]
    split
    · next c hc =>
      rw [cutsOf_cons_of_cut hc, cutsOf_cons_of_cut rfl, forward, planForward_eq_forward a rest]
    · next hc =>
      rw [cutsOf_cons_of_other hc, cutsOf_cons_of_other hc, planForward_eq_forward a rest]

/-! ## The equations of the passes, index by index -/

theorem backward_length (a : Nat) (l : List RunCut) : (backward a l).length = l.length := by
  induction l with
  | nil => rfl
  | cons q l ih => simp [backward, ih]

theorem forward_length (a : Nat) (l : List RunCut) (b : Nat) : (forward a b l).length = l.length := by
  induction l generalizing b with
  | nil => rfl
  | cons q l ih => simp [forward, ih]

theorem backward_get (a : Nat) {l : List RunCut} {i j : Nat} {c : CutRecord} (h : l[i]? = some (j, c)) :
    (backward a l)[i]? = some (j, { c with
      exit := exitBound (backward a l)[i + 1]?
      entry := min c.cap (min j (reach a (exitBound (backward a l)[i + 1]?) c.len)) }) := by
  induction l generalizing i with
  | nil => simp at h
  | cons q l ih =>
    cases i with
    | zero =>
      obtain rfl : q = (j, c) := by simpa using h
      simp [backward, List.head?_eq_getElem?]
    | succ i => simpa [backward] using ih (by simpa using h)

/-- The bound on the entry of CUT `i` in the forward pass from `b`: `b`, or the exit of the CUT before (R73). -/
def entryBound (b : Nat) (done : List RunCut) : Nat → Nat
  | 0 => b
  | i + 1 => (done[i]?.map fun q => q.2.exit).getD 0

theorem forward_get (a : Nat) {l : List RunCut} {b i j : Nat} {c : CutRecord} (h : l[i]? = some (j, c)) :
    (forward a b l)[i]? = some (j, { c with
      entry := min c.entry (entryBound b (forward a b l) i)
      exit := min c.exit (reach a (min c.entry (entryBound b (forward a b l) i)) c.len) }) := by
  induction l generalizing i b with
  | nil => simp at h
  | cons q l ih =>
    cases i with
    | zero =>
      obtain rfl : q = (j, c) := by simpa using h
      simp [forward, entryBound]
    | succ i =>
      have hstep := ih (b := min q.2.exit (reach a (min q.2.entry b) q.2.len)) (by simpa using h)
      have hb : entryBound b (forward a b (q :: l)) (i + 1) =
          entryBound (min q.2.exit (reach a (min q.2.entry b) q.2.len))
            (forward a (min q.2.exit (reach a (min q.2.entry b) q.2.len)) l) i := by
        cases i <;> simp [entryBound, forward]
      rw [hb]
      simpa [forward] using hstep

/-! ## What follows for a plan -/

section
variable {a b : Nat} {l : List RunCut}

/-- Each CUT of the plan, from the CUT of the run in its place. -/
theorem plan_get {i : Nat} {q : RunCut} (h : (forward a b (backward a l))[i]? = some q) :
    ∃ j c, l[i]? = some (j, c) ∧ (backward a l)[i]? = some (j, { c with
        exit := exitBound (backward a l)[i + 1]?
        entry := min c.cap (min j (reach a (exitBound (backward a l)[i + 1]?) c.len)) }) ∧
      q = (j, { c with
        entry := min (min c.cap (min j (reach a (exitBound (backward a l)[i + 1]?) c.len)))
          (entryBound b (forward a b (backward a l)) i)
        exit := min (exitBound (backward a l)[i + 1]?) (reach a
          (min (min c.cap (min j (reach a (exitBound (backward a l)[i + 1]?) c.len)))
            (entryBound b (forward a b (backward a l)) i)) c.len) }) := by
  have hi : i < l.length := by
    have := (List.getElem?_eq_some_iff.1 h).1
    rwa [forward_length, backward_length] at this
  have hget : l[i]? = some ((l[i]).1, (l[i]).2) := List.getElem?_eq_getElem hi
  have hback := backward_get a hget
  refine ⟨_, _, hget, hback, ?_⟩
  have := forward_get a (b := b) hback
  rw [h] at this
  exact Option.some.inj this

/-- Every CUT of the plan can be entered and left at its speeds (R77). -/
theorem plan_speeds {q : RunCut} (h : q ∈ forward a b (backward a l)) :
    q.2.entry ≤ q.2.cap ∧ q.2.entry ≤ q.1 ∧ q.2.entry ≤ reach a q.2.exit q.2.len ∧
      q.2.exit ≤ reach a q.2.entry q.2.len := by
  obtain ⟨i, hi⟩ := List.mem_iff_getElem?.1 h
  obtain ⟨j, c, -, -, rfl⟩ := plan_get hi
  dsimp only
  refine ⟨by omega, by omega, ?_, min_le_right _ _⟩
  rcases min_choice (exitBound (backward a l)[i + 1]?) (reach a
    (min (min c.cap (min j (reach a (exitBound (backward a l)[i + 1]?) c.len)))
      (entryBound b (forward a b (backward a l)) i)) c.len) with he | he <;> rw [he]
  · omega
  · exact (le_reach_self _ _ _).trans (le_reach_self _ _ _)

/-- The exit of each CUT of the plan is the entry of the next (R82). -/
theorem plan_continuous {i : Nat} {q1 q2 : RunCut} (h1 : (forward a b (backward a l))[i]? = some q1)
    (h2 : (forward a b (backward a l))[i + 1]? = some q2) : q1.2.exit = q2.2.entry := by
  obtain ⟨j1, c1, -, -, hq1⟩ := plan_get h1
  obtain ⟨j2, c2, -, hback2, hq2⟩ := plan_get h2
  have hbound : entryBound b (forward a b (backward a l)) (i + 1) = q1.2.exit := by
    rw [entryBound, h1]
    rfl
  have hexit : q1.2.exit ≤ exitBound (backward a l)[i + 1]? := by
    rw [hq1]
    exact min_le_left _ _
  rw [hback2, exitBound] at hexit
  rw [hq2, hbound]
  dsimp only at hexit ⊢
  omega

end

/-! ## What the passes leave alone -/

theorem planBackward_get_other (a : Nat) {l : List WindowEntry} {i : Nat} {w : WindowEntry} (h : l[i]? = some w)
    (hw : ∀ c, w.record.body ≠ .cut c) : (planBackward a l).1[i]? = some w := by
  induction l generalizing i with
  | nil => simp at h
  | cons v l ih =>
    rw [planBackward]
    cases i with
    | zero =>
      obtain rfl : v = w := by simpa using h
      split
      · exact absurd ‹_› (hw _)
      · rfl
    | succ i =>
      have := ih (by simpa using h)
      split <;> simpa using this

theorem planForward_get_other (a : Nat) {l : List WindowEntry} {b i : Nat} {w : WindowEntry} (h : l[i]? = some w)
    (hw : ∀ c, w.record.body ≠ .cut c) : (planForward a b l)[i]? = some w := by
  induction l generalizing i b with
  | nil => simp at h
  | cons v l ih =>
    rw [planForward]
    cases i with
    | zero =>
      obtain rfl : v = w := by simpa using h
      split
      · exact absurd ‹_› (hw _)
      · rfl
    | succ i => split <;> simpa using ih (by simpa using h)

theorem plan_tags (a b : Nat) (l : List WindowEntry) :
    (planForward a b (planBackward a l).1).map (fun w => (w.record.tag, w.record.actions)) =
      l.map fun w => (w.record.tag, w.record.actions) := by
  have hunplanned : ∀ m : List WindowEntry, m.map (fun w => (w.record.tag, w.record.actions)) =
      (m.map fun w => w.record.unplanned).map fun r => (r.tag, r.actions) := fun m => by
    simp [Record.unplanned_tag, Record.unplanned_actions]
  rw [hunplanned, planForward_unplanned, planBackward_unplanned, ← hunplanned]

/-- Settles O22: the passes over the window entries are those over their CUTs, which have the equations index by
index. -/
theorem passesGiveAPlanThatCanBeFollowed : Obligations.PassesGiveAPlanThatCanBeFollowed := by
  unfold Obligations.PassesGiveAPlanThatCanBeFollowed
  intro a b run plan cuts' back cuts
  have hrun : cuts' run = cutsOf run := rfl
  have hback : back = backward a (cutsOf run) := (planBackward_eq_backward a run).1
  have hcuts : cuts = forward a b (backward a (cutsOf run)) :=
    (planForward_eq_forward a _ b).trans (congrArg (forward a b) hback)
  rw [hrun, hback, hcuts]
  refine ⟨backward_length _ _, (forward_length _ _ _).trans (backward_length _ _), fun i j c h => ?equations,
    fun i w h hw => ?others, fun q hq => plan_speeds hq, fun q hq => ?head, fun i q1 q2 => plan_continuous,
    fun q hq => ?last, plan_tags a b run⟩
  case equations =>
    have hback := backward_get a h
    have hforth := forward_get a (b := b) hback
    refine ⟨_, _, _, _, hback, hforth, fun hn => ?_, fun q hq => ?_, rfl, ?_, fun k q hk hq => ?_, rfl⟩
    · rw [hn]; rfl
    · rw [hq]; rfl
    · rintro rfl; rfl
    · subst hk
      rw [entryBound, hq]
      rfl
  case others =>
    have hne := Body.cut?_eq_none.1 hw
    exact planForward_get_other a (planBackward_get_other a h hne) hne
  case head =>
    rw [List.head?_eq_getElem?] at hq
    obtain ⟨j, c, -, -, rfl⟩ := plan_get hq
    exact min_le_right _ _
  case last =>
    rw [List.getLast?_eq_getElem?] at hq
    obtain ⟨j, c, hc, -, rfl⟩ := plan_get hq
    have hend : (backward a (cutsOf run))[(forward a b (backward a (cutsOf run))).length - 1 + 1]? = none := by
      rw [List.getElem?_eq_none_iff, forward_length]
      omega
    rw [hend]
    exact Nat.zero_min _

end Sys2Proof.Machine

/-! # The Stroke Unit's frequency (R89 to R95, Table 6.1) -/

namespace Sys2Proof.Machine

/-! ## The rows of Table 6.1 -/

section
variable {s : State} {b : BladeEntry}

theorem frequency_of_noBlade (h : s.tables.blade = none) : frequency s = 0 := by
  simp only [frequency, h]

theorem frequency_of_dry (h : s.executor.dry = true) : frequency s = 0 := by
  unfold frequency
  split
  · rfl
  · exact if_pos h

/-- With the blade table present, and outside a dry-run block, the frequency is that of Table 6.1. -/
theorem frequency_of_wet (hb : s.tables.blade = some b) (h : s.executor.dry = false) :
    frequency s = tableFrequency b s.keptFreq s.executor := by
  simp only [frequency, hb, h, Bool.false_eq_true, if_false]

theorem Executor.dry_of_block {e : Executor} {blk : ExecBlock} (h : e.block = some blk) : e.dry = blk.dry := by
  simp only [Executor.dry, h]

theorem Executor.dry_eq_false {e : Executor} (h : ∀ blk, e.block = some blk → blk.dry = false) : e.dry = false := by
  unfold Executor.dry
  split
  · exact h _ ‹_›
  · rfl

theorem keepFrequency_of_stopping (h : s.executor.state = .stopping) : keepFrequency s = s :=
  if_pos h

theorem keepFrequency_of_ne (h : s.executor.state ≠ .stopping) : keepFrequency s = s.setKeptFreq (frequency s) :=
  if_neg h

theorem Executor.inMaterial_iff (e : Executor) : e.inMaterial = true ↔ ∃ pos blk, e.position = some pos ∧
    e.block = some blk ∧ blk.dry = false ∧ pos.z < blk.top := by
  unfold Executor.inMaterial
  split <;> simp_all

/-! ## The frequency along a CUT -/

/-- Speed over pitch target, rounded up: the least number of strokes whose pitches cover the distance. -/
theorem ceilDiv_le_iff {v pitch f : Nat} (hp : 0 < pitch) : (v + pitch - 1) / pitch ≤ f ↔ v ≤ f * pitch := by
  rw [Nat.div_le_iff_le_mul_add_pred hp, Nat.mul_comm]
  omega

theorem lt_ceilDiv_iff {v pitch f : Nat} (hp : 0 < pitch) : f < (v + pitch - 1) / pitch ↔ f * pitch < v := by
  rw [← Nat.not_le, ceilDiv_le_iff hp, Nat.not_le]

theorem cutFrequency_mem {v pitch : Nat} (h : b.fMin ≤ b.fMax) :
    b.fMin ≤ cutFrequency b v pitch ∧ cutFrequency b v pitch ≤ b.fMax :=
  ⟨le_max_left _ _, max_le h (min_le_left _ _)⟩

theorem cutFrequency_of_slow {v pitch : Nat} (hp : 0 < pitch) (hv : v * 1000 ≤ b.fMin * pitch) :
    cutFrequency b v pitch = b.fMin :=
  max_eq_left ((min_le_right _ _).trans ((ceilDiv_le_iff hp).2 hv))

theorem cutFrequency_of_fast {v pitch : Nat} (hp : 0 < pitch) (h : b.fMin ≤ b.fMax)
    (hv : b.fMax * pitch < v * 1000) : cutFrequency b v pitch = b.fMax := by
  rw [cutFrequency, min_eq_left ((lt_ceilDiv_iff hp).2 hv).le, max_eq_right h]

theorem cutFrequency_of_between {v pitch f : Nat} (hp : 0 < pitch) (hlo : b.fMin ≤ f) (hhi : f ≤ b.fMax)
    (hv : v * 1000 ≤ f * pitch) (hf : f * pitch < v * 1000 + pitch) : cutFrequency b v pitch = f := by
  have hceil : (v * 1000 + pitch - 1) / pitch = f := by
    refine le_antisymm ((ceilDiv_le_iff hp).2 hv) ?_
    rcases f with _ | f
    · exact Nat.zero_le _
    · refine (lt_ceilDiv_iff hp).2 ?_
      rw [Nat.succ_mul] at hf
      omega
  rw [cutFrequency, hceil, min_eq_right hhi, max_eq_right hlo]

/-- Below the upper clamp the stroke pitch stays within the target. -/
theorem cutFrequency_pitch {v pitch : Nat} (hp : 0 < pitch) (hv : v * 1000 ≤ b.fMax * pitch) :
    v * 1000 ≤ pitch * cutFrequency b v pitch := by
  have hceil := (ceilDiv_le_iff hp).2 hv
  have hcover : v * 1000 ≤ (v * 1000 + pitch - 1) / pitch * pitch := (ceilDiv_le_iff hp).1 le_rfl
  rw [cutFrequency, min_eq_right hceil, Nat.mul_comm pitch]
  exact hcover.trans (Nat.mul_le_mul_right _ (le_max_right _ _))

/-- Within the pitch-limited speed the stroke pitch stays within the pitch max. -/
theorem cutFrequency_pitchMax {v pitch pitchMax : Nat} (hp : 0 < pitch) (hmax : pitch ≤ pitchMax)
    (h : b.fMin ≤ b.fMax) (hv : v ≤ b.fMax * pitchMax / 1000) :
    v * 1000 ≤ pitchMax * cutFrequency b v pitch := by
  rcases le_or_gt (v * 1000) (b.fMax * pitch) with hs | hf
  · exact (cutFrequency_pitch hp hs).trans (Nat.mul_le_mul_right _ hmax)
  · rw [cutFrequency_of_fast hp h hf, Nat.mul_comm pitchMax]
    exact (Nat.le_div_iff_mul_le (by norm_num)).1 hv

/-- Above the lower clamp the frequency is the least that keeps the pitch target. -/
theorem cutFrequency_least {v pitch : Nat} (hp : 0 < pitch) (hmin : 0 < b.fMin) (hlo : b.fMin * pitch < v * 1000)
    (hv : v * 1000 ≤ b.fMax * pitch) : (cutFrequency b v pitch - 1) * pitch < v * 1000 := by
  have hlow := (lt_ceilDiv_iff hp).2 hlo
  rw [cutFrequency, min_eq_right ((ceilDiv_le_iff hp).2 hv), max_eq_right hlow.le]
  exact (lt_ceilDiv_iff hp).1 (by omega)

/-! ## The clamps -/

/-- Within the clamps of the blade table, or the oscillator stands. -/
def InClamps (b : BladeEntry) (f : Nat) : Prop := f = 0 ∨ (b.fMin ≤ f ∧ f ≤ b.fMax)

theorem InClamps.ite_zero {f : Nat} (h : InClamps b f) {c : Prop} [Decidable c] : InClamps b (if c then f else 0) := by
  split
  · exact h
  · exact .inl rfl

theorem tableFrequency_inClamps {kept : Nat} {e : Executor} (h1 : b.fMin ≤ b.fPlunge) (h2 : b.fPlunge ≤ b.fMax)
    (hk : InClamps b kept) : InClamps b (tableFrequency b kept e) := by
  have hplunge : InClamps b b.fPlunge := .inr ⟨h1, h2⟩
  have hmin : InClamps b b.fMin := .inr ⟨le_rfl, h1.trans h2⟩
  have hzero : InClamps b 0 := .inl rfl
  unfold tableFrequency
  split
  · split
    · exact .inr (cutFrequency_mem (h1.trans h2))
    · exact hmin
  exacts [hplunge, hplunge, hplunge, hplunge, hplunge.ite_zero, hmin, hmin, hmin.ite_zero, hmin.ite_zero,
    hmin.ite_zero, hmin.ite_zero, hmin.ite_zero, hzero, hzero, hzero, hzero, hk.ite_zero]

theorem frequency_inClamps (hb : s.tables.blade = some b) (h1 : b.fMin ≤ b.fPlunge) (h2 : b.fPlunge ≤ b.fMax)
    (hk : InClamps b s.keptFreq) : InClamps b (frequency s) := by
  by_cases hd : s.executor.dry = true
  · exact .inl (frequency_of_dry hd)
  · rw [frequency_of_wet hb (Bool.not_eq_true _ ▸ hd)]
    exact tableFrequency_inClamps h1 h2 hk

theorem keepFrequency_inClamps (hk : InClamps b s.keptFreq) (hf : InClamps b (frequency s)) :
    InClamps b (keepFrequency s).keptFreq := by
  by_cases h : s.executor.state = .stopping
  · rwa [keepFrequency_of_stopping h]
  · rwa [keepFrequency_of_ne h]

end

/-- Settles O48. -/
theorem frequencyFollowsSpeedAndPitch : Obligations.FrequencyFollowsSpeedAndPitch := by
  unfold Obligations.FrequencyFollowsSpeedAndPitch
  refine ⟨fun s => ⟨frequency_of_noBlade, fun blk hblk hd => frequency_of_dry ((Executor.dry_of_block hblk).trans hd),
      fun h => congrArg State.keptFreq (keepFrequency_of_ne h),
      fun h => congrArg State.keptFreq (keepFrequency_of_stopping h), s.executor.inMaterial_iff,
      fun b hb hblk => ?table⟩,
    fun s b hb h1 h2 hk => ⟨frequency_inClamps hb h1 h2 hk, keepFrequency_inClamps hk (frequency_inClamps hb h1 h2 hk)⟩,
    fun b v pitch hp h => ⟨cutFrequency_of_slow hp, cutFrequency_of_fast hp h, fun f => cutFrequency_of_between hp⟩,
    fun b v pitch pitchMax hp hmax hmin h hv => ⟨(cutFrequency_mem h).1, (cutFrequency_mem h).2,
      cutFrequency_pitchMax hp hmax h hv, cutFrequency_pitch hp, cutFrequency_least hp hmin⟩⟩
  case table =>
    rw [frequency_of_wet hb (Executor.dry_eq_false hblk)]
    refine ⟨fun cur k hst hc hk => ?_, fun hst => ?_, fun cur p hst hc hp => ?_, fun cur g f hst hc hl => ?_,
      fun hst => ?_, fun hst => ?_, fun hst => ?_, fun hst => ?_⟩
    · simp only [tableFrequency, hst, Executor.pitchTarget, Executor.speed, hc, hk]
    · rcases hst with h | h | h | h <;> simp only [tableFrequency, h]
    · simp only [tableFrequency, hst, Executor.inPivot, hc, hp, Body.isPivot, if_true]
    · simp only [tableFrequency, hst, Executor.inPivot, hc, hl, Body.isPivot, Bool.false_eq_true, if_false]
    · rcases hst with h | h <;> simp only [tableFrequency, h]
    · rcases hst with ⟨_, h⟩ | h | h | h | h <;> simp only [tableFrequency, h]
    · rcases hst with h | h | ⟨_, h⟩ | h <;> simp only [tableFrequency, h]
    · simp only [tableFrequency, hst]

end Sys2Proof.Machine

/-! # BLADE-JAM and the timeouts (R102, R116, R122), and the entry of HOLD (R126) -/

namespace Sys2Proof.Machine

/-! ## Faults that a frame leaves due -/

section
variable {s : State}

/-- The due jam has been taken, and not yet raised. -/
def jamTaken (s : State) : State := s.setGovernor { s.governor with jamDue := false }

theorem raiseBladeJam_of_due (h : s.governor.jamDue = true) : raiseBladeJam s = raiseFault .bladeJam (jamTaken s) :=
  if_pos h

theorem raiseBladeJam_of_not_due (h : s.governor.jamDue = false) : raiseBladeJam s = s :=
  if_neg (ne_true_of_eq_false h)

theorem takeLockTimeout_of_expired (hst : s.executor.state = .spinup) (hx : s.executor.lockTimer.expired = true) :
    takeLockTimeout s = raiseFault .lockTimeout (s.setExecutor { s.executor with lockTimer := .stopped }) :=
  if_pos ⟨hst, hx⟩

theorem takeTrimTimeout_of_expired (hst : s.executor.state = .trim) (hx : s.executor.trimTimer.expired = true) :
    takeTrimTimeout s = raiseFault .trimTimeout (s.setExecutor { s.executor with trimTimer := .stopped }) :=
  if_pos ⟨hst, hx⟩

theorem Timer.expired_running {elapsed timeout : Nat} (h : timeout ≤ elapsed) :
    (Timer.running elapsed timeout).expired = true :=
  decide_eq_true h

theorem Executor.moving_of_standing {e : Executor} (h : e.state = .spinup ∨ e.state = .trim) : e.moving = false := by
  unfold Executor.moving
  rcases h with h | h <;> rw [h]

end

/-- Settles O51: each is a fault raised where the Executor stands still. -/
theorem jamAndTimeoutsAreFaults : Obligations.JamAndTimeoutsAreFaults := by
  unfold Obligations.JamAndTimeoutsAreFaults
  refine ⟨fun s hrun hdue => ?jam, fun s elapsed timeout c code hrun hstate hx h => ?timeout⟩
  case jam =>
    have hexec : ∀ t : State, t.part.inReset = false → exec .bladeJam t = .next (raiseBladeJam t) :=
      fun t ht => congrArg Host.Outcome.next (unlessReset_of_running ht raiseBladeJam)
    refine ⟨_, (hexec s hrun).trans (congrArg Host.Outcome.next (raiseBladeJam_of_due hdue)), raiseFault_governor _ _,
      ?_, fun hw => ?_, fun hf => ?_, raiseFault_planner _ _, raiseFault_tables _ _, raiseFault_link _ _⟩
    · have hdone : (raiseFault .bladeJam (jamTaken s)).governor.jamDue = false := by
        rw [raiseFault_governor]
        rfl
      rw [hexec (raiseFault .bladeJam (jamTaken s)) ((raiseFault_inReset _ _).trans hrun),
        raiseBladeJam_of_not_due hdone]
    · rw [raiseFault_part_of_working (s := jamTaken s) hw]
      exact ⟨rfl, rfl⟩
    · rw [raiseFault_part_of_fault (s := jamTaken s) hf]
      exact ⟨rfl, rfl⟩
  case timeout =>
    obtain ⟨u, he, hu, hm⟩ : ∃ u, exec c s = .next (raiseFault code (s.setExecutor u)) ∧
        u = { s.executor with lockTimer := u.lockTimer, trimTimer := u.trimTimer } ∧ u.moving = false := by
      rcases h with ⟨rfl, rfl, hst, ht⟩ | ⟨rfl, rfl, hst, ht⟩
      · refine ⟨_, congrArg Host.Outcome.next ((unlessReset_of_running hrun _).trans
          (takeLockTimeout_of_expired hst ?_)), rfl, Executor.moving_of_standing (.inl hst)⟩
        rw [ht, Timer.expired_running hx]
      · refine ⟨_, congrArg Host.Outcome.next ((unlessReset_of_running hrun _).trans
          (takeTrimTimeout_of_expired hst ?_)), rfl, Executor.moving_of_standing (.inr hst)⟩
        rw [ht, Timer.expired_running hx]
    rw [raiseFault_of_working (s := s.setExecutor u) (.inr (.inl hstate))] at he
    refine ⟨_, he, rfl, ?_, Executor.faultStop_of_still (.inr hm), rfl, rfl, ?_, ?_, rfl, rfl, rfl, rfl, rfl⟩
    all_goals
      rw [hu]
      rfl

/-! ## HOLD at rest (R126) -/

section
variable {s : State}

theorem takeHoldEntry_of_rest (hh : s.executor.haltRequest = true) (ha : s.part.abortFlag = false)
    (hr : s.executor.atRest = true) : takeHoldEntry s = enterHold s :=
  if_pos ⟨hh, ha, hr⟩

/-- Along a path the Executor is at rest at the record's end, or at speed 0 with motion still to make. -/
theorem Executor.atRest_of_path {e : Executor} {cur : Current} (hst : e.state = .cut ∨ e.state = .travel)
    (hc : e.current = some cur)
    (h : cur.complete = true ∨ (cur.record.body.isPath = true ∧ cur.speed = 0 ∧ cur.dist < cur.len)) :
    e.atRest = true := by
  unfold Executor.atRest
  rcases hst with hst | hst <;> simp only [hst, hc] <;> simpa [and_assoc] using h

/-- In the other states of a record the Executor is at rest once the record is complete. -/
theorem Executor.atRest_of_complete {e : Executor} {cur : Current} (hc : e.current = some cur)
    (hcc : cur.complete = true) (hr : e.reentering = false)
    (hst : e.state = .plunge ∨ e.state = .swivel ∨ e.state = .rotate ∨ e.state = .trim ∨ e.state = .retract .leave ∨
      e.state = .retract .lift) : e.atRest = true := by
  unfold Executor.atRest Executor.free
  rcases hst with hst | hst | hst | hst | hst | hst <;> simp [hst, hc, hcc, hr]

theorem Executor.atRest_of_reentry {e : Executor} (hst : e.state = .plunge) (hr : e.reentering = true)
    (hd : e.stepDone = true) : e.atRest = true := by
  unfold Executor.atRest
  simp [hst, hr, hd]

theorem Executor.restedCurrent_of_some {e : Executor} {cur : Current} (hc : e.current = some cur) :
    e.restedCurrent = if cur.complete then none else some { cur with speed := 0 } := by
  simp only [Executor.restedCurrent, hc]

/-- What HOLD entered from elsewhere than STANDOFF leaves: the current record rested, the dwell timer started in
material, and all but the Executor as it was. -/
theorem enterHold_from_work {b : BladeEntry} (hp : s.executor.standoffPending = false)
    (hst : ∀ h, s.executor.state ≠ .standoff h) (hb : s.tables.blade = some b) (ht : 0 < b.dwellTimeout)
    (hd : s.executor.dwellTimer = .stopped) :
    ∃ d, enterHold s = s.setExecutor { s.executor.held false with dwellTimer := d } ∧
      (s.executor.inMaterial = true → d = .running 0 b.dwellTimeout) ∧
      (s.executor.inMaterial = false → d = .stopped) := by
  have hno : false = true ↔ ∃ h, s.executor.state = .standoff h := by simpa using hst
  rcases hm : s.executor.inMaterial with _ | _
  · exact ⟨.stopped, by rw [enterHold_of_kept hp (.inl hm) hno, ← hd]; rfl, by simp, by simp⟩
  · exact ⟨_, enterHold_of_material hp hm hd hno hb ht, fun _ => rfl, by simp⟩

end

/-- Settles O53. -/
theorem holdIsEntered : Obligations.HoldIsEntered := by
  unfold Obligations.HoldIsEntered
  have hexec : ∀ s : State, s.part.inReset = false → exec .holdEntry s = .next (takeHoldEntry s) :=
    fun s hrun => congrArg Host.Outcome.next (unlessReset_of_running hrun takeHoldEntry)
  refine ⟨fun s cur b hrun ha hh hc hwhere hp hb ht hd => ?record,
    fun s b hrun ha hh hst hre hsd hp hb ht hd => ?reentry⟩
  case record =>
    have hst : ∀ h, s.executor.state ≠ .standoff h := by
      intro h hs
      rw [hs] at hwhere
      simp at hwhere
    have hrest : s.executor.atRest = true := by
      rcases hwhere with ⟨hst, h⟩ | ⟨hcc, hre, hst⟩
      · exact Executor.atRest_of_path hst hc h
      · exact Executor.atRest_of_complete hc hcc hre hst
    obtain ⟨d, he, hin, hout⟩ := enterHold_from_work hp hst hb ht hd
    refine ⟨_, (hexec s hrun).trans (congrArg Host.Outcome.next ((takeHoldEntry_of_rest hh ha hrest).trans he)), rfl,
      rfl, ?_, rfl, rfl, hin, hout, ⟨rfl, rfl, rfl, rfl, rfl, rfl, rfl⟩, rfl, rfl⟩
    refine (Executor.restedCurrent_of_some hc).trans ?_
    rcases hwhere with ⟨-, hcc | ⟨-, hv, -⟩⟩ | ⟨hcc, -, -⟩
    · simp [hcc]
    · rw [← hv]
    · simp [hcc]
  case reentry =>
    have hne : ∀ h, s.executor.state ≠ .standoff h := by simp [hst]
    obtain ⟨d, he, hin, hout⟩ := enterHold_from_work hp hne hb ht hd
    exact ⟨_, (hexec s hrun).trans (congrArg Host.Outcome.next
        ((takeHoldEntry_of_rest hh ha (Executor.atRest_of_reentry hst hre hsd)).trans he)), rfl, rfl, rfl, rfl,
      fun hc => Executor.restedCurrent_of_none hc, fun cur hc => Executor.restedCurrent_of_some hc, rfl, rfl, hin, hout,
      ⟨rfl, rfl, rfl, rfl, rfl, rfl, rfl⟩, rfl, rfl⟩

end Sys2Proof.Machine

/-! # The frame: what is taken before it, what starts in it, and what its close leaves -/

namespace Sys2Proof.Machine

/-! ## The close of a frame, field by field -/

section
variable (s : State)

@[simp] theorem closeFrame_link : (closeFrame s).link = s.link := (closeFrame_keeps s).1
@[simp] theorem closeFrame_tables : (closeFrame s).tables = s.tables := (closeFrame_keeps s).2.1
@[simp] theorem closeFrame_planner : (closeFrame s).planner = s.planner := (closeFrame_keeps s).2.2.1
@[simp] theorem closeFrame_part : (closeFrame s).part = s.part := (closeFrame_keeps s).2.2.2.1
@[simp] theorem closeFrame_report : (closeFrame s).report = s.report := (closeFrame_keeps s).2.2.2.2.1
@[simp] theorem closeFrame_pending : (closeFrame s).pending = s.pending := (closeFrame_keeps s).2.2.2.2.2.1

theorem closeFrame_executor : (closeFrame s).executor = { s.executor with
    spinupFrame := (stampFrames s).executor.spinupFrame
    trimFrame := (stampFrames s).executor.trimFrame
    lockTimer := s.executor.lockTimer.tick s.period
    trimTimer := s.executor.trimTimer.tick s.period
    dwellTimer := s.executor.dwellTimer.tick s.period } :=
  (closeFrame_keeps s).2.2.2.2.2.2

@[simp] theorem closeFrame_state : (closeFrame s).executor.state = s.executor.state := by rw [closeFrame_executor]
@[simp] theorem closeFrame_position : (closeFrame s).executor.position = s.executor.position := by
  rw [closeFrame_executor]
@[simp] theorem closeFrame_current : (closeFrame s).executor.current = s.executor.current := by
  rw [closeFrame_executor]
@[simp] theorem closeFrame_currentTag : (closeFrame s).executor.currentTag = s.executor.currentTag := by
  rw [closeFrame_executor]
@[simp] theorem closeFrame_block : (closeFrame s).executor.block = s.executor.block := by rw [closeFrame_executor]
@[simp] theorem closeFrame_heldPlunge : (closeFrame s).executor.heldPlunge = s.executor.heldPlunge := by
  rw [closeFrame_executor]
@[simp] theorem closeFrame_reentry : (closeFrame s).executor.reentry = s.executor.reentry := by
  rw [closeFrame_executor]
@[simp] theorem closeFrame_queue : (closeFrame s).executor.queue = s.executor.queue := by rw [closeFrame_executor]
@[simp] theorem closeFrame_zMove : (closeFrame s).executor.zMove = s.executor.zMove := by rw [closeFrame_executor]
@[simp] theorem closeFrame_stepDone : (closeFrame s).executor.stepDone = s.executor.stepDone := by
  rw [closeFrame_executor]
@[simp] theorem closeFrame_reentering : (closeFrame s).executor.reentering = s.executor.reentering := by
  rw [closeFrame_executor]
@[simp] theorem closeFrame_standoffPending : (closeFrame s).executor.standoffPending = s.executor.standoffPending := by
  rw [closeFrame_executor]
@[simp] theorem closeFrame_beganInHold : (closeFrame s).executor.beganInHold = s.executor.beganInHold := by
  rw [closeFrame_executor]
@[simp] theorem closeFrame_lockTimer : (closeFrame s).executor.lockTimer = s.executor.lockTimer.tick s.period := by
  rw [closeFrame_executor]
@[simp] theorem closeFrame_trimTimer : (closeFrame s).executor.trimTimer = s.executor.trimTimer.tick s.period := by
  rw [closeFrame_executor]
@[simp] theorem closeFrame_dwellTimer : (closeFrame s).executor.dwellTimer = s.executor.dwellTimer.tick s.period := by
  rw [closeFrame_executor]
@[simp] theorem closeFrame_lines : (closeFrame s).port.lines = s.port.lines := (closeFrame_port_kept s).1
@[simp] theorem closeFrame_trimRequest : (closeFrame s).port.trimRequest = s.port.trimRequest :=
  (closeFrame_port_kept s).2

end

section
variable {s : State}

/-- The first frame that ends in SPINUP is the spin-up frame; one that is set stays (R116). -/
theorem closeFrame_spinupFrame_of_none (hst : s.executor.state = .spinup) (hn : s.executor.spinupFrame = none) :
    (closeFrame s).executor.spinupFrame = some s.port.frameNo := by
  rw [closeFrame_executor]
  exact if_pos ⟨hst, by rw [hn]; rfl⟩

theorem closeFrame_spinupFrame_of_some {f : FrameNo} (hf : s.executor.spinupFrame = some f) :
    (closeFrame s).executor.spinupFrame = some f := by
  rw [closeFrame_executor]
  exact (if_neg (by rw [hf]; simp)).trans hf

/-- The first frame that ends in TRIM with the trim request is the trim frame; one that is set stays (R122). -/
theorem closeFrame_trimFrame_of_none (hst : s.executor.state = .trim) (hr : s.port.trimRequest = true)
    (hn : s.executor.trimFrame = none) : (closeFrame s).executor.trimFrame = some s.port.frameNo := by
  rw [closeFrame_executor]
  exact if_pos ⟨hst, hr, by rw [hn]; rfl⟩

theorem closeFrame_trimFrame_of_some {f : FrameNo} (hf : s.executor.trimFrame = some f) :
    (closeFrame s).executor.trimFrame = some f := by
  rw [closeFrame_executor]
  exact (if_neg (by rw [hf]; simp)).trans hf

theorem counted_of_ne_cut {e : Executor} (h : e.state ≠ .cut) : counted e = false := by
  simp [counted, h]

theorem State.period_of_setup {r : Setup} (h : s.part.setup = some r) : s.period = r.period := by
  simp only [State.period, h]

/-! ## Nothing is taken before the frame -/

/-- Nothing that an earlier frame left due is taken: no retract of its own end, no HOLD entry, no end of an abort stop
or of a fault stop. -/
theorem settle_of_nothingDue (h : Quiet s)
    (hd : s.executor.stepDone = false ∨ ∀ p, s.executor.state = .retract p → p = .leave ∨ p = .lift)
    (hh : s.executor.haltRequest = false ∨ s.part.abortFlag = true ∨ s.executor.atRest = false)
    (ha : abortStopOver s = false) (hs : s.executor.state ≠ .stopping ∨ s.executor.speed ≠ 0) : settle s = s := by
  by_cases habort : s.part.abortFlag = true
  · have hnone : ∀ p : Purpose, p = .standoff ∨ p = .recover →
        ¬ (s.executor.state = .retract p ∧ s.executor.stepDone = true) := by
      rintro p hp ⟨h1, h2⟩
      rcases hd with hd | hd
      · rw [hd] at h2; cases h2
      · rcases hd p h1 with rfl | rfl <;> simp at hp
    have h1 : endStandoffRetract s = s := if_neg (hnone .standoff (.inl rfl))
    have h2 : takeHoldEntry s = s := if_neg (by simp [habort])
    have h3 : endAbortStop s = s := if_neg (ne_true_of_eq_false ha)
    have h4 : endRecover s = s := if_neg (hnone .recover (.inr rfl))
    have h5 : governorEvaluate s = s := by simp only [governorEvaluate, h.evalDue]
    have h6 : raiseBladeJam s = s := raiseBladeJam_of_not_due h.jamDue
    have h7 : takeLockTimeout s = s := if_neg (by simp [h.lock])
    have h8 : takeTrimTimeout s = s := if_neg (by simp [h.trim])
    have h9 : takeDwellTimeout s = s := if_neg (by simp [h.dwell])
    have h10 : raiseDriveLink s = s := if_neg (by simp [h.linkDue])
    have h11 : takeStopped s = s := if_neg (by rintro ⟨h1, h2⟩; exact hs.elim (· h1) (· h2))
    unfold settle
    rw [h1, h2, h3, h4, h5, h6, h7, h8, h9, h10, h11]
  · have hoff : s.part.abortFlag = false := Bool.not_eq_true _ ▸ habort
    refine settle_of_quiet h hd ?_ (.inl hoff) hs
    exact hh.imp_right fun hh => hh.resolve_left habort

/-! ## What starts in a frame -/

theorem startLoop_of_none {n : Nat} {first : Bool} (h : startOnce first s = none) : startLoop n first s = s := by
  cases n with
  | zero => rfl
  | succ n => simp only [startLoop, h]

theorem startLoop_of_some {n : Nat} {first : Bool} {u : State} (h : startOnce first s = some u) :
    startLoop (n + 1) first s = startLoop n false u := by
  simp only [startLoop, h]

theorem startFrame_of_position {pos : Position} (hp : s.executor.position = some pos) :
    startFrame s = startLoop (startFuel s) true s := by
  simp only [startFrame, hp]

theorem startFrame_of_noPosition (hp : s.executor.position = none) : startFrame s = s := by
  simp only [startFrame, hp]

/-- There is fuel for the starts that follow one record. -/
theorem startFuel_eq (s : State) : ∃ n, startFuel s = n + 3 :=
  ⟨startFuel s - 3, by unfold startFuel; omega⟩

/-- One thing starts. -/
theorem startFrame_of_one {pos : Position} {u : State} (hp : s.executor.position = some pos)
    (h1 : startOnce true s = some u) (h2 : startOnce false u = none) : startFrame s = u := by
  obtain ⟨n, hn⟩ := startFuel_eq s
  rw [startFrame_of_position hp, hn, startLoop_of_some h1, startLoop_of_none h2]

/-- A first thing takes no time, and a second one starts. -/
theorem startFrame_of_two {pos : Position} {u v : State} (hp : s.executor.position = some pos)
    (h1 : startOnce true s = some u) (h2 : startOnce false u = some v) (h3 : startOnce false v = none) :
    startFrame s = v := by
  obtain ⟨n, hn⟩ := startFuel_eq s
  rw [startFrame_of_position hp, hn, startLoop_of_some h1, startLoop_of_some h2, startLoop_of_none h3]

/-- The states in which an Executor works on records. -/
theorem startOnce_of_begins (hb : s.executor.state.begins = true) (first : Bool) : startOnce first s =
    if s.part.abortFlag then startAbort s
    else if s.executor.reentering then
      (if s.executor.stepDone && !s.executor.haltRequest then some (endReentry s) else none)
    else if s.executor.stepDone then some (nextStep s)
    else if s.executor.free then startNext first s
    else none := by
  unfold startOnce
  split
  all_goals
    rename_i hst
    rw [hst] at hb
  all_goals cases hb

/-- In HOLD, in STANDOFF reached from HOLD, in a retract that follows no record and in a stop nothing starts. -/
theorem startOnce_of_still (h : (∃ b, s.executor.state = .hold b) ∨ s.executor.state = .standoff true ∨
    s.executor.state = .stopping ∨ s.executor.state = .stopped ∨ s.executor.state = .retract .standoff ∨
    s.executor.state = .retract .abort ∨ s.executor.state = .retract .recover) (first : Bool) :
    startOnce first s = none := by
  unfold startOnce
  rcases h with ⟨b, h⟩ | h | h | h | h | h | h <;> rw [h]

/-- A record, or a re-entry, in the middle of a step takes the frame: nothing starts, whatever was asked for. -/
theorem startOnce_of_midStep (hb : s.executor.state.begins = true) (hsd : s.executor.stepDone = false)
    (hf : s.executor.free = false ∨ s.executor.reentering = true)
    (ha : s.part.abortFlag = false ∨ s.executor.atRest = false) (first : Bool) : startOnce first s = none := by
  rw [startOnce_of_begins hb]
  split
  · next habort =>
    have hrest : s.executor.atRest = false := ha.resolve_left (by rw [habort]; simp)
    simp [startAbort, hrest, hsd]
  · split
    · simp [hsd]
    · next hre =>
      have hfree : s.executor.free = false := hf.resolve_right hre
      simp [hsd, hfree]

/-! ## A frame that begins nothing and moves nothing -/

/-- With nothing due, nothing started and nothing moved, the frame is its close. -/
theorem execFrame_of_idleMotion {b : BladeEntry} {r : Setup} (h : Framing b r s) (hset : settle s = s)
    (hst : startFrame s = s) : exec .frame s = .next (closeFrame (commitBlade (judgeParked (motion s)))) := by
  rw [execFrame_of_framing h, runFrame, workFrame, hset, hst]

theorem FrameOnly.refl (s : State) : FrameOnly s s :=
  ⟨rfl, rfl, rfl, rfl, rfl, rfl, rfl, rfl, rfl, rfl, rfl⟩

/-- What a change of the Executor alone leaves alone, when it keeps queue, tag, block and held plunge speed. -/
theorem FrameOnly.of_setExecutor {e : Executor} (hq : e.queue = s.executor.queue)
    (ht : e.currentTag = s.executor.currentTag) (hb : e.block = s.executor.block)
    (hp : e.heldPlunge = s.executor.heldPlunge) : FrameOnly s (s.setExecutor e) :=
  ⟨rfl, rfl, rfl, rfl, rfl, hq, ht, hb, hp, rfl, rfl⟩

end

end Sys2Proof.Machine

/-! # Frames that begin nothing and move nothing (R108) -/

namespace Sys2Proof.Machine

section
variable {s : State}

/-- States in which nothing moves of itself. -/
theorem motion_of_still (h : s.executor.state = .idle ∨ s.executor.state = .spinup ∨ s.executor.state = .trim ∨
    s.executor.state = .dwell ∨ (∃ b, s.executor.state = .standoff b) ∨ (∃ b, s.executor.state = .hold b) ∨
    s.executor.state = .stopped) : motion s = s := by
  unfold motion
  rcases h with h | h | h | h | ⟨_, h⟩ | ⟨_, h⟩ | h <;> rw [h]

/-- Nothing starts where the Executor waits with nothing to begin. -/
theorem startNext_of_waiting (hh : s.executor.haltRequest = false) (hp : s.executor.standoffPending = false)
    (hq : s.executor.queue = [])
    (hst : ((s.executor.state = .dwell ∨ s.executor.state = .idle) ∧ s.executor.current = none) ∨
      ∃ b, s.executor.state = .standoff b) (first : Bool) : startNext first s = none := by
  unfold startNext
  rcases hst with ⟨hst | hst, hc⟩ | ⟨b, hst⟩ <;> simp [hh, hp, hq, hst]
  all_goals simp [hc]

theorem startOnce_of_standoff (hst : s.executor.state = .standoff false) (ha : s.part.abortFlag = false)
    (hf : s.executor.free = true) (first : Bool) : startOnce first s = startNext first s := by
  unfold startOnce
  simp [hst, ha, hf]

/-! ## The end of a step -/

theorem Executor.finishStep_cases (e : Executor) :
    e.finishStep = e ∨ e.finishStep = e.completeCurrent ∨ e.finishStep = e.completeStep := by
  unfold Executor.finishStep
  split
  · exact .inr (.inr rfl)
  split
  · exact .inr (.inl rfl)
  · exact .inr (.inl rfl)
  · exact .inr (.inl rfl)
  · split
    · exact .inr (.inl rfl)
    · exact .inr (.inr rfl)
  · split
    · split
      · split
        · exact .inr (.inr rfl)
        · exact .inr (.inl rfl)
      · exact .inr (.inl rfl)
    · exact .inr (.inl rfl)
  · exact .inr (.inr rfl)
  · exact .inr (.inr rfl)
  · exact .inr (.inr rfl)
  · exact .inr (.inr rfl)
  all_goals exact .inl rfl

/-- A record that is complete and at rest is not changed by its completion. -/
theorem Executor.completeCurrent_of_complete {e : Executor}
    (hc : ∀ cur, e.current = some cur → cur.complete = true ∧ cur.speed = 0) :
    e.completeCurrent = { e with zMove := none, stepDone := false } := by
  unfold Executor.completeCurrent
  rcases hcur : e.current with _ | cur
  · simp
  · obtain ⟨h1, h2⟩ := hc cur hcur
    simp [← h1, ← h2]

/-- Two Executors that differ at most in the step in progress. -/
def Executor.SameWork (e f : Executor) : Prop := f = { e with zMove := f.zMove, stepDone := f.stepDone }

theorem Executor.SameWork.refl (e : Executor) : e.SameWork e := rfl

theorem Executor.finishStep_sameWork {e : Executor}
    (hc : ∀ cur, e.current = some cur → cur.complete = true ∧ cur.speed = 0) : e.SameWork e.finishStep := by
  rcases e.finishStep_cases with h | h | h <;> rw [h]
  · exact Executor.SameWork.refl e
  · rw [Executor.completeCurrent_of_complete hc]
    rfl
  · rfl

/-- Without a position nothing moves: at most a step in progress is found complete. -/
theorem motion_of_noPosition (hp : s.executor.position = none) (hst : s.executor.state ≠ .stopping)
    (hc : ∀ cur, s.executor.current = some cur → cur.complete = true ∧ cur.speed = 0) :
    ∃ e, motion s = s.setExecutor e ∧ s.executor.SameWork e := by
  have hsame : ∃ e, s = s.setExecutor e ∧ s.executor.SameWork e := ⟨_, rfl, Executor.SameWork.refl _⟩
  have hpath : pathState s = s := by
    unfold pathState
    split
    · next cur hcur => exact if_pos (hc cur hcur).1
    · rfl
  have htravel : travelState s = s := by
    unfold travelState
    split
    · next cur hcur => exact if_pos (hc cur hcur).1
    · rfl
  have hz : zFrame s = s := by simp only [zFrame, hp]
  have hturn : ∀ rate, ∃ e, turnStep rate s = s.setExecutor e ∧ s.executor.SameWork e := by
    intro rate
    have he : s.executor.turnFrame rate s.period = s.executor := by simp only [Executor.turnFrame, hp]
    unfold turnStep
    rw [he]
    dsimp only
    split
    · exact ⟨_, rfl, Executor.finishStep_sameWork hc⟩
    · exact ⟨_, rfl, Executor.SameWork.refl _⟩
  unfold motion
  split
  · rw [htravel]; exact hsame
  · rw [hpath]; exact hsame
  · exact absurd ‹_› hst
  · rw [hz]; exact hsame
  · rw [hz]; exact hsame
  · exact hturn _
  · exact hturn _
  all_goals exact hsame

/-- The frame of an Executor that waits: no record is begun and nothing moves. -/
theorem execFrame_of_waiting {b : BladeEntry} {r : Setup} {e : Executor} (h : Framing b r s) (hset : settle s = s)
    (hst : startFrame s = s) (hm : motion s = s.setExecutor e) (he : s.executor.SameWork e)
    (hwork : s.executor.state ≠ .idle ∨ s.executor.queue ≠ []) :
    exec .frame s = .next (closeFrame (s.setExecutor e)) := by
  have hidle : e.state = s.executor.state ∧ e.queue = s.executor.queue := by rw [he]; exact ⟨rfl, rfl⟩
  have hheld : e.queue ≠ [] ∨ e.state ≠ .idle := by rw [hidle.1, hidle.2]; exact hwork.symm
  rw [execFrame_of_idleMotion h hset hst, hm,
    judgeParked_of_held (s := s.setExecutor e) (.inr (hheld.imp_right fun h => .inr (.inl h))),
    commitBlade_of_held (s := s.setExecutor e) (.inr hheld)]

end

/-- What a frame in which nothing moves keeps: all of the Executor but the timers and the stamped frames. -/
theorem closeFrame_of_sameWork {r : Setup} {s u : State} (hr : s.part.setup = some r) (hp : u.part.setup = s.part.setup)
    (he : s.executor.SameWork u.executor) (hg : u.governor = s.governor)
    (hc : s.executor.state ≠ .cut ∨ s.executor.speed = 0) :
    (closeFrame u).executor.position = s.executor.position ∧ (closeFrame u).executor.state = s.executor.state ∧
    (closeFrame u).executor.current = s.executor.current ∧ (closeFrame u).executor.queue = s.executor.queue ∧
    (closeFrame u).executor.currentTag = s.executor.currentTag ∧ (closeFrame u).executor.reentry = s.executor.reentry ∧
    (closeFrame u).executor.lockTimer = s.executor.lockTimer.tick r.period ∧
    (closeFrame u).executor.trimTimer = s.executor.trimTimer.tick r.period ∧
    (closeFrame u).executor.dwellTimer = s.executor.dwellTimer.tick r.period ∧
    (∀ f, s.executor.spinupFrame = some f → (closeFrame u).executor.spinupFrame = some f) ∧
    (∀ f, s.executor.trimFrame = some f → (closeFrame u).executor.trimFrame = some f) ∧
    (closeFrame u).governor = s.governor := by
  have hperiod : u.period = r.period := State.period_of_setup (hp.trans hr)
  have hcount : counted u.executor = false := by
    have hsame : counted u.executor = counted s.executor := by rw [he]; rfl
    rw [hsame]
    rcases hc with h | h
    · exact counted_of_ne_cut h
    · simp [counted, h]
  simp only [closeFrame_position, closeFrame_state, closeFrame_current, closeFrame_queue, closeFrame_currentTag,
    closeFrame_reentry, closeFrame_lockTimer, closeFrame_trimTimer, closeFrame_dwellTimer, hperiod]
  refine ⟨by rw [he], by rw [he], by rw [he], by rw [he], by rw [he], by rw [he], by rw [he], by rw [he], by rw [he],
    fun f hf => closeFrame_spinupFrame_of_some ?_, fun f hf => closeFrame_trimFrame_of_some ?_,
    (closeFrame_governor hcount).trans hg⟩
  · rw [he]; exact hf
  · rw [he]; exact hf

section
variable {s : State}

/-- The frame of a still Executor with nothing to start leaves it as it is. -/
theorem execFrame_of_still {b : BladeEntry} {r : Setup} (h : Framing b r s) (hcalm : Calm s)
    (hstart : startOnce true s = none)
    (hst : s.executor.state = .spinup ∨ s.executor.state = .trim ∨ s.executor.state = .dwell ∨
      (∃ b, s.executor.state = .standoff b) ∨ (∃ b, s.executor.state = .hold b) ∨ s.executor.state = .stopped) :
    exec .frame s = .next (closeFrame s) := by
  have hstop : s.executor.state ≠ .stopping ∧ s.executor.state ≠ .idle := by
    rcases hst with hst | hst | hst | ⟨_, hst⟩ | ⟨_, hst⟩ | hst <;> rw [hst] <;> simp
  exact execFrame_of_waiting h (settle_of_calm hcalm hstop.1) (startFrame_of_none hstart)
    (motion_of_still (.inr hst)) (Executor.SameWork.refl _) (.inl hstop.2)

theorem Executor.free_of_none {e : Executor} (h : e.current = none) : e.free = true := by
  simp only [Executor.free, h]

theorem Executor.free_of_busy {e : Executor} {cur : Current} (h : e.current = some cur) (hc : cur.complete = false) :
    e.free = false := by
  simp only [Executor.free, h, hc]

/-- In a calm part a free Executor looks for the next record. -/
theorem startOnce_of_free (hcalm : Calm s) (hb : s.executor.state.begins = true) (hr : s.executor.reentering = false)
    (hf : s.executor.free = true) (first : Bool) : startOnce first s = startNext first s := by
  rw [startOnce_of_begins hb]
  simp [hcalm.noAbort, hr, hcalm.stepDone, hf]

end

theorem judgeParked_of_idle {s : State}
    (h : s.part.state ≠ .running ∨ s.planner.stream ≠ .noBlock ∨ s.planner.window ≠ []) : judgeParked s = s :=
  if_neg fun ⟨hr, _, hst, hw, _⟩ => by
    rcases h with h | h | h
    · exact h hr
    · exact h hst
    · exact h (List.isEmpty_iff.1 hw)

/-- Settles O46: the frame is the motion of the state as it stands, and its close. -/
theorem timersAddT : Obligations.TimersAddT := by
  unfold Obligations.TimersAddT
  intro later held
  refine ⟨fun s b r h hcalm hp hwhere => ?waits, fun s b r h hcalm hp hst hc hq hre => ?idle⟩
  case waits =>
    have hstill : startOnce true s = none →
        (s.executor.state = .spinup ∨ s.executor.state = .trim ∨ s.executor.state = .dwell ∨
          (∃ b, s.executor.state = .standoff b) ∨ (∃ b, s.executor.state = .hold b) ∨ s.executor.state = .stopped) →
        ∃ t, exec .frame s = .next t ∧ held r s t ∧ FrameOnly s t := by
      intro hstart hst
      have hcut : s.executor.state ≠ .cut := by
        rcases hst with hst | hst | hst | ⟨_, hst⟩ | ⟨_, hst⟩ | hst <;> rw [hst] <;> simp
      exact ⟨_, execFrame_of_still h hcalm hstart hst,
        closeFrame_of_sameWork h.setup rfl (Executor.SameWork.refl _) rfl (.inl hcut),
        closeFrame_frameOnly (FrameOnly.refl s)⟩
    rcases hwhere with ⟨hst, hre, cur, hc, hcc⟩ | ⟨hst, hre⟩ | hst | hst | hst | ⟨hst, hc, hq, hre⟩ | ⟨hst, hf, hq⟩ |
      ⟨hpos, hq, hst, hc⟩
    · have hb : s.executor.state.begins = true := by rcases hst with hst | hst <;> rw [hst] <;> rfl
      exact hstill (startOnce_of_midStep hb hcalm.stepDone (.inl (Executor.free_of_busy hc hcc)) (.inl hcalm.noAbort) _)
        (hst.imp_right .inl)
    · exact hstill (startOnce_of_midStep (by rw [hst]; rfl) hcalm.stepDone (.inr hre) (.inl hcalm.noAbort) _) (.inl hst)
    · exact hstill (startOnce_of_still (.inl hst) _) (.inr (.inr (.inr (.inr (.inl hst)))))
    · exact hstill (startOnce_of_still (.inr (.inl hst)) _) (.inr (.inr (.inr (.inl ⟨_, hst⟩))))
    · exact hstill (startOnce_of_still (.inr (.inr (.inr (.inl hst)))) _) (.inr (.inr (.inr (.inr (.inr hst)))))
    · refine hstill ?_ (.inr (.inr (.inl hst)))
      rw [startOnce_of_free hcalm (by rw [hst]; rfl) hre (Executor.free_of_none hc)]
      exact startNext_of_waiting hcalm.noHalt hp hq (.inl ⟨.inl hst, hc⟩) _
    · refine hstill ?_ (.inr (.inr (.inr (.inl ⟨_, hst⟩))))
      rw [startOnce_of_standoff hst hcalm.noAbort hf]
      exact startNext_of_waiting hcalm.noHalt hp hq (.inr ⟨_, hst⟩) _
    · obtain ⟨e, hm, he⟩ := motion_of_noPosition hpos hst hc
      have hspeed : s.executor.speed = 0 := by
        unfold Executor.speed
        split
        · exact (hc _ ‹_›).2
        · rfl
      refine ⟨_, execFrame_of_waiting h (settle_of_calm hcalm hst) (startFrame_of_noPosition hpos) hm he (.inr hq),
        closeFrame_of_sameWork h.setup rfl he rfl (.inr hspeed),
        closeFrame_frameOnly (FrameOnly.of_setExecutor ?_ ?_ ?_ ?_)⟩
      all_goals
        rw [he]
  case idle =>
    have hstart : startOnce true s = none := by
      rw [startOnce_of_free hcalm (by rw [hst]; rfl) hre (Executor.free_of_none hc)]
      exact startNext_of_waiting hcalm.noHalt hp hq (.inl ⟨.inr hst, hc⟩) _
    have hexec := execFrame_of_idleMotion h (settle_of_calm hcalm (by simp [hst])) (startFrame_of_none hstart)
    rw [motion_of_still (.inl hst)] at hexec
    have hsetup : (commitBlade (judgeParked s)).part.setup = s.part.setup := by
      rw [commitBlade_part]
      unfold judgeParked
      split <;> rfl
    have hsame : s.executor.SameWork (commitBlade (judgeParked s)).executor := by
      rw [commitBlade_executor, judgeParked_executor]
      exact Executor.SameWork.refl _
    refine ⟨_, hexec, closeFrame_of_sameWork h.setup hsetup hsame ?_ (.inl (by simp [hst])), ?_⟩
    · rw [commitBlade_governor, judgeParked_governor]
    simp only [closeFrame_link, closeFrame_planner, closeFrame_lines, closeFrame_pending, closeFrame_part,
      closeFrame_tables, closeFrame_report, commitBlade_link, commitBlade_planner, commitBlade_port,
      commitBlade_pending, commitBlade_part, judgeParked_link, judgeParked_planner, judgeParked_port,
      judgeParked_pending]
    refine ⟨trivial, trivial, trivial, trivial, fun hr hstr hw => ?_, fun hno => ?_, fun hno => ?_,
      fun w hwait hw => ?_⟩
    · rw [judgeParked_of_rest hr hcalm.noAbort hstr hw hq hst hc]
      rfl
    · rw [judgeParked_of_idle hno]
    · rcases hno with hno | hno
      · rw [commitBlade_of_none (by rw [judgeParked_tables]; exact hno), judgeParked_tables, judgeParked_report]
        exact ⟨rfl, rfl⟩
      · rw [commitBlade_of_held (by rw [judgeParked_planner]; exact .inl hno), judgeParked_tables, judgeParked_report]
        exact ⟨rfl, rfl⟩
    · rw [commitBlade_of_waiting (w := w) (by rw [judgeParked_tables]; exact hwait)
        (by rw [judgeParked_planner]; exact hw) (by rw [judgeParked_executor]; exact hq)
        (by rw [judgeParked_executor]; exact hst), postResponse_tables, judgeParked_tables]
      refine ⟨rfl, fun hroom => ?_⟩
      rw [postResponse_of_room (by rw [State.setTables_report, judgeParked_report]; exact hroom),
        State.setReport_report, State.setTables_report, judgeParked_report]

end Sys2Proof.Machine

/-! # Vertical moves and turns (R113), and the steps they complete (R114, R117 to R121) -/

namespace Sys2Proof.Machine

/-! ## One step -/

theorem zStep_eq (z target step : Nat) :
    zStep z target step = if z ≤ target then min target (z + step) else max target (z - step) := by
  unfold zStep
  split <;> split <;> omega

namespace Executor

/-! ## The end of a step -/

/-- The completion of a step is seen in the current record and in the step in progress alone. -/
theorem finishStep_eq (e : Executor) : e.finishStep = { e with
    current := e.finishStep.current, zMove := e.finishStep.zMove, stepDone := e.finishStep.stepDone } := by
  rcases e.finishStep_cases with h | h | h <;> rw [h] <;> rfl

@[simp] theorem finishStep_state (e : Executor) : e.finishStep.state = e.state := by rw [finishStep_eq]
@[simp] theorem finishStep_position (e : Executor) : e.finishStep.position = e.position := by rw [finishStep_eq]
@[simp] theorem finishStep_currentTag (e : Executor) : e.finishStep.currentTag = e.currentTag := by rw [finishStep_eq]
@[simp] theorem finishStep_block (e : Executor) : e.finishStep.block = e.block := by rw [finishStep_eq]
@[simp] theorem finishStep_heldPlunge (e : Executor) : e.finishStep.heldPlunge = e.heldPlunge := by rw [finishStep_eq]
@[simp] theorem finishStep_reentry (e : Executor) : e.finishStep.reentry = e.reentry := by rw [finishStep_eq]
@[simp] theorem finishStep_dwellTimer (e : Executor) : e.finishStep.dwellTimer = e.dwellTimer := by rw [finishStep_eq]
@[simp] theorem finishStep_reentering (e : Executor) : e.finishStep.reentering = e.reentering := by rw [finishStep_eq]
@[simp] theorem finishStep_standoffPending (e : Executor) : e.finishStep.standoffPending = e.standoffPending := by
  rw [finishStep_eq]
@[simp] theorem finishStep_beganInHold (e : Executor) : e.finishStep.beganInHold = e.beganInHold := by
  rw [finishStep_eq]

/-- The step in progress is the last of its record (R114, R117 to R121). -/
def OnLastStep (e : Executor) : Prop :=
  e.reentering = false ∧ (e.state = .travel ∨ e.state = .plunge ∨ e.state = .swivel ∨
    (e.state = .rotate ∧ e.dry = true) ∨
    (e.state = .retract .leave ∧
      ∃ cur g f, e.current = some cur ∧ cur.record.body = .leave g f ∧ (f && !e.dry) = false))

/-- The step in progress is followed by another, or belongs to a wait (R119 to R121, R125). -/
def OnEarlierStep (e : Executor) : Prop :=
  e.reentering = true ∨ e.state = .retract .lift ∨ e.state = .retract .standoff ∨ e.state = .retract .abort ∨
    e.state = .retract .recover ∨ (e.state = .rotate ∧ e.dry = false) ∨
    (e.state = .retract .leave ∧ e.dry = false ∧
      ∃ cur g, e.current = some cur ∧ cur.record.body = .leave g true)

theorem finishStep_of_last {e : Executor} (h : e.OnLastStep) : e.finishStep = e.completeCurrent := by
  obtain ⟨hre, h⟩ := h
  unfold finishStep
  rw [if_neg (ne_true_of_eq_false hre)]
  rcases h with hst | hst | hst | ⟨hst, hd⟩ | ⟨hst, cur, g, f, hc, hb, hf⟩
  · rw [hst]
  · rw [hst]
  · rw [hst]
  · simp only [hst, hd, if_true]
  · simp only [hst, hc, hb, hf, Bool.false_eq_true, if_false]

theorem finishStep_of_earlier {e : Executor} (h : e.OnEarlierStep) : e.finishStep = e.completeStep := by
  unfold finishStep
  split
  · rfl
  · next hre =>
    rcases h with h | hst | hst | hst | hst | ⟨hst, hd⟩ | ⟨hst, hd, cur, g, hc, hb⟩
    · exact absurd h hre
    · rw [hst]
    · rw [hst]
    · rw [hst]
    · rw [hst]
    · simp only [hst, hd, Bool.false_eq_true, if_false]
    · simp only [hst, hc, hb, hd, Bool.not_false, Bool.and_self, if_true]

theorem completeCurrent_of_some {e : Executor} {cur : Current} (h : e.current = some cur) :
    e.completeCurrent.current = some { cur with complete := true, speed := 0 } := by
  simp only [completeCurrent, h]

/-! ## One frame of a vertical move, and of a turn -/

/-- The Executor after one frame of T ms of the vertical move `m` from `pos`. -/
def zMoved (e : Executor) (pos : Position) (m : ZMove) (t : Nat) : Executor :=
  let e' := { e with position := some { pos with z := zStep pos.z m.target (m.speed * t) } }
  if zStep pos.z m.target (m.speed * t) = m.target then e'.finishStep else e'

theorem zMoved_of_end {e : Executor} {pos : Position} {m : ZMove} {t : Nat}
    (h : zStep pos.z m.target (m.speed * t) = m.target) :
    e.zMoved pos m t = finishStep { e with position := some { pos with z := m.target } } := by
  simp only [zMoved, h, if_true]

theorem zMoved_of_short {e : Executor} {pos : Position} {m : ZMove} {t : Nat}
    (h : zStep pos.z m.target (m.speed * t) ≠ m.target) :
    e.zMoved pos m t = { e with position := some { pos with z := zStep pos.z m.target (m.speed * t) } } :=
  if_neg h

/-- A vertical move is seen in the position, in the current record and in the step in progress alone. -/
theorem zMoved_eq (e : Executor) (pos : Position) (m : ZMove) (t : Nat) : e.zMoved pos m t = { e with
    position := some { pos with z := zStep pos.z m.target (m.speed * t) }
    current := (e.zMoved pos m t).current
    zMove := (e.zMoved pos m t).zMove
    stepDone := (e.zMoved pos m t).stepDone } := by
  by_cases h : zStep pos.z m.target (m.speed * t) = m.target
  · rw [zMoved_of_end h, finishStep_eq, h]
  · rw [zMoved_of_short h]

end Executor

section
variable {s : State}

theorem zFrame_of_moving {pos : Position} {m : ZMove} (hp : s.executor.position = some pos)
    (hz : s.executor.zMove = some m) : zFrame s = s.setExecutor (s.executor.zMoved pos m s.period) := by
  simp only [zFrame, hp, hz, Executor.zMoved]

/-- A frame in which what starts leads to `u`, and `u` then moves to the Executor `e`. -/
theorem execFrame_of_moved {b : BladeEntry} {r : Setup} {u : State} {e : Executor} (h : Framing b r s)
    (hset : settle s = s) (hst : startFrame s = u) (hm : motion u = u.setExecutor e) (hi : e.state ≠ .idle) :
    exec .frame s = .next (closeFrame (u.setExecutor e)) := by
  rw [execFrame_of_started h hset hst (by rw [hm]; exact hi), hm]

/-- What such a frame leaves alone, where `u` and `e` keep what `FrameOnly` names. -/
theorem frameOnly_of_moved {u : State} {e : Executor} (h : FrameOnly s u) (hq : e.queue = u.executor.queue)
    (ht : e.currentTag = u.executor.currentTag) (hb : e.block = u.executor.block)
    (hp : e.heldPlunge = u.executor.heldPlunge) : FrameOnly s (closeFrame (u.setExecutor e)) :=
  closeFrame_frameOnly { h with
    queue := hq.trans h.queue, tag := ht.trans h.tag, block := hb.trans h.block, heldPlunge := hp.trans h.heldPlunge }

/-- Such a frame, where it does not end along a CUT, is not counted. -/
theorem closeFrame_governor_of_moved {u : State} {e : Executor} (he : e.state ≠ .cut) :
    (closeFrame (u.setExecutor e)).governor = u.governor :=
  closeFrame_governor (s := u.setExecutor e) (counted_of_ne_cut he)

/-- A vertical move leaves alone what a frame does that begins no record. -/
theorem frameOnly_of_zMoved {u : State} {pos : Position} {m : ZMove} {t : Nat} (h : FrameOnly s u) :
    FrameOnly s (closeFrame (u.setExecutor (u.executor.zMoved pos m t))) := by
  refine frameOnly_of_moved h ?_ ?_ ?_ ?_ <;> rw [Executor.zMoved_eq]

end

/-! ## Turns -/

namespace Executor

/-- The Executor after one frame of a turn of the record `cur`, at a step of `step` centidegrees. -/
def turned (e : Executor) (pos : Position) (cur : Current) (step : Nat) : Executor :=
  let e' := { e with
    position := some { pos with heading := turnBy pos.heading (turnPart cur.turn step) }
    current := some { cur with turn := cur.turn - turnPart cur.turn step } }
  if cur.turn - turnPart cur.turn step = 0 then e'.finishStep else e'

/-- A turn is seen in the position, in the current record and in the step in progress alone. -/
theorem turned_eq (e : Executor) (pos : Position) (cur : Current) (step : Nat) : e.turned pos cur step = { e with
    position := some { pos with heading := turnBy pos.heading (turnPart cur.turn step) }
    current := (e.turned pos cur step).current
    zMove := (e.turned pos cur step).zMove
    stepDone := (e.turned pos cur step).stepDone } := by
  unfold turned
  dsimp only
  split
  · rw [finishStep_eq]
  · rfl

theorem turned_of_short {e : Executor} {pos : Position} {cur : Current} {step : Nat}
    (h : cur.turn ≠ turnPart cur.turn step) : e.turned pos cur step = { e with
      position := some { pos with heading := turnBy pos.heading (turnPart cur.turn step) }
      current := some { cur with turn := cur.turn - turnPart cur.turn step } } :=
  if_neg (by omega)

theorem turned_of_end {e : Executor} {pos : Position} {cur : Current} {step : Nat}
    (h : cur.turn = turnPart cur.turn step) : e.turned pos cur step = finishStep { e with
      position := some { pos with heading := turnBy pos.heading (turnPart cur.turn step) }
      current := some { cur with turn := cur.turn - turnPart cur.turn step } } :=
  if_pos (by omega)

end Executor

section
variable {s : State}

theorem turnStep_of_turning {pos : Position} {cur : Current} {rate : Nat} (hp : s.executor.position = some pos)
    (hc : s.executor.current = some cur) :
    turnStep rate s = s.setExecutor (s.executor.turned pos cur (perFrame rate s.period)) := by
  simp only [turnStep, Executor.turnFrame, Executor.turnLeft, hp, hc, Executor.turned]

theorem frameOnly_of_turned {u : State} {pos : Position} {cur : Current} {step : Nat} (h : FrameOnly s u) :
    FrameOnly s (closeFrame (u.setExecutor (u.executor.turned pos cur step))) := by
  refine frameOnly_of_moved h ?_ ?_ ?_ ?_ <;> rw [Executor.turned_eq]

/-- A step under way takes the frame: nothing is taken before it and nothing starts, whatever was asked for. -/
theorem started_of_midStep (hq : Quiet s) (hsd : s.executor.stepDone = false) (hr : s.executor.atRest = false)
    (hns : s.executor.state ≠ .stopping) (h1 : startOnce true s = none) : settle s = s ∧ startFrame s = s :=
  ⟨settle_of_quiet hq (.inl hsd) (.inr hr) (.inr hr) (.inl hns), startFrame_of_none h1⟩

end

/-- Settles O42: the frame is one step of the move, and the end of the step where it comes to its target. -/
theorem verticalMovesAndTurnsTakeOneStep : Obligations.VerticalMovesAndTurnsTakeOneStep := by
  unfold Obligations.VerticalMovesAndTurnsTakeOneStep
  refine ⟨fun s b r pos m h hq hsd hp hz hwhere => ?vertical,
    fun s b r pos cur rate h hq hsd hp hc hcc hre hst => ?turn⟩
  case vertical =>
    have hcases : s.executor.state = .travel ∨ s.executor.state = .plunge ∨ ∃ p, s.executor.state = .retract p := by
      rcases hwhere with ⟨-, cur, -, -, hst | hst | hst | ⟨hst, -⟩⟩ | ⟨-, hst⟩ | hst | hst | hst <;> simp [hst]
    have hper : s.period = r.period := State.period_of_setup h.setup
    have hmotion : motion s = zFrame s := by
      unfold motion travelState
      rcases hwhere with ⟨-, cur, hc, hcc, hst | hst | hst | ⟨hst, top, clear, dry, tag, hb⟩⟩ | ⟨-, hst⟩ | hst | hst |
        hst
      all_goals simp only [hst]
      simp [hc, hcc, hb]
    have hrest : s.executor.atRest = false := by
      unfold Executor.atRest Executor.free
      rcases hwhere with ⟨hre, cur, hc, hcc, hst | hst | hst | ⟨hst, top, clear, dry, tag, hb⟩⟩ | ⟨hre, hst⟩ |
        hst | hst | hst
      all_goals simp only [hst]
      · simp [hre, hc, hcc]
      · simp [hc, hcc]
      · simp [hc, hcc]
      · simp [hc, hcc, hb, Body.isPath]
      · simp [hre, hsd]
    have hstart : startOnce true s = none := by
      rcases hwhere with ⟨-, cur, hc, hcc, hst⟩ | ⟨hre, hst⟩ | hst | hst | hst
      · refine startOnce_of_midStep ?_ hsd (.inl (Executor.free_of_busy hc hcc)) (.inr hrest) _
        rcases hst with hst | hst | hst | ⟨hst, -⟩ <;> rw [hst] <;> rfl
      · exact startOnce_of_midStep (by rw [hst]; rfl) hsd (.inr hre) (.inr hrest) _
      all_goals exact startOnce_of_still (by simp [hst]) _
    have hne : s.executor.state ≠ .stopping ∧ s.executor.state ≠ .idle ∧ s.executor.state ≠ .cut := by
      rcases hcases with hst | hst | ⟨p, hst⟩ <;> rw [hst] <;> simp
    obtain ⟨hset, hsf⟩ := started_of_midStep hq hsd hrest hne.1 hstart
    have hstate : (s.executor.zMoved pos m r.period).state = s.executor.state := by rw [Executor.zMoved_eq]
    have hexec := execFrame_of_moved h hset hsf (hmotion.trans (zFrame_of_moving hp hz))
      (by rw [hper, hstate]; exact hne.2.1)
    rw [hper] at hexec
    dsimp only
    rw [← zStep_eq]
    refine ⟨_, hexec, ?_, ?_, frameOnly_of_zMoved (FrameOnly.refl s),
      closeFrame_governor_of_moved (by rw [hstate]; exact hne.2.2), fun hs => ?_, fun he => ⟨fun cur hc hre hst => ?_,
        fun hst => ?_⟩⟩
    all_goals simp only [closeFrame_position, closeFrame_state, closeFrame_zMove, closeFrame_current,
      closeFrame_stepDone, State.setExecutor_executor]
    · rw [Executor.zMoved_eq]
    · exact hstate
    · rw [Executor.zMoved_of_short hs]
      exact ⟨hz, rfl, hsd⟩
    · have hlast : Executor.OnLastStep { s.executor with position := some { pos with z := m.target } } := by
        refine ⟨hre, ?_⟩
        rcases hst with hst | hst | ⟨hst, g, hb⟩
        · exact .inr (.inl hst)
        · exact .inl hst
        · exact .inr (.inr (.inr (.inr ⟨hst, cur, g, false, hc, hb, rfl⟩)))
      rw [Executor.zMoved_of_end he, Executor.finishStep_of_last hlast]
      exact Executor.completeCurrent_of_some (e := { s.executor with position := _ }) hc
    · have hearlier : Executor.OnEarlierStep { s.executor with position := some { pos with z := m.target } } := by
        rcases hst with hst | hst | hst | hst | hst | hst
        · exact .inl hst
        · exact .inr (.inl hst)
        · exact .inr (.inr (.inl hst))
        · exact .inr (.inr (.inr (.inl hst)))
        · exact .inr (.inr (.inr (.inr (.inl hst))))
        · exact .inr (.inr (.inr (.inr (.inr (.inr hst)))))
      rw [Executor.zMoved_of_end he, Executor.finishStep_of_earlier hearlier]
      exact ⟨rfl, rfl⟩
  case turn =>
    have hper : s.period = r.period := State.period_of_setup h.setup
    have hmotion : motion s = turnStep rate s := by
      unfold motion
      rcases hst with ⟨hst, rfl⟩ | ⟨hst, rfl⟩ <;> simp only [hst, State.blade_of_some h.blade]
    have hrest : s.executor.atRest = false := by
      unfold Executor.atRest Executor.free
      rcases hst with ⟨hst, -⟩ | ⟨hst, -⟩ <;> simp [hst, hc, hcc]
    have hstart : startOnce true s = none := by
      refine startOnce_of_midStep ?_ hsd (.inl (Executor.free_of_busy hc hcc)) (.inr hrest) _
      rcases hst with ⟨hst, -⟩ | ⟨hst, -⟩ <;> rw [hst] <;> rfl
    have hne : s.executor.state ≠ .stopping ∧ s.executor.state ≠ .idle ∧ s.executor.state ≠ .cut := by
      rcases hst with ⟨hst, -⟩ | ⟨hst, -⟩ <;> rw [hst] <;> simp
    obtain ⟨hset, hsf⟩ := started_of_midStep hq hsd hrest hne.1 hstart
    intro step part last
    have hstate : (s.executor.turned pos cur step).state = s.executor.state := by rw [Executor.turned_eq]
    have hexec : exec .frame s = .next (closeFrame (s.setExecutor (s.executor.turned pos cur step))) := by
      have := execFrame_of_moved h hset hsf (hmotion.trans (turnStep_of_turning hp hc))
        (by rw [Executor.turned_eq]; exact hne.2.1)
      rw [hper] at this
      exact this
    have hpart : turnPart cur.turn step = part := rfl
    have hcur : ∃ c, (s.executor.turned pos cur step).current = some c ∧ c.record = cur.record ∧
        c.turn = cur.turn - part ∧ (last → c.complete = true) ∧ (¬ last → c.complete = false) ∧
        ((s.executor.turned pos cur step).stepDone = true ↔ cur.turn = part ∧ ¬ last) := by
      by_cases hend : cur.turn = part
      · rw [Executor.turned_of_end hend]
        by_cases hl : last
        · have hlast : Executor.OnLastStep { s.executor with
              position := some { pos with heading := turnBy pos.heading part }
              current := some { cur with turn := cur.turn - part } } := by
            refine ⟨hre, ?_⟩
            rcases hl.2 with hs | hd
            · exact .inr (.inr (.inl hs))
            · rcases hst with ⟨hst, -⟩ | ⟨hst, -⟩
              · exact .inr (.inr (.inl hst))
              · exact .inr (.inr (.inr (.inl ⟨hst, hd⟩)))
          rw [hpart, Executor.finishStep_of_last hlast]
          exact ⟨_, rfl, rfl, rfl, fun _ => rfl, fun hn => absurd hl hn, by simp [Executor.completeCurrent, hl]⟩
        · have hrot : s.executor.state = .rotate ∧ s.executor.dry = false := by
            rcases hst with ⟨hst, -⟩ | ⟨hst, -⟩
            · exact absurd ⟨hend, .inl hst⟩ hl
            · exact ⟨hst, by simpa using fun hd => hl ⟨hend, .inr hd⟩⟩
          have hearlier : Executor.OnEarlierStep { s.executor with
              position := some { pos with heading := turnBy pos.heading part }
              current := some { cur with turn := cur.turn - part } } := .inr (.inr (.inr (.inr (.inr (.inl hrot)))))
          rw [hpart, Executor.finishStep_of_earlier hearlier]
          exact ⟨_, rfl, rfl, rfl, fun hl' => absurd hl' hl, fun _ => hcc, by simp [Executor.completeStep, hend, hl]⟩
      · rw [Executor.turned_of_short hend]
        exact ⟨_, rfl, rfl, rfl, fun hl => absurd hl.1 hend, fun _ => hcc, by simp [hsd, hend]⟩
    obtain ⟨c, hcur, hrec, hturn, hdone, hnot, hsd'⟩ := hcur
    refine ⟨_, c, hexec, ?_, ?_, hrec, hturn, hdone, hnot, ?_, ?_, frameOnly_of_turned (FrameOnly.refl s),
      closeFrame_governor_of_moved (by rw [hstate]; exact hne.2.2)⟩
    all_goals simp only [closeFrame_position, closeFrame_state, closeFrame_current,
      closeFrame_stepDone, State.setExecutor_executor]
    · rw [Executor.turned_eq]
      rfl
    · exact hcur
    · exact hsd'
    · exact hstate

end Sys2Proof.Machine

/-! # Retracts that follow no record: the standoff (R124, R127), the abort stop (R129) and the recovery (R155) -/

namespace Sys2Proof.Machine

/-! ## A retract begins -/

theorem Executor.startRetract_of_below {e : Executor} {pos : Position} {target speed : Nat} {p : Purpose}
    (hp : e.position = some pos) (hz : pos.z < target) : e.startRetract p target speed =
      { e with state := .retract p, zMove := some ⟨target, speed⟩, stepDone := false } := by
  have hez : e.z = pos.z := by simp only [Executor.z, hp]
  unfold Executor.startRetract Executor.startZ
  rw [hez, Nat.max_eq_left (Nat.le_of_lt hz), if_neg (Nat.ne_of_lt hz)]

/-- A move that raises Z comes no further than its target. -/
theorem zStep_of_below {z target step : Nat} (h : z < target) : zStep z target step = min target (z + step) := by
  rw [zStep_eq, if_pos (Nat.le_of_lt h)]

/-- A frame of a retract, or of another step that is not the last of its record, keeps the current record. -/
theorem Executor.zMoved_of_earlier {e : Executor} {pos : Position} {m : ZMove} {t : Nat} (he : e.OnEarlierStep)
    (hz : e.zMove = some m) (hsd : e.stepDone = false) : e.zMoved pos m t = { e with
      position := some { pos with z := zStep pos.z m.target (m.speed * t) }
      zMove := if zStep pos.z m.target (m.speed * t) = m.target then none else some m
      stepDone := decide (zStep pos.z m.target (m.speed * t) = m.target) } := by
  by_cases hend : zStep pos.z m.target (m.speed * t) = m.target
  · rw [Executor.zMoved_of_end hend,
      Executor.finishStep_of_earlier (e := { e with position := some { pos with z := m.target } }) he]
    simp only [Executor.completeStep, hend, if_true, decide_true]
  · rw [Executor.zMoved_of_short hend]
    simp only [hend, if_false, decide_false, ← hz, ← hsd]

section
variable {s : State}

theorem State.clearZ_of_block {blk : ExecBlock} (h : s.executor.block = some blk) : s.clearZ = blk.clear := by
  simp only [State.clearZ, h]

theorem State.retractSpeed_of_held {v : Nat} (h : s.executor.heldPlunge = some v) : s.retractSpeed = v := by
  simp only [State.retractSpeed, h, Option.getD_some]

/-- The Executor once a retract with purpose ABORT has begun, below its target. -/
theorem beginAbortRetract_of_below {pos : Position} {blk : ExecBlock} {v : Nat} (hp : s.executor.position = some pos)
    (hb : s.executor.block = some blk) (hv : s.executor.heldPlunge = some v) (hz : pos.z < blk.clear) :
    beginAbortRetract s = s.setExecutor { s.executor with
      state := .retract .abort, current := none, dwellTimer := .stopped, reentering := false,
      standoffPending := false, zMove := some ⟨blk.clear, v⟩, stepDone := false } := by
  unfold beginAbortRetract
  rw [State.clearZ_of_block hb, State.retractSpeed_of_held hv, Executor.startRetract_of_below (by exact hp) hz]

/-- The Executor once a retract with purpose STANDOFF has begun, below its target. -/
theorem beginStandoffRetract_of_below {pos : Position} {blk : ExecBlock} {v : Nat} {b : Bool}
    (hp : s.executor.position = some pos) (hb : s.executor.block = some blk) (hv : s.executor.heldPlunge = some v)
    (hz : pos.z < blk.clear) (hh : b = true ↔ ∃ h, s.executor.state = .hold h) :
    beginStandoffRetract s = s.setExecutor { s.executor with
      state := .retract .standoff, current := s.executor.restedCurrent, reentering := false,
      standoffPending := false, beganInHold := b, zMove := some ⟨blk.clear, v⟩, stepDone := false } := by
  unfold beginStandoffRetract
  rw [State.clearZ_of_block hb, State.retractSpeed_of_held hv, Executor.startRetract_of_below (by exact hp) hz]
  split
  · next h hst => rw [hh.2 ⟨h, hst⟩]
  · next hne =>
    obtain rfl : b = false := Bool.eq_false_iff.2 fun hb => by
      obtain ⟨h, hst⟩ := hh.1 hb
      exact hne h hst
    rfl

theorem Executor.restedCurrent_of_free {e : Executor} (h : e.free = true) : e.restedCurrent = none := by
  unfold Executor.free at h
  rcases hc : e.current with _ | cur
  · exact Executor.restedCurrent_of_none hc
  · simp only [hc] at h
    rw [Executor.restedCurrent_of_some hc, h, if_pos rfl]

/-- A frame in which a retract of the Executor `e` begins, toward the clear Z. -/
theorem execFrame_of_retract {b : BladeEntry} {r : Setup} {pos : Position} {blk : ExecBlock} {v : Nat} {p : Purpose}
    {e : Executor} (h : Framing b r s) (hset : settle s = s) (hst : startFrame s = s.setExecutor e)
    (hstate : e.state = .retract p) (hearlier : e.OnEarlierStep) (hp : e.position = some pos)
    (hz : e.zMove = some ⟨blk.clear, v⟩) (hsd : e.stepDone = false) (hlow : pos.z < blk.clear) :
    let z := min blk.clear (pos.z + v * r.period)
    exec .frame s = .next (closeFrame (s.setExecutor { e with
      position := some { pos with z := z }
      zMove := if z = blk.clear then none else some ⟨blk.clear, v⟩
      stepDone := decide (z = blk.clear) })) := by
  have hm : motion (s.setExecutor e) = zFrame (s.setExecutor e) := by
    unfold motion
    simp only [State.setExecutor_executor, hstate]
  have hexec := execFrame_of_moved h hset hst (hm.trans (zFrame_of_moving hp hz))
    (by rw [Executor.zMoved_eq]; simp [hstate])
  have hper : (s.setExecutor e).period = r.period := State.period_of_setup h.setup
  rw [hper, State.setExecutor_executor, Executor.zMoved_of_earlier hearlier hz hsd,
    zStep_of_below (z := pos.z) hlow] at hexec
  exact hexec

/-! ## The dwell timer's expiry -/

theorem takeDwellTimeout_of_dwell (hx : s.executor.dwellTimer.expired = true) (hst : s.executor.state = .dwell) :
    takeDwellTimeout s =
      (takeDwellExpiry s).setExecutor { (takeDwellExpiry s).executor with standoffPending := true } := by
  unfold takeDwellTimeout
  rw [if_pos hx]
  simp only [hst]

theorem takeDwellTimeout_of_hold {b : Bool} (hx : s.executor.dwellTimer.expired = true)
    (hst : s.executor.state = .hold b) : takeDwellTimeout s = beginStandoffRetract (takeDwellExpiry s) := by
  unfold takeDwellTimeout
  rw [if_pos hx]
  simp only [hst]

theorem takeDwellExpiry_of_position {pos : Position} {v : Nat} (hp : s.executor.position = some pos)
    (hv : s.executor.heldPlunge = some v) : takeDwellExpiry s = s.setExecutor { s.executor with
      dwellTimer := .stopped, reentry := some ⟨pos.x, pos.y, pos.heading, v⟩ } := by
  unfold takeDwellExpiry
  rw [State.retractSpeed_of_held hv]
  simp only [hp]

theorem startNext_of_standoffPending (hh : s.executor.haltRequest = false) (hp : s.executor.standoffPending = true)
    (first : Bool) : startNext first s = some (beginStandoffRetract s) := by
  unfold startNext
  rw [if_neg (ne_true_of_eq_false hh), if_pos hp]

theorem endStandoffRetract_of_done {q : Reentry} (hst : s.executor.state = .retract .standoff)
    (hsd : s.executor.stepDone = true) (hq : s.executor.reentry = some q) : endStandoffRetract s =
      raiseStandoff s.executor.currentTag q.x q.y (s.setExecutor { s.executor with
        state := .standoff (s.executor.beganInHold || s.executor.haltRequest)
        haltRequest := false
        stepDone := false
        beganInHold := false }) := by
  unfold endStandoffRetract
  rw [if_pos ⟨hst, hsd⟩]
  simp only [reentryPoint, hq]

end

/-- Settles O52. -/
theorem dwellTimeoutAndStandoff : Obligations.DwellTimeoutAndStandoff := by
  unfold Obligations.DwellTimeoutAndStandoff
  refine ⟨fun s elapsed timeout v pos blk hrun ht hx hp hv hb hlow => ?expiry,
    fun s b r pos blk v h hcalm hst hf hre hpend hp hb hv hlow => ?frame,
    fun tag s pos blk v h hr ha hh hst hpend hp hb hv hlow => ?halt, fun s q hrun hst hsd hq => ?done⟩
  case expiry =>
    have hexp : s.executor.dwellTimer.expired = true := by rw [ht, Timer.expired_running hx]
    refine ⟨_, congrArg Host.Outcome.next (unlessReset_of_running hrun takeDwellTimeout), fun hst => ?_,
      fun b hst => ?_⟩
    · rw [takeDwellTimeout_of_dwell hexp hst, takeDwellExpiry_of_position hp hv]
      rfl
    · rw [takeDwellTimeout_of_hold hexp hst, takeDwellExpiry_of_position hp hv,
        beginStandoffRetract_of_below (s := s.setExecutor { s.executor with
          dwellTimer := .stopped, reentry := some ⟨pos.x, pos.y, pos.heading, v⟩ }) (b := true) hp hb hv hlow
          (by simp [hst])]
      exact ⟨rfl, rfl, rfl, rfl, rfl, rfl, rfl, ⟨rfl, rfl, rfl, rfl, rfl, rfl, rfl⟩, rfl, rfl⟩
  case frame =>
    intro z
    have h1 : startOnce true s = some (beginStandoffRetract s) := by
      rw [startOnce_of_free hcalm (by rw [hst]; rfl) hre hf, startNext_of_standoffPending hcalm.noHalt hpend]
    rw [beginStandoffRetract_of_below (b := false) hp hb hv hlow (by simp [hst]),
      Executor.restedCurrent_of_free hf] at h1
    have hstart := startFrame_of_one hp h1 (startOnce_of_still (by simp) _)
    have hexec := execFrame_of_retract h (settle_of_calm hcalm (by simp [hst])) hstart rfl
      (.inr (.inr (.inl rfl))) hp rfl rfl hlow
    refine ⟨_, hexec, closeFrame_state _, closeFrame_position _, closeFrame_zMove _, ?_, closeFrame_current _,
      closeFrame_reentry _, closeFrame_standoffPending _, closeFrame_beganInHold _,
      closeFrame_frameOnly (FrameOnly.of_setExecutor rfl rfl rfl rfl), closeFrame_governor rfl⟩
    rw [closeFrame_stepDone]
    exact decide_eq_true_iff
  case halt =>
    have hrow := ownHalt_of_running (s := reservePlace s) hr
    have henter : setHalt (reservePlace s) = beginStandoffRetract ((reservePlace s).setExecutor
        (Executor.held false { s.executor with haltRequest := true })) := by
      have hat : s.executor.state.haltsAtOnce = true := by rw [hst]; rfl
      rw [setHalt_of_resting (s := reservePlace s) hat]
      refine (enterHold_eq (b := false) ?_).trans (if_pos hpend)
      show false = true ↔ ∃ h, s.executor.state = .standoff h
      simp [hst]
    have hbegin := beginStandoffRetract_of_below (b := true) (s := (reservePlace s).setExecutor
      (Executor.held false { s.executor with haltRequest := true })) hp hb hv hlow ⟨fun _ => ⟨false, rfl⟩, fun _ => rfl⟩
    refine ⟨_, congrArg Host.Outcome.next (h.hand (u := s.setExecutor _)
      (reply := .accepted []) (hrow.trans ((if_neg ?_).trans
        (congrArg (·, Reply.accepted []) (henter.trans hbegin)))) rfl), ?_⟩
    · show ¬ (s.part.abortFlag || s.executor.state.isHold || s.executor.haltRequest) = true
      rw [ha, hh, hst]
      exact Bool.false_ne_true
    · exact ⟨rfl, rfl, rfl, rfl, rfl, rfl, hp, rfl, rfl, ⟨rfl, rfl, rfl, rfl, rfl, rfl, rfl⟩, rfl⟩
  case done =>
    exact congrArg Host.Outcome.next ((unlessReset_of_running hrun endStandoffRetract).trans
      (endStandoffRetract_of_done hst hsd hq))

/-! ## The abort stop and the recovery -/

section
variable {s : State}

/-- The part PARKED with its Executor in IDLE, before a waiting blade table is judged (R129, R155). -/
def parkedIdle (s : State) : State :=
  (s.setExecutor s.executor.enterIdle).setPart { s.part with abortFlag := false, state := .parked }

theorem endAbortStop_of_over (h : abortStopOver s = true) : endAbortStop s = commitBlade (parkedIdle s) :=
  if_pos h

theorem endRecover_of_done (hst : s.executor.state = .retract .recover) (hsd : s.executor.stepDone = true)
    (ha : s.part.abortFlag = false) : endRecover s = commitBlade (parkedIdle s) := by
  refine (if_pos ⟨hst, hsd⟩).trans ?_
  rw [parkedIdle, ← ha]
  rfl

/-- In an abort stop at rest in material the retract starts (R129). -/
theorem startOnce_of_abortAtRest (ha : s.part.abortFlag = true) (hb : s.executor.state.begins = true)
    (hr : s.executor.atRest = true) (hm : s.executor.inMaterial = true) (first : Bool) :
    startOnce first s = some (beginAbortRetract s) := by
  rw [startOnce_of_begins hb, if_pos ha]
  simp only [startAbort, hr, hm, if_true]

/-- An abort stop that is at rest in material is not over. -/
theorem abortStopOver_of_material (hb : s.executor.state.begins = true) (hm : s.executor.inMaterial = true) :
    abortStopOver s = false := by
  have hst : s.executor.state ≠ .retract .abort := by
    intro hst
    rw [hst] at hb
    cases hb
  simp [abortStopOver, hm, hst]

end

/-- Settles O54. -/
theorem abortStopAndRecoveryEnd : Obligations.AbortStopAndRecoveryEnd := by
  unfold Obligations.AbortStopAndRecoveryEnd
  refine ⟨fun s b r pos blk v h hq ha hbegin hrest hmat hp hb hv hlow => ?retract,
    fun s c hrun hwin hqueue hwhich => ?ended, fun s hrun hst => ⟨fun hv => ?stopped, fun hv => ?above⟩⟩
  case retract =>
    intro z
    have hstop : s.executor.state ≠ .stopping := by
      intro hst
      rw [hst] at hbegin
      cases hbegin
    have hpurpose : ∀ p, s.executor.state = .retract p → p = .leave ∨ p = .lift := by
      intro p hst
      rw [hst] at hbegin
      cases p
      case leave => exact .inl rfl
      case lift => exact .inr rfl
      all_goals cases hbegin
    have hset : settle s = s := settle_of_nothingDue hq (.inr hpurpose) (.inr (.inl ha))
      (abortStopOver_of_material hbegin hmat) (.inl hstop)
    have h1 := startOnce_of_abortAtRest ha hbegin hrest hmat true
    rw [beginAbortRetract_of_below hp hb hv hlow] at h1
    have hexec := execFrame_of_retract h hset (startFrame_of_one hp h1 (startOnce_of_still (by simp) _)) rfl
      (.inr (.inr (.inr (.inl rfl)))) hp rfl rfl hlow
    refine ⟨_, hexec, closeFrame_state _, closeFrame_position _, closeFrame_zMove _, ?_, closeFrame_current _,
      closeFrame_dwellTimer _, closeFrame_reentering _, closeFrame_standoffPending _,
      closeFrame_frameOnly (FrameOnly.of_setExecutor rfl rfl rfl rfl), closeFrame_governor rfl⟩
    rw [closeFrame_stepDone]
    exact decide_eq_true_iff
  case ended =>
    have hexec : exec c s = .next (commitBlade (parkedIdle s)) := by
      rcases hwhich with ⟨rfl, ha, hover⟩ | ⟨rfl, ha, hst, hsd⟩
      · refine congrArg Host.Outcome.next ((unlessReset_of_running hrun endAbortStop).trans (endAbortStop_of_over ?_))
        unfold abortStopOver
        rcases hover with ⟨hst, hsd⟩ | ⟨hrest, hmat⟩
        · simp [ha, hst, hsd]
        · simp [ha, hrest, hmat]
      · exact congrArg Host.Outcome.next ((unlessReset_of_running hrun endRecover).trans
          (endRecover_of_done hst hsd ha))
    refine ⟨_, hexec, ?_⟩
    simp only [commitBlade_executor, commitBlade_part, commitBlade_planner, commitBlade_governor, commitBlade_port,
      commitBlade_link]
    refine ⟨rfl, rfl, rfl, rfl, rfl, rfl, rfl, rfl, fun hw => ?_, fun w hw hroom => ?_⟩
    · rw [commitBlade_of_none (s := parkedIdle s) hw]
      exact ⟨rfl, rfl⟩
    · rw [commitBlade_of_waiting (s := parkedIdle s) hw hwin hqueue rfl, postResponse_of_lt (by exact hroom)]
      exact ⟨rfl, rfl⟩
  case stopped =>
    exact congrArg Host.Outcome.next ((unlessReset_of_running hrun takeStopped).trans (if_pos ⟨hst, hv⟩))
  case above =>
    exact congrArg Host.Outcome.next ((unlessReset_of_running hrun takeStopped).trans (if_neg fun h => by omega))

end Sys2Proof.Machine

/-! # The steps of a LEAVE and a LIFT follow one another (R119, R121, R122) -/

namespace Sys2Proof.Machine

section
variable {s : State}

/-- The step in progress is complete, and its record is not: the next step starts, whatever was asked for. -/
theorem startOnce_of_stepDone (hb : s.executor.state.begins = true) (hre : s.executor.reentering = false)
    (hsd : s.executor.stepDone = true) (hrest : s.executor.atRest = false) (first : Bool) :
    startOnce first s = some (nextStep s) := by
  rw [startOnce_of_begins hb]
  split
  · simp [startAbort, hrest, hsd, hre]
  · exact if_neg (ne_true_of_eq_false hre)

/-- In the states of a record's later steps the Executor is not at rest while the record is in progress. -/
theorem Executor.atRest_of_step {e : Executor} (hf : e.free = false) (hst : e.state = .retract .leave ∨
    e.state = .retract .lift ∨ e.state = .rotate ∨ e.state = .swivel ∨ e.state = .trim ∨
    (e.state = .plunge ∧ e.reentering = false)) : e.atRest = false := by
  unfold Executor.atRest
  rcases hst with hst | hst | hst | hst | hst | ⟨hst, hre⟩ <;> simp [hst, hf]
  simp [hre]

/-- The next step of a record in progress is what a frame starts, and nothing is taken before it. -/
theorem settle_of_stepDone (hq : Quiet s) (hf : s.executor.free = false) (hst : s.executor.state = .retract .leave ∨
    s.executor.state = .retract .lift ∨ s.executor.state = .rotate) : settle s = s := by
  have hrest : s.executor.atRest = false :=
    Executor.atRest_of_step hf (by rcases hst with h | h | h <;> simp [h])
  refine settle_of_quiet hq (.inr fun p hp => ?_) (.inr hrest) (.inr hrest) (.inl ?_)
  · rcases hst with hst | hst | hst <;> rw [hst] at hp <;> cases hp
    · exact .inl rfl
    · exact .inr rfl
  · rcases hst with hst | hst | hst <;> rw [hst] <;> simp

/-! ## The next step -/

theorem nextStep_of_leave {cur : Current} (hst : s.executor.state = .retract .leave)
    (hc : s.executor.current = some cur) : nextStep s = startTrim s := by
  unfold nextStep
  rw [hst, hc]

theorem nextStep_of_lift {cur : Current} {p : PivotRecord} (hst : s.executor.state = .retract .lift)
    (hc : s.executor.current = some cur) (hb : cur.record.body = .pivot p) :
    nextStep s = s.setExecutor (s.executor.startTurn .rotate p.rotation) := by
  unfold nextStep
  simp only [hst, hc, hb]

theorem nextStep_of_rotate {cur : Current} {p : PivotRecord} (hst : s.executor.state = .rotate)
    (hc : s.executor.current = some cur) (hb : cur.record.body = .pivot p) :
    nextStep s = if p.trim && !s.executor.dry then startTrim s else startLiftPlunge s := by
  unfold nextStep
  simp only [hst, hc, hb]

/-- The Executor at the start of a turn of the record `cur` by `rotation`, in state `st`. -/
def Executor.inTurn (e : Executor) (st : ExecState) (cur : Current) (rotation : Int) : Executor :=
  { e with state := st, stepDone := false, current := some { cur with turn := rotation } }

/-- The Executor in ROTATE with nothing to turn: the step is complete, and the record `cur` goes on. -/
def Executor.afterTurn (e : Executor) (cur : Current) : Executor :=
  { e with state := .rotate, stepDone := true, zMove := none, current := some { cur with turn := 0 } }

theorem Executor.startTurn_of_nonzero {e : Executor} {cur : Current} {st : ExecState} {rotation : Int}
    (hc : e.current = some cur) (h : rotation ≠ 0) : e.startTurn st rotation = e.inTurn st cur rotation := by
  unfold Executor.startTurn
  dsimp only
  rw [if_neg h]
  simp only [hc, Executor.inTurn]

/-- A rotation of 0 is complete at once, and the LIFT goes on (R113, R119). -/
theorem Executor.startTurn_of_zero {e : Executor} {cur : Current} (hc : e.current = some cur) (hd : e.dry = false) :
    e.startTurn .rotate 0 = e.afterTurn cur := by
  unfold Executor.startTurn
  dsimp only
  rw [if_pos rfl, Executor.finishStep_of_earlier]
  · simp only [hc, Executor.completeStep, Executor.afterTurn]
  · exact .inr (.inr (.inr (.inr (.inr (.inl ⟨rfl, hd⟩)))))

theorem startLiftPlunge_of_above {cur : Current} {p : PivotRecord} {pos : Position} {v : Nat}
    (hc : s.executor.current = some cur) (hb : cur.record.body = .pivot p) (hv : p.plunge = some v)
    (hp : s.executor.position = some pos) (hz : s.zCut < pos.z) : startLiftPlunge s =
      s.setExecutor { s.executor with state := .plunge, zMove := some ⟨s.zCut, v⟩, stepDone := false } := by
  have hez : s.executor.z = pos.z := by simp only [Executor.z, hp]
  unfold startLiftPlunge Executor.startZ
  simp only [hc, hb, hv, Option.getD_some, hez, if_neg (Nat.ne_of_gt hz)]

/-- A frame of a turn that is not the last step of its record keeps the record in progress. -/
theorem Executor.turned_of_earlier {e : Executor} {pos : Position} {cur : Current} {step : Nat}
    (h : e.OnEarlierStep) (hst : e.state = .rotate) : (e.turned pos cur step).current =
      some { cur with turn := cur.turn - turnPart cur.turn step } := by
  by_cases hend : cur.turn = turnPart cur.turn step
  · have hd : e.reentering = true ∨ e.dry = false := by
      rcases h with h | h | h | h | h | ⟨-, h⟩ | ⟨h, -⟩
      · exact .inl h
      · rw [hst] at h; cases h
      · rw [hst] at h; cases h
      · rw [hst] at h; cases h
      · rw [hst] at h; cases h
      · exact .inr h
      · rw [hst] at h; cases h
    have hearlier : Executor.OnEarlierStep { e with
        position := some { pos with heading := turnBy pos.heading (turnPart cur.turn step) }
        current := some { cur with turn := cur.turn - turnPart cur.turn step } } :=
      hd.imp_right fun hd => .inr (.inr (.inr (.inr (.inl ⟨hst, hd⟩))))
    rw [Executor.turned_of_end hend, Executor.finishStep_of_earlier hearlier]
    rfl
  · rw [Executor.turned_of_short hend]

/-! ## A TRIM starts -/

/-- A frame in which a TRIM starts: the trim request is set, its timer runs, and this is the trim frame (R122). -/
theorem execFrame_of_trim {b : BladeEntry} {r : Setup} {u : State} (h : Framing b r s) (hset : settle s = s)
    (hst : startFrame s = startTrim u) (hu : u.part.setup = s.part.setup) (hb : u.tables = s.tables)
    (hf : u.port.frameNo = s.port.frameNo) : ∃ t, exec .frame s = .next t ∧ t = closeFrame (startTrim u) ∧
      t.executor.state = .trim ∧ t.port.trimRequest = true ∧
      t.executor.trimTimer = .running r.period b.trimTimeout ∧ t.executor.trimFrame = some s.port.frameNo ∧
      t.executor.position = u.executor.position ∧ t.governor = u.governor := by
  have hm : motion (startTrim u) = startTrim u := motion_of_still (.inr (.inr (.inl rfl)))
  refine ⟨_, execFrame_of_started h hset hst (by rw [hm]; simp [startTrim]), by rw [hm], ?_⟩
  rw [hm, closeFrame_state, closeFrame_trimRequest, closeFrame_trimTimer, closeFrame_position,
    closeFrame_trimFrame_of_none (s := startTrim u) rfl rfl rfl, ← hf]
  have hper : (startTrim u).period = r.period := State.period_of_setup (hu.trans h.setup)
  refine ⟨rfl, rfl, ?_, rfl, rfl, closeFrame_governor rfl⟩
  rw [hper, startTrim, State.blade_of_some (hb ▸ h.blade)]
  show Timer.running (0 + r.period) b.trimTimeout = _
  rw [Nat.zero_add]

end

/-- Settles O41: the step starts as `nextStep` says, and the frame is its first. -/
theorem stepsOfARecordFollow : Obligations.StepsOfARecordFollow := by
  unfold Obligations.StepsOfARecordFollow
  intro s b r pos cur h hq hp hc hcc hsd hre hblk
  have hdry : s.executor.dry = false := Executor.dry_eq_false hblk
  have hfree := Executor.free_of_busy hc hcc
  have hone : s.executor.state = .retract .leave ∨ s.executor.state = .retract .lift ∨ s.executor.state = .rotate →
      settle s = s ∧ startOnce true s = some (nextStep s) := by
    intro hst
    refine ⟨settle_of_stepDone hq hfree hst, startOnce_of_stepDone ?_ hre hsd (Executor.atRest_of_step hfree ?_) _⟩
    · rcases hst with hst | hst | hst <;> rw [hst] <;> rfl
    · rcases hst with hst | hst | hst <;> simp [hst]
  have htrim : ∀ u : State, u.executor.free = false → startOnce false (startTrim u) = none := fun u hu =>
    startOnce_of_midStep (s := startTrim u) rfl rfl (.inl hu)
      (.inr (Executor.atRest_of_step hu (.inr (.inr (.inr (.inr (.inl rfl))))))) _
  refine ⟨fun p g hwhich => ?trim, fun p hst hb hrot => ?rotate, fun p v hst hb hnotrim hv hz => ?plunge⟩
  case trim =>
    rcases hwhich with ⟨hst, -⟩ | ⟨hst, hb, hrot, htr⟩ | ⟨hst, hb, htr⟩
    · obtain ⟨hset, h1⟩ := hone (.inl hst)
      rw [nextStep_of_leave hst hc] at h1
      obtain ⟨t, he, rfl, h1, h2, h3, h4, h5, h6⟩ :=
        execFrame_of_trim h hset (startFrame_of_one hp h1 (htrim s hfree)) rfl rfl rfl
      exact ⟨_, he, h1, h2, h3, h4, h5.trans hp,
        closeFrame_frameOnly ⟨rfl, rfl, rfl, rfl, rfl, rfl, rfl, rfl, rfl, rfl, rfl⟩, h6⟩
    · obtain ⟨hset, h1⟩ := hone (.inr (.inl hst))
      rw [nextStep_of_lift hst hc hb, hrot, Executor.startTurn_of_zero hc hdry] at h1
      have hstay : (s.executor.afterTurn cur).free = false := Executor.free_of_busy rfl hcc
      have h2 : startOnce false (s.setExecutor (s.executor.afterTurn cur)) =
          some (startTrim (s.setExecutor (s.executor.afterTurn cur))) := by
        rw [startOnce_of_stepDone (s := s.setExecutor (s.executor.afterTurn cur)) rfl hre rfl
          (Executor.atRest_of_step hstay (.inr (.inr (.inl rfl)))),
          nextStep_of_rotate (cur := { cur with turn := 0 }) rfl rfl hb, htr, if_pos]
        exact congrArg (!·) hdry
      obtain ⟨t, he, rfl, h1, h2, h3, h4, h5, h6⟩ :=
        execFrame_of_trim h hset (startFrame_of_two hp h1 h2 (htrim _ hstay)) rfl rfl rfl
      exact ⟨_, he, h1, h2, h3, h4, h5.trans hp,
        closeFrame_frameOnly ⟨rfl, rfl, rfl, rfl, rfl, rfl, rfl, rfl, rfl, rfl, rfl⟩, h6⟩
    · obtain ⟨hset, h1⟩ := hone (.inr (.inr hst))
      rw [nextStep_of_rotate hst hc hb, htr, hdry, if_pos (by rfl)] at h1
      obtain ⟨t, he, rfl, h1, h2, h3, h4, h5, h6⟩ :=
        execFrame_of_trim h hset (startFrame_of_one hp h1 (htrim s hfree)) rfl rfl rfl
      exact ⟨_, he, h1, h2, h3, h4, h5.trans hp,
        closeFrame_frameOnly ⟨rfl, rfl, rfl, rfl, rfl, rfl, rfl, rfl, rfl, rfl, rfl⟩, h6⟩
  case rotate =>
    intro step part
    obtain ⟨hset, h1⟩ := hone (.inr (.inl hst))
    rw [nextStep_of_lift hst hc hb, Executor.startTurn_of_nonzero hc hrot] at h1
    have hstay : (s.executor.inTurn .rotate cur p.rotation).free = false := Executor.free_of_busy rfl hcc
    have h2 := startFrame_of_one hp h1 (startOnce_of_midStep (s := s.setExecutor _) rfl rfl (.inl hstay)
      (.inr (Executor.atRest_of_step hstay (.inr (.inr (.inl rfl))))) _)
    have hexec := execFrame_of_moved h hset h2 (turnStep_of_turning hp rfl)
      (by rw [Executor.turned_eq]; exact ExecState.noConfusion)
    have hper : ∀ e, (s.setExecutor e).period = r.period := fun e => State.period_of_setup h.setup
    have hrate : ∀ e, (s.setExecutor e).blade = b := fun e => State.blade_of_some h.blade
    rw [hper, hrate] at hexec
    refine ⟨_, hexec, ?_, ?_, ?_, frameOnly_of_turned (FrameOnly.of_setExecutor rfl rfl rfl rfl),
      closeFrame_governor_of_moved (by rw [Executor.turned_eq]; exact ExecState.noConfusion)⟩
    · rw [closeFrame_state, State.setExecutor_executor, Executor.turned_eq]
      rfl
    · rw [closeFrame_current]
      exact Executor.turned_of_earlier (e := s.executor.inTurn .rotate cur p.rotation)
        (.inr (.inr (.inr (.inr (.inr (.inl ⟨rfl, hdry⟩)))))) rfl
    · rw [closeFrame_position, State.setExecutor_executor, Executor.turned_eq]
      rfl
  case plunge =>
    have hzcut : s.zCut = r.zCut := by simp only [State.zCut, h.setup]
    obtain ⟨hset, h1⟩ := hone (.inr (.inr hst))
    rw [nextStep_of_rotate hst hc hb, hnotrim, if_neg (by simp),
      startLiftPlunge_of_above hc hb hv hp (by rw [hzcut]; exact hz), hzcut] at h1
    have h2 := startFrame_of_one hp h1 (startOnce_of_midStep (s := s.setExecutor { s.executor with
        state := .plunge, zMove := some ⟨r.zCut, v⟩, stepDone := false }) rfl rfl (.inl hfree)
      (.inr (Executor.atRest_of_step hfree (.inr (.inr (.inr (.inr (.inr ⟨rfl, hre⟩))))))) _)
    have hexec := execFrame_of_moved h hset h2 (zFrame_of_moving hp rfl)
      (by rw [Executor.zMoved_eq]; exact ExecState.noConfusion)
    have hper : ∀ e, (s.setExecutor e).period = r.period := fun e => State.period_of_setup h.setup
    rw [hper] at hexec
    refine ⟨_, hexec, ?_, ?_, frameOnly_of_zMoved (FrameOnly.of_setExecutor rfl rfl rfl rfl),
      closeFrame_governor_of_moved (by rw [Executor.zMoved_eq]; exact ExecState.noConfusion)⟩
    · rw [closeFrame_state, State.setExecutor_executor, Executor.zMoved_eq]
      rfl
    · rw [closeFrame_position, State.setExecutor_executor, Executor.zMoved_eq, zStep_eq, if_neg (Nat.not_le.2 hz)]

end Sys2Proof.Machine

/-! # A frame along a path (R109 to R112, R115, R126, R130) -/

namespace Sys2Proof.Machine

/-! ## Speed -/

section
variable {s : State} {r : Setup} {cur : Current} {c : CutRecord}

theorem State.accel_of_setup (h : s.part.setup = some r) : s.accel = r.accel := by simp only [State.accel, h]
theorem State.stopDecel_of_setup (h : s.part.setup = some r) : s.stopDecel = r.stopDecel := by
  simp only [State.stopDecel, h]
theorem State.travelSpeed_of_setup (h : s.part.setup = some r) : s.travelSpeed = r.travelSpeed := by
  simp only [State.travelSpeed, h]

theorem motionBounds_of_cut (hb : cur.record.body = .cut c) :
    motionBounds s cur.record.body = (c.exit, scaledCap c.cap s.governor.effective) := by rw [hb]; rfl

theorem motionBounds_of_travel {x y : Int} {h : Option Nat} (hb : cur.record.body = .travel x y h) :
    motionBounds s cur.record.body = (0, s.travelSpeed) := by rw [hb]; rfl

/-- The speed of a frame, by what slows the Executor (R109, R126, R130). -/
theorem newSpeed_eq (cur : Current) : newSpeed s cur =
    if s.executor.state = .stopping then
      slowSpeed (perFrame s.stopDecel s.period) cur.speed
        (reach s.accel (motionBounds s cur.record.body).1 (cur.len - cur.dist))
    else if slowing s then
      slowSpeed (perFrame s.accel s.period) cur.speed
        (reach s.accel (motionBounds s cur.record.body).1 (cur.len - cur.dist))
    else runSpeed (perFrame s.accel s.period) cur.speed (motionBounds s cur.record.body).2
      (reach s.accel (motionBounds s cur.record.body).1 (cur.len - cur.dist)) (cur.len - cur.dist) := rfl

theorem newSpeed_of_running (hst : s.executor.state ≠ .stopping) (hs : slowing s = false) : newSpeed s cur =
    runSpeed (perFrame s.accel s.period) cur.speed (motionBounds s cur.record.body).2
      (reach s.accel (motionBounds s cur.record.body).1 (cur.len - cur.dist)) (cur.len - cur.dist) := by
  rw [newSpeed_eq, if_neg hst, if_neg (ne_true_of_eq_false hs)]

theorem newSpeed_of_slowing (hst : s.executor.state ≠ .stopping) (hs : slowing s = true) : newSpeed s cur =
    min (cur.speed - perFrame s.accel s.period)
      (reach s.accel (motionBounds s cur.record.body).1 (cur.len - cur.dist)) := by
  rw [newSpeed_eq, if_neg hst, if_pos hs]
  rfl

theorem newSpeed_of_stopping (hst : s.executor.state = .stopping) : newSpeed s cur =
    min (cur.speed - perFrame s.stopDecel s.period)
      (reach s.accel (motionBounds s cur.record.body).1 (cur.len - cur.dist)) := by
  rw [newSpeed_eq, if_pos hst]
  rfl

theorem slowing_iff (s : State) : slowing s = true ↔ s.executor.haltRequest = true ∨ s.part.abortFlag = true := by
  simp only [slowing, Bool.or_eq_true]

theorem slowing_eq_false (hh : s.executor.haltRequest = false) (ha : s.part.abortFlag = false) : slowing s = false := by
  simp [slowing, hh, ha]

/-- The speed of an ordinary frame stays within the bound, which is at least 1. -/
theorem runSpeed_le {a v bound allow left : Nat} (h : 1 ≤ bound) : runSpeed a v bound allow left ≤ bound := by
  unfold runSpeed
  split
  · exact h
  · exact (Nat.min_le_left _ _).trans (Nat.min_le_right _ _)

/-- With a way still to go, the creep floor keeps the speed of an ordinary frame above 0. -/
theorem runSpeed_pos {a v bound allow left : Nat} (h : 0 < left) : 0 < runSpeed a v bound allow left := by
  unfold runSpeed
  split <;> omega

end

/-! ## The setpoints -/

/-- At the end of a segment the coordinate is its end's (R111). -/
theorem along_end (a b : Int) (len : Nat) : along a b len len = b := by
  unfold along divNearest
  split
  · rfl
  · next h =>
    have hpos : (0 : Int) < 2 * len := by omega
    have hround : (2 * ((b - a) * len) + len) / (2 * len : Int) = b - a := by
      rw [show 2 * ((b - a) * len) + (len : Int) = len + (2 * len) * (b - a) by ring,
        Int.add_mul_ediv_left _ _ (by omega), Int.ediv_eq_zero_of_lt (by omega) (by omega)]
      omega
    rw [hround]
    omega

section
variable {e : Executor} {pos : Position} {cur : Current} {lead : Nat}

theorem Executor.place_of_cut {c : CutRecord} (hp : e.position = some pos) (hc : e.current = some cur)
    (hb : cur.record.body = .cut c) : e.place lead = { e with position := some { pos with
      x := along c.x0 c.x1 cur.dist cur.len
      y := along c.y0 c.y1 cur.dist cur.len
      heading := cutHeading lead e.queue c cur.dist } } := by
  simp only [Executor.place, hp, hc, hb]

theorem Executor.place_of_travel {x y : Int} {h : Option Nat} (hp : e.position = some pos) (hc : e.current = some cur)
    (hb : cur.record.body = .travel x y h) : e.place lead = { e with position := some { pos with
      x := along cur.startX x cur.dist cur.len
      y := along cur.startY y cur.dist cur.len } } := by
  simp only [Executor.place, hp, hc, hb]

/-- The setpoints follow the motion, and nothing else of the Executor does. -/
theorem Executor.place_eq (e : Executor) (lead : Nat) : e.place lead = { e with
    position := (e.place lead).position } := by
  unfold Executor.place
  split
  · split <;> rfl
  · rfl

end

/-! ## The way of a frame -/

/-- The Executor with its current record `cur` at distance `dist` and speed `speed`. -/
def Executor.along (e : Executor) (cur : Current) (dist speed : Nat) : Executor :=
  { e with current := some { cur with dist := dist, speed := speed } }

/-- The Executor with its current record `cur` complete, at its end. -/
def Executor.atEnd (e : Executor) (cur : Current) : Executor :=
  { e with current := some { cur with dist := cur.len, speed := 0, complete := true } }

@[simp] theorem Executor.place_state (e : Executor) (lead : Nat) : (e.place lead).state = e.state := by
  rw [Executor.place_eq]
@[simp] theorem Executor.place_current (e : Executor) (lead : Nat) : (e.place lead).current = e.current := by
  rw [Executor.place_eq]

section
variable {e : Executor} {pos : Position} {cur : Current} {lead : Nat}

theorem Executor.place_along_cut {c : CutRecord} {d v : Nat} (hp : e.position = some pos)
    (hb : cur.record.body = .cut c) : ((e.along cur d v).place lead).position = some { pos with
      x := Machine.along c.x0 c.x1 d cur.len
      y := Machine.along c.y0 c.y1 d cur.len
      heading := cutHeading lead e.queue c d } := by
  rw [Executor.place_of_cut (e := e.along cur d v) hp rfl hb]
  rfl

theorem Executor.place_atEnd_cut {c : CutRecord} (hp : e.position = some pos)
    (hb : cur.record.body = .cut c) : ((e.atEnd cur).place lead).position = some { pos with
      x := Machine.along c.x0 c.x1 cur.len cur.len
      y := Machine.along c.y0 c.y1 cur.len cur.len
      heading := cutHeading lead e.queue c cur.len } := by
  rw [Executor.place_of_cut (e := e.atEnd cur) hp rfl hb]
  rfl

theorem Executor.place_along_travel {x y : Int} {h : Option Nat} {d v : Nat} (hp : e.position = some pos)
    (hb : cur.record.body = .travel x y h) : ((e.along cur d v).place lead).position = some { pos with
      x := Machine.along cur.startX x d cur.len
      y := Machine.along cur.startY y d cur.len } := by
  rw [Executor.place_of_travel (e := e.along cur d v) hp rfl hb]

theorem Executor.place_atEnd_travel {x y : Int} {h : Option Nat} (hp : e.position = some pos)
    (hb : cur.record.body = .travel x y h) : ((e.atEnd cur).place lead).position = some { pos with
      x := Machine.along cur.startX x cur.len cur.len
      y := Machine.along cur.startY y cur.len cur.len } := by
  rw [Executor.place_of_travel (e := e.atEnd cur) hp rfl hb]

end

section
variable {s : State} {cur : Current}

theorem endAtEnd_of_some (hc : s.executor.current = some cur) : endAtEnd s = s.setExecutor (s.executor.atEnd cur) := by
  simp only [endAtEnd, hc, Executor.atEnd]

/-- The carry goes nowhere with an exit of 0, or with neither a CUT nor an ACTIONS next (R110; log 23). -/
theorem carry_of_end {n exit excess speed : Nat}
    (h : exit = 0 ∨ ∀ q, s.executor.queue.head? = some q → q.body ≠ .actions ∧ ∀ k, q.body ≠ .cut k) :
    carry n exit excess speed s = endAtEnd s := by
  cases n with
  | zero => rfl
  | succ n =>
    unfold carry
    rcases h with h | h
    · exact if_pos h
    · split
      · rfl
      · split
        · rfl
        · next q rest hq =>
          obtain ⟨hno, hnocut⟩ := h q (by rw [hq]; rfl)
          split
          · exact absurd ‹_› hno
          · exact absurd ‹_› (hnocut _)
          · rfl

theorem pathFrame_of_short {v : Nat} (hv : newSpeed s cur = v) (h : cur.dist + v * s.period < cur.len) :
    pathFrame cur s =
      s.setExecutor ((s.executor.along cur (cur.dist + v * s.period) v).place s.blade.lead) := by
  unfold pathFrame advance
  rw [hv]
  dsimp only
  rw [if_pos h]
  rfl

theorem pathFrame_of_end {v : Nat} (hv : newSpeed s cur = v) (h : cur.len ≤ cur.dist + v * s.period)
    (hc : s.executor.current = some cur)
    (hend : (motionBounds s cur.record.body).1 = 0 ∨
      ∀ q, s.executor.queue.head? = some q → q.body ≠ .actions ∧ ∀ k, q.body ≠ .cut k) :
    pathFrame cur s = s.setExecutor ((s.executor.atEnd cur).place s.blade.lead) := by
  unfold pathFrame advance
  rw [hv]
  dsimp only
  rw [if_neg (Nat.not_lt.2 h), carry_of_end hend, endAtEnd_of_some hc]
  rfl

theorem motion_of_path (hst : s.executor.state = .cut ∨ s.executor.state = .stopping)
    (hc : s.executor.current = some cur) (hcc : cur.complete = false) : motion s = pathFrame cur s := by
  unfold motion pathState
  rcases hst with hst | hst <;> simp [hst, hc, hcc]

/-- What a frame along a path leaves alone that stays within its record. -/
theorem frameOnly_of_along {dist v lead : Nat} :
    FrameOnly s (closeFrame (s.setExecutor ((s.executor.along cur dist v).place lead))) := by
  refine closeFrame_frameOnly (FrameOnly.of_setExecutor ?_ ?_ ?_ ?_) <;> rw [Executor.place_eq] <;> rfl

theorem frameOnly_of_atEnd {lead : Nat} :
    FrameOnly s (closeFrame (s.setExecutor ((s.executor.atEnd cur).place lead))) := by
  refine closeFrame_frameOnly (FrameOnly.of_setExecutor ?_ ?_ ?_ ?_) <;> rw [Executor.place_eq] <;> rfl

/-- A frame that ends within a CUT at speed `v` is counted, with the CUT's load ceiling (R99). -/
theorem closeFrame_governor_along {c : CutRecord} {dist v lead : Nat} (hb : cur.record.body = .cut c) :
    (closeFrame (s.setExecutor ((s.executor.along cur dist v).place lead))).governor =
      s.governor.afterFrame (decide (s.executor.state = .cut) && decide (0 < v) && !s.executor.dry) c.snap.ceiling := by
  rw [closeFrame_governor_eq, State.setExecutor_executor, State.setExecutor_governor, Executor.place_eq]
  have hceil : Executor.ceiling { s.executor.along cur dist v with
      position := ((s.executor.along cur dist v).place lead).position } = c.snap.ceiling := by
    simp only [Executor.ceiling, Executor.along, hb]
  rw [hceil]
  rfl

theorem closeFrame_governor_atEnd {lead : Nat} :
    (closeFrame (s.setExecutor ((s.executor.atEnd cur).place lead))).governor = s.governor := by
  refine closeFrame_governor ?_
  rw [State.setExecutor_executor, Executor.place_eq]
  unfold counted
  simp [Executor.speed, Executor.atEnd]

/-- The frame of a record along a path that the frame neither begins nor leaves. -/
theorem execFrame_of_path {b : BladeEntry} {r : Setup} {e : Executor} {lead : Nat} (h : Framing b r s)
    (hset : settle s = s) (hst : startFrame s = s) (hm : motion s = s.setExecutor (e.place lead))
    (he : e.state = s.executor.state) (hi : s.executor.state ≠ .idle) :
    exec .frame s = .next (closeFrame (s.setExecutor (e.place lead))) :=
  execFrame_of_moved h hset hst hm (by rw [Executor.place_eq]; exact he ▸ hi)

end

/-! ## The heading along the path (R112) -/

/-- The heading of the CUT that holds the point `ahead` micrometres along `c` and the CUTs `ks` behind it, or of the
last of them. -/
def headingAlong : CutRecord → List CutRecord → Nat → Nat
  | c, [], _ => c.heading
  | c, k :: ks, ahead => if ahead ≤ c.len then c.heading else headingAlong k ks (ahead - c.len)

theorem pathCuts_of_cut {q : Record} {k : CutRecord} (hk : q.body = .cut k) (c : CutRecord) (rest : List Record) :
    pathCuts c (q :: rest) = c :: pathCuts k rest := by
  rw [pathCuts, hk]

theorem pathCuts_of_actions {q : Record} (hq : q.body = .actions) (c : CutRecord) (rest : List Record) :
    pathCuts c (q :: rest) = pathCuts c rest := by
  rw [pathCuts, hq]

theorem lookHeading_of_cut {q : Record} {k : CutRecord} (hk : q.body = .cut k) (rest : List Record)
    (ahead last : Nat) : lookHeading (q :: rest) ahead last =
      if ahead ≤ k.len then k.heading else lookHeading rest (ahead - k.len) k.heading := by
  rw [lookHeading, hk]

theorem lookHeading_of_actions {q : Record} (hq : q.body = .actions) (rest : List Record) (ahead last : Nat) :
    lookHeading (q :: rest) ahead last = lookHeading rest ahead last := by
  rw [lookHeading, hq]

theorem lookHeading_eq (queue : List Record) (c : CutRecord) (ahead : Nat) : ∃ ks, pathCuts c queue = c :: ks ∧
    (if ahead ≤ c.len then c.heading else lookHeading queue (ahead - c.len) c.heading) = headingAlong c ks ahead := by
  induction queue generalizing c ahead with
  | nil => exact ⟨[], rfl, ite_self _⟩
  | cons q rest ih =>
    cases hq : q.body with
    | cut k =>
      obtain ⟨ks, hks, hhead⟩ := ih k (ahead - c.len)
      refine ⟨k :: ks, by rw [pathCuts_of_cut hq, hks], ?_⟩
      rw [lookHeading_of_cut hq, hhead]
      rfl
    | actions =>
      rw [pathCuts_of_actions hq, lookHeading_of_actions hq]
      exact ih c ahead
    | _ =>
      rw [pathCuts, lookHeading, hq]
      exact ⟨[], rfl, ite_self _⟩

/-- The heading setpoint along a CUT, by the CUTs of the path. -/
theorem cutHeading_eq (lead : Nat) (queue : List Record) (c : CutRecord) (dist : Nat) :
    ∃ ks, pathCuts c queue = c :: ks ∧ cutHeading lead queue c dist = headingAlong c ks (dist + lead) :=
  lookHeading_eq queue c (dist + lead)

/-- The length of the first `n` of some CUTs. -/
def lengthUpTo (cuts : List CutRecord) (n : Nat) : Nat := ((cuts.take n).map fun k => k.len).sum

theorem lengthUpTo_succ (c : CutRecord) (ks : List CutRecord) (n : Nat) :
    lengthUpTo (c :: ks) (n + 1) = c.len + lengthUpTo ks n := by
  simp [lengthUpTo]

theorem headingAlong_of_index {c k : CutRecord} {ks : List CutRecord} {ahead i : Nat} (hk : (c :: ks)[i]? = some k)
    (hlo : i = 0 ∨ lengthUpTo (c :: ks) i < ahead) (hhi : ahead ≤ lengthUpTo (c :: ks) (i + 1)) :
    headingAlong c ks ahead = k.heading := by
  induction ks generalizing c ahead i with
  | nil =>
    cases i with
    | zero =>
      obtain rfl : c = k := by simpa using hk
      rfl
    | succ i => simp at hk
  | cons d ds ih =>
    cases i with
    | zero =>
      obtain rfl : c = k := by simpa using hk
      exact if_pos (by simpa [lengthUpTo] using hhi)
    | succ i =>
      have hlo := hlo.resolve_left (Nat.succ_ne_zero i)
      rw [lengthUpTo_succ] at hlo hhi
      refine (if_neg (by omega)).trans (ih (i := i) (by simpa using hk) ?_ (by omega))
      exact .inr (by omega)

theorem headingAlong_of_beyond {c k : CutRecord} {ks : List CutRecord} {ahead : Nat}
    (hk : (c :: ks).getLast? = some k) (h : lengthUpTo (c :: ks) (c :: ks).length < ahead) :
    headingAlong c ks ahead = k.heading := by
  induction ks generalizing c ahead with
  | nil =>
    obtain rfl : c = k := by simpa using hk
    rfl
  | cons d ds ih =>
    rw [List.length_cons, lengthUpTo_succ] at h
    exact (if_neg (by omega)).trans (ih (by simpa using hk) (by omega))

/-- Settles O44. -/
theorem cutFrameFollowsItsSpeedRule : Obligations.CutFrameFollowsItsSpeedRule := by
  unfold Obligations.CutFrameFollowsItsSpeedRule
  refine ⟨fun s b r pos cur c h hcalm hp hc hcc hb hre hst => ?frame, fun lead dist queue c => ?heading⟩
  case frame =>
    intro a bound least v d
    have hspeed : newSpeed s cur = v := by
      rw [newSpeed_of_running (by simp [hst]) (slowing_eq_false hcalm.noHalt hcalm.noAbort), motionBounds_of_cut hb,
        State.accel_of_setup h.setup, State.period_of_setup h.setup]
      rfl
    have hper : s.period = r.period := State.period_of_setup h.setup
    have hlead : s.blade.lead = b.lead := by rw [State.blade_of_some h.blade]
    have hset := settle_of_calm hcalm (by simp [hst])
    have hstart := startFrame_of_none (startOnce_of_busy hc hcc hcalm hre (by simp [hst]))
    have hmotion := motion_of_path (.inl hst) hc hcc
    refine ⟨runSpeed_le (Nat.le_max_left 1 _), fun hd => ?_, fun hd hend => ?_⟩
    · have hm := hmotion.trans (pathFrame_of_short hspeed (by rw [hper]; exact hd))
      have hv : 0 < v := runSpeed_pos (by omega)
      rw [hper, hlead] at hm
      refine ⟨_, execFrame_of_path h hset hstart hm rfl (by simp [hst]), ?_, ?_, ?_, frameOnly_of_along, ?_⟩
      · rw [closeFrame_current, State.setExecutor_executor, Executor.place_current]
        rfl
      · rw [closeFrame_position, State.setExecutor_executor, Executor.place_along_cut hp hb]
      · rw [closeFrame_state, State.setExecutor_executor, Executor.place_state]
        exact hst
      · rw [closeFrame_governor_along hb]
        simp [hst, hv]
    · have hm := hmotion.trans (pathFrame_of_end hspeed (by rw [hper]; exact hd) hc
        (hend.imp_left fun h0 => by rw [motionBounds_of_cut hb, h0]))
      rw [hlead] at hm
      refine ⟨_, { pos with
          x := along c.x0 c.x1 cur.len cur.len
          y := along c.y0 c.y1 cur.len cur.len
          heading := cutHeading b.lead s.executor.queue c cur.len },
        execFrame_of_path h hset hstart hm rfl (by simp [hst]), ?_, ?_, along_end _ _ _, along_end _ _ _, rfl, rfl,
        ?_, frameOnly_of_atEnd, closeFrame_governor_atEnd⟩
      · rw [closeFrame_current, State.setExecutor_executor, Executor.place_current]
        rfl
      · rw [closeFrame_position, State.setExecutor_executor, Executor.place_atEnd_cut hp hb]
      · rw [closeFrame_state, State.setExecutor_executor, Executor.place_state]
        exact hst
  case heading =>
    intro cuts upTo
    obtain ⟨ks, hks, hhead⟩ := cutHeading_eq lead queue c dist
    have hcuts : cuts = c :: ks := hks
    refine ⟨fun i k hk hlo hhi => ?_, fun k hk hlast => ?_⟩
    · rw [hhead]
      rw [hcuts] at hk
      simp only [upTo, hcuts] at hlo hhi
      exact headingAlong_of_index hk hlo hhi
    · rw [hhead]
      rw [hcuts] at hk
      simp only [upTo, hcuts] at hlast
      exact headingAlong_of_beyond hk hlast

end Sys2Proof.Machine

/-! # Frames of a TRAVEL, and frames that slow (R109, R115, R126, R129, R130) -/

namespace Sys2Proof.Machine

section
variable {s : State} {cur : Current} {pos : Position}

/-- The distance along its record at which a frame at speed `v` ends. -/
def Current.reached (cur : Current) (v t : Nat) : Nat :=
  if cur.dist < cur.len then min cur.len (cur.dist + v * t) else cur.dist

/-- The Executor after a frame of T ms along the TRAVEL `cur` to (`x`, `y`) at speed `v`, with a turning step of `step`
(R115). -/
def Executor.travelled (e : Executor) (cur : Current) (pos : Position) (x y : Int) (v t step : Nat) : Executor :=
  { e with
    position := some {
      x := if cur.dist < cur.len then Machine.along cur.startX x (cur.reached v t) cur.len else pos.x
      y := if cur.dist < cur.len then Machine.along cur.startY y (cur.reached v t) cur.len else pos.y
      z := pos.z
      heading := turnBy pos.heading (turnPart cur.turn step) }
    current := some { cur with
      dist := cur.reached v t
      speed := if cur.len ≤ cur.reached v t then 0 else v
      turn := cur.turn - turnPart cur.turn step
      complete := decide (cur.len ≤ cur.reached v t ∧ cur.turn - turnPart cur.turn step = 0) } }

/-- The XY move of a frame of a TRAVEL, before its turn. -/
theorem travelWay {x y : Int} {h : Option Nat} {v : Nat} (hp : s.executor.position = some pos)
    (hc : s.executor.current = some cur) (hb : cur.record.body = .travel x y h) (hv : newSpeed s cur = v) :
    ∃ speed complete, (if cur.dist < cur.len then pathFrame cur s else s) = s.setExecutor { s.executor with
      position := some { pos with
        x := if cur.dist < cur.len then along cur.startX x (cur.reached v s.period) cur.len else pos.x
        y := if cur.dist < cur.len then along cur.startY y (cur.reached v s.period) cur.len else pos.y }
      current := some { cur with dist := cur.reached v s.period, speed := speed, complete := complete } } ∧
      (¬ cur.len ≤ cur.reached v s.period → speed = v) := by
  unfold Current.reached
  by_cases hmove : cur.dist < cur.len
  · simp only [if_pos hmove]
    by_cases hd : cur.dist + v * s.period < cur.len
    · refine ⟨v, cur.complete, ?_, fun _ => rfl⟩
      rw [pathFrame_of_short hv hd, Executor.place_eq, Executor.place_along_travel hp hb,
        Nat.min_eq_right (Nat.le_of_lt hd)]
      rfl
    · have hlen : cur.len ≤ cur.dist + v * s.period := Nat.not_lt.1 hd
      refine ⟨0, true, ?_, fun hno => absurd (Nat.le_of_eq (Nat.min_eq_left hlen).symm) hno⟩
      rw [pathFrame_of_end hv hlen hc (.inl (by rw [motionBounds_of_travel hb])), Executor.place_eq,
        Executor.place_atEnd_travel hp hb, Nat.min_eq_left hlen]
      rfl
  · simp only [if_neg hmove]
    refine ⟨cur.speed, cur.complete, ?_, fun hno => absurd (Nat.not_lt.1 hmove) hno⟩
    rw [← hp, ← hc]
    rfl

/-- A frame of a TRAVEL: the XY move and the turn in parallel, complete when both are (R115). -/
theorem travelFrame_eq {x y : Int} {h : Option Nat} {v : Nat} (hp : s.executor.position = some pos)
    (hc : s.executor.current = some cur) (hb : cur.record.body = .travel x y h) (hv : newSpeed s cur = v) :
    travelFrame cur s =
      s.setExecutor (s.executor.travelled cur pos x y v s.period (perFrame s.blade.airRate s.period)) := by
  obtain ⟨speed, complete, hway, hspeed⟩ := travelWay hp hc hb hv
  unfold travelFrame
  rw [hway]
  show State.setExecutor _ _ = _
  simp only [Executor.turnFrame, State.setExecutor_executor, Executor.travelled]
  by_cases hend : cur.len ≤ cur.reached v s.period
  · simp only [hend, true_and]
    rfl
  · simp only [hspeed hend, hend, false_and, decide_false]
    rfl

theorem motion_of_travel {x y : Int} {h : Option Nat} (hst : s.executor.state = .travel)
    (hc : s.executor.current = some cur) (hcc : cur.complete = false) (hb : cur.record.body = .travel x y h) :
    motion s = travelFrame cur s := by
  unfold motion travelState
  simp [hst, hc, hcc, hb]

/-- Along a record in progress at a speed above 0, or in a TRAVEL with only its turn left, the Executor is not at rest
(R126; log 32). -/
theorem Executor.atRest_of_moving {e : Executor} (hst : e.state = .cut ∨ e.state = .travel)
    (hc : e.current = some cur) (hcc : cur.complete = false) (hv : 0 < cur.speed ∨ cur.len ≤ cur.dist) :
    e.atRest = false := by
  unfold Executor.atRest
  rcases hst with hst | hst <;> simp only [hst, hc, hcc] <;> rcases hv with hv | hv <;> simp <;> omega

/-- A record along a path in progress, at rest under neither a halt nor an abort, takes the frame. -/
theorem started_of_path (hq : Quiet s) (hsd : s.executor.stepDone = false)
    (hst : s.executor.state = .cut ∨ s.executor.state = .travel)
    (hc : s.executor.current = some cur) (hcc : cur.complete = false)
    (hv : s.executor.haltRequest = true ∨ s.part.abortFlag = true → 0 < cur.speed ∨ cur.len ≤ cur.dist) :
    settle s = s ∧ startFrame s = s := by
  have hb : s.executor.state.begins = true := by rcases hst with hst | hst <;> rw [hst] <;> rfl
  have hns : s.executor.state ≠ .stopping := by rcases hst with hst | hst <;> rw [hst] <;> simp
  have hrest : slowing s = true → s.executor.atRest = false := fun hs =>
    Executor.atRest_of_moving hst hc hcc (hv ((slowing_iff s).1 hs))
  have hhalt : s.executor.haltRequest = false ∨ s.executor.atRest = false := by
    cases hh : s.executor.haltRequest
    · exact .inl rfl
    · exact .inr (hrest ((slowing_iff s).2 (.inl hh)))
  have habort : s.part.abortFlag = false ∨ s.executor.atRest = false := by
    cases ha : s.part.abortFlag
    · exact .inl rfl
    · exact .inr (hrest ((slowing_iff s).2 (.inr ha)))
  exact ⟨settle_of_quiet hq (.inl hsd) hhalt habort (.inl hns),
    startFrame_of_none (startOnce_of_midStep hb hsd (.inl (Executor.free_of_busy hc hcc)) habort _)⟩

/-- In STOPPING above speed 0 a frame takes nothing before its motion and starts nothing. -/
theorem started_of_stopping (hq : Quiet s) (hsd : s.executor.stepDone = false) (hst : s.executor.state = .stopping)
    (hc : s.executor.current = some cur) (hv : 0 < cur.speed) : settle s = s ∧ startFrame s = s := by
  have hrest : s.executor.atRest = false := by unfold Executor.atRest; rw [hst]
  have hspeed : s.executor.speed ≠ 0 := by simp only [Executor.speed, hc]; omega
  exact ⟨settle_of_quiet hq (.inl hsd) (.inr hrest) (.inr hrest) (.inr hspeed),
    startFrame_of_none (startOnce_of_still (.inr (.inr (.inl hst))) _)⟩

end

/-- Settles O43. -/
theorem travelAndSlowingFrames : Obligations.TravelAndSlowingFrames := by
  unfold Obligations.TravelAndSlowingFrames
  intro s b r pos cur h hq hp hc hcc _ hsd slowed a
  have hper : s.period = r.period := State.period_of_setup h.setup
  have hacc : s.accel = r.accel := State.accel_of_setup h.setup
  have hblade : s.blade = b := State.blade_of_some h.blade
  refine ⟨fun x y hd hst hb hv => ?travel, fun exit slow hv hwhich => ?slow⟩
  case travel =>
    intro limit least step part
    obtain ⟨hset, hstart⟩ := started_of_path hq hsd (.inr hst) hc hcc hv
    have hslow : slowed → newSpeed s cur = min (cur.speed - a) limit := fun hs => by
      rw [newSpeed_of_slowing (by simp [hst]) ((slowing_iff s).2 hs), motionBounds_of_travel hb, hacc, hper]
      rfl
    have hrun : ¬ slowed → newSpeed s cur = if least < 1 ∧ 0 < cur.len - cur.dist then 1 else least := fun hs => by
      rw [newSpeed_of_running (by simp [hst]) (Bool.eq_false_iff.2 fun hsl => hs ((slowing_iff s).1 hsl)),
        motionBounds_of_travel hb, hacc, hper, State.travelSpeed_of_setup h.setup]
      rfl
    have hm := (motion_of_travel hst hc hcc hb).trans (travelFrame_eq hp hc hb rfl)
    rw [hper, hblade] at hm
    have hcut : (s.executor.travelled cur pos x y (newSpeed s cur) r.period (perFrame b.airRate r.period)).state ≠
        .cut := by
      show s.executor.state ≠ .cut
      simp [hst]
    exact ⟨newSpeed s cur, cur.reached (newSpeed s cur) r.period, _, _,
      execFrame_of_moved h hset hstart hm (by rw [Executor.travelled, hst]; exact ExecState.noConfusion), hslow, hrun,
      rfl, closeFrame_current _, closeFrame_position _, rfl, rfl, fun hmove => ⟨if_pos hmove, if_pos hmove⟩,
      fun hmove => ⟨if_neg (Nat.not_lt.2 hmove), if_neg (Nat.not_lt.2 hmove)⟩, (closeFrame_state _).trans hst,
      closeFrame_governor_of_moved hcut, closeFrame_frameOnly (FrameOnly.of_setExecutor rfl rfl rfl rfl)⟩
  case slow =>
    intro v d
    have hpath : s.executor.state = .cut ∨ s.executor.state = .stopping :=
      hwhich.imp (fun h => h.1) (fun h => h.1)
    have hidle : s.executor.state ≠ .idle := by rcases hpath with hst | hst <;> rw [hst] <;> simp
    obtain ⟨hset, hstart⟩ : settle s = s ∧ startFrame s = s := by
      rcases hpath with hst | hst
      · exact started_of_path hq hsd (.inl hst) hc hcc fun _ => .inl hv
      · exact started_of_stopping hq hsd hst hc hv
    have hexit : (motionBounds s cur.record.body).1 = exit := by
      rcases hwhich with ⟨-, -, -, c, hb, he⟩ | ⟨-, -, ⟨c, hb, he⟩ | ⟨he, x, y, hd, hb⟩⟩
      · rw [motionBounds_of_cut hb, he]
      · rw [motionBounds_of_cut hb, he]
      · rw [motionBounds_of_travel hb, he]
    have hspeed : newSpeed s cur = v := by
      rcases hwhich with ⟨hst, hs, hslow, -⟩ | ⟨hst, hslow, -⟩
      · rw [newSpeed_of_slowing (by simp [hst]) ((slowing_iff s).2 hs), hexit, hacc, hper]
        simp only [v, hslow]
        rfl
      · rw [newSpeed_of_stopping hst, hexit, hacc, hper, State.stopDecel_of_setup h.setup]
        simp only [v, hslow]
        rfl
    have hmotion := motion_of_path hpath hc hcc
    refine ⟨fun hd => ?_, fun hd hend => ?_⟩
    · have hm := hmotion.trans (pathFrame_of_short hspeed (by rw [hper]; exact hd))
      rw [hper, hblade] at hm
      refine ⟨_, execFrame_of_path h hset hstart hm rfl hidle, ?_, ?_, frameOnly_of_along, fun c hb => ⟨?_, ?_⟩,
        fun x y hd hb => ⟨?_, ?_⟩⟩
      · rw [closeFrame_state, State.setExecutor_executor, Executor.place_state]
        rfl
      · rw [closeFrame_current, State.setExecutor_executor, Executor.place_current]
        rfl
      · rw [closeFrame_position, State.setExecutor_executor, Executor.place_along_cut hp hb]
      · exact closeFrame_governor_along hb
      · rw [closeFrame_position, State.setExecutor_executor, Executor.place_along_travel hp hb]
      · have hst : s.executor.state = .stopping := by
          rcases hwhich with ⟨-, -, -, c, hcut, -⟩ | ⟨hst, -⟩
          · rw [hb] at hcut; cases hcut
          · exact hst
        refine closeFrame_governor (counted_of_ne_cut ?_)
        rw [State.setExecutor_executor, Executor.place_state]
        show s.executor.state ≠ .cut
        simp [hst]
    · have hm := hmotion.trans (pathFrame_of_end hspeed (by rw [hper]; exact hd) hc (hend.imp_left hexit.trans))
      rw [hblade] at hm
      refine ⟨_, execFrame_of_path h hset hstart hm rfl hidle, ?_, ?_, frameOnly_of_atEnd, closeFrame_governor_atEnd,
        fun c hb => ?_, fun x y hd hb => ?_⟩
      · rw [closeFrame_state, State.setExecutor_executor, Executor.place_state]
        rfl
      · rw [closeFrame_current, State.setExecutor_executor, Executor.place_current]
        rfl
      · rw [closeFrame_position, State.setExecutor_executor, Executor.place_atEnd_cut hp hb]
      · rw [closeFrame_position, State.setExecutor_executor, Executor.place_atEnd_travel hp hb]

end Sys2Proof.Machine

/-! # Beginning a record (R107): its actions, and the releases behind it (R83) -/

namespace Sys2Proof.Machine

/-! ## Actions performed -/

section
variable {s t u : State}

/-- Actions switch the lines, and nothing else of the Port (R140). -/
theorem performActions_port (as : List Action) (s : State) :
    (performActions s as).port = { s.port with lines := linesAfter as s.port.lines } := by
  induction as generalizing s with
  | nil => rfl
  | cons a as ih =>
    refine (ih (performAction s a)).trans ?_
    cases a with
    | mark tag =>
      have hport : (performAction s (.mark tag)).port = s.port := by
        unfold performAction reportMark
        dsimp only
        split <;> rfl
      rw [hport]
      rfl
    | aux tag mask values => rfl

theorem performActions_events (as : List Action) (s : State) :
    (performActions s as).report.events = s.report.events := by
  refine performActions_induct (P := fun t => t.report.events = s.report.events) (fun t a h => ?_) as s rfl
  cases a with
  | mark tag =>
    unfold performAction reportMark
    dsimp only
    split <;> exact h
  | aux tag mask values => exact h

theorem reportMark_marks (tag : Tag) (h : s.report.marks.length ≤ 8) :
    (reportMark tag s).report.marks = (s.report.marks ++ [tag]).take 8 ∧
      (reportMark tag s).report.lost = (s.report.lost || decide (8 < s.report.marks.length + 1)) := by
  have hcap : Config.markCap = 8 := rfl
  unfold reportMark
  split
  · next hlt =>
    rw [hcap] at hlt
    refine ⟨(List.take_of_length_le (by simpa using hlt)).symm, ?_⟩
    simp [show ¬ 8 < s.report.marks.length + 1 by omega]
  · next hge =>
    rw [hcap] at hge
    have h8 : s.report.marks.length = 8 := by omega
    refine ⟨?_, by simp [h8]⟩
    rw [List.take_append_of_le_length (by omega), List.take_of_length_le (by omega)]
    rfl

theorem Performs.refl (s : State) : Performs [] s s :=
  ⟨rfl, fun h => by simp [marksOf, List.take_of_length_le h], fun h => by simp [marksOf]; omega⟩

theorem marksOf_append (as bs : List Action) : marksOf (as ++ bs) = marksOf as ++ marksOf bs := by
  induction as with
  | nil => rfl
  | cons a as ih => cases a <;> simp [marksOf, ih]

theorem linesAfter_append (as bs : List Action) (lines : Lines) :
    linesAfter (as ++ bs) lines = linesAfter bs (linesAfter as lines) := by
  induction as generalizing lines with
  | nil => rfl
  | cons a as ih => cases a <;> exact ih _

theorem take_append_take {α : Type} (n : Nat) (as bs : List α) : (as.take n ++ bs).take n = (as ++ bs).take n := by
  rw [List.take_append, List.take_append, List.take_take, Nat.min_self, List.length_take]
  congr 2
  omega

/-- The actions of two records, one after the other. -/
theorem Performs.trans {as bs : List Action} (h : Performs as s t) (k : Performs bs t u) : Performs (as ++ bs) s u := by
  have hlen : s.report.marks.length ≤ 8 → t.report.marks.length ≤ 8 := fun hs => by
    rw [h.marks hs]
    exact (List.length_take_le _ _)
  refine ⟨by rw [k.lines, h.lines, linesAfter_append], fun hs => ?_, fun hs => ?_⟩
  · rw [k.marks (hlen hs), h.marks hs, marksOf_append, take_append_take, List.append_assoc]
  · rw [k.lost (hlen hs), h.lost hs, h.marks hs, marksOf_append, Bool.or_assoc]
    congr 1
    rw [List.length_take, List.length_append, List.length_append, ← Bool.decide_or]
    congr 1
    rw [eq_iff_iff]
    omega

theorem performAction_performs (s : State) (a : Action) : Performs [a] s (performAction s a) := by
  cases a with
  | mark tag =>
    refine ⟨?_, fun h => (reportMark_marks tag h).1, fun h => (reportMark_marks tag h).2⟩
    exact congrArg Port.lines (performActions_port [.mark tag] s)
  | aux tag mask values =>
    exact ⟨rfl, (Performs.refl s).marks, (Performs.refl s).lost⟩

theorem performActions_performs (s : State) (as : List Action) : Performs as s (performActions s as) := by
  induction as generalizing s with
  | nil => exact Performs.refl s
  | cons a as ih => exact (performAction_performs s a).trans (ih (performAction s a))

/-- The lines and the marks are all that `Performs` speaks of. -/
theorem Performs.of_same {as : List Action} {s' t' : State} (h : Performs as s t) (hl : t'.port.lines = t.port.lines)
    (hm : t'.report.marks = t.report.marks) (hlost : t'.report.lost = t.report.lost)
    (hs : s'.port.lines = s.port.lines) (hsr : s'.report = s.report) : Performs as s' t' := by
  refine ⟨by rw [hl, h.lines, hs], ?_, ?_⟩
  · rw [hm, hsr]; exact h.marks
  · rw [hlost, hsr]; exact h.lost

end

/-! ## Releases one after another -/

section
variable {s t u : State}

/-- The release rules speak of the window, the release point and the intake queue alone. -/
theorem Released.of_same {left : List Record} {s' t' : State} (h : Released left s t)
    (hp : s'.planner = s.planner) (hl : s'.link = s.link) (hw : t'.planner.window = t.planner.window)
    (hr : t'.planner.releasePoint = t.planner.releasePoint) (hq : t'.executor.queue = t.executor.queue) :
    Released left s' t' := by
  have hcall : s'.callsFor left.length = s.callsFor left.length := by
    unfold State.callsFor
    rw [hp, hl]
  refine ⟨?_, ?_, ?_⟩
  · rw [hcall, hp, hq]; exact h.queue
  · rw [hcall, hp, hw]; exact h.window
  · rw [hcall, hp, hr]; exact h.releasePoint

theorem Planner.dueCount_of_none {p : Planner} (h : p.releasePoint = none) : p.dueCount = 0 := by
  simp only [Planner.dueCount, h]

theorem Planner.dueCount_of_some {p : Planner} {i : Nat} (h : p.releasePoint = some i) : p.dueCount = i + 1 := by
  simp only [Planner.dueCount, h]

/-- What is due after some records have gone. -/
theorem Released.dueCount {left : List Record} (h : Released left s t) :
    t.planner.dueCount = s.planner.dueCount - s.callsFor left.length := by
  have hr := h.releasePoint
  split at hr
  · next hle => rw [Planner.dueCount_of_none hr, Nat.sub_eq_zero_of_le hle]
  · next hnot =>
    rw [Planner.dueCount_of_some hr]
    omega

/-- The records that can leave the window are those before the first without its heading. -/
theorem takeWhile_drop_length {α : Type} (p : α → Bool) (l : List α) {k : Nat} (hk : k ≤ (l.takeWhile p).length) :
    ((l.drop k).takeWhile p).length = (l.takeWhile p).length - k := by
  induction k generalizing l with
  | zero => simp
  | succ k ih =>
    cases l with
    | nil => simp
    | cons a l =>
      cases hp : p a with
      | false => simp [hp] at hk
      | true =>
        simp only [List.takeWhile_cons, hp, if_true, List.length_cons] at hk ⊢
        rw [List.drop_succ_cons, ih l (by omega)]
        omega

theorem State.callsFor_mono (s : State) {n m : Nat} (h : n ≤ m) : s.callsFor m ≤ s.callsFor n := by
  unfold State.callsFor
  refine min_le_min (max_le_max le_rfl (max_le_max le_rfl ?_)) (min_le_min (by omega) le_rfl)
  split <;> omega

/-- Once the rules have been applied for a longer queue, what they call for with `n` records before it is what they call
for in all, less what has gone. -/
theorem Released.callsFor {left : List Record} (h : Released left s t) (hl : t.link = s.link) (n : Nat) :
    t.callsFor (n + s.callsFor left.length) = s.callsFor n - s.callsFor left.length := by
  have hk : s.callsFor left.length ≤ (s.planner.window.takeWhile fun w => !w.record.body.headless).length :=
    (Nat.min_le_right _ _).trans (Nat.min_le_right _ _)
  have hheaded : (t.planner.window.takeWhile fun w => !w.record.body.headless).length =
      (s.planner.window.takeWhile fun w => !w.record.body.headless).length - s.callsFor left.length := by
    rw [h.window, takeWhile_drop_length _ _ hk]
  have hlen : t.planner.window.length = s.planner.window.length - s.callsFor left.length := by
    rw [h.window, List.length_drop]
  have hdue := h.dueCount
  generalize s.callsFor left.length = k at hheaded hlen hdue
  have hidle : (if s.link.intake = [] then 2 - (n + k) else 0) = (if s.link.intake = [] then 2 - n else 0) - k := by
    split <;> omega
  unfold State.callsFor
  rw [hheaded, hlen, hdue, hl, hidle, Nat.sub_right_comm, Nat.sub_add_eq, Nat.sub_max_sub_right, Nat.sub_max_sub_right,
    Nat.sub_min_sub_right, Nat.sub_min_sub_right]

/-- Two applications of the release rules, with the queue shortened between them, are one. -/
theorem Released.again {before left : List Record} (h : Released (before ++ left) s t) (hl : t.link = s.link)
    (k : Released (left ++ (s.planner.window.take (s.callsFor (before ++ left).length)).map fun w => w.record) t u) :
    Released left s u := by
  have hle := s.callsFor_mono (n := left.length) (m := (before ++ left).length) (by simp)
  have hcall := h.callsFor hl left.length
  have hcount : (s.planner.window.take (s.callsFor (before ++ left).length)).length =
      s.callsFor (before ++ left).length := by
    rw [List.length_take, Nat.min_eq_left]
    exact ((Nat.min_le_right _ _).trans (Nat.min_le_right _ _)).trans (List.takeWhile_prefix _).length_le
  have hlen : (left ++ (s.planner.window.take (s.callsFor (before ++ left).length)).map fun w => w.record).length =
      left.length + s.callsFor (before ++ left).length := by
    rw [List.length_append, List.length_map, hcount]
  obtain ⟨hq, hw, hr⟩ := k
  rw [hlen, hcall] at hq hw hr
  refine ⟨?_, ?_, ?_⟩
  · rw [hq, h.window, List.append_assoc, ← List.map_append, ← List.take_add, Nat.add_sub_cancel' hle]
  · rw [hw, h.window, List.drop_drop, Nat.add_sub_cancel' hle]
  · rw [hr, h.dueCount]
    by_cases hd : s.planner.dueCount ≤ s.callsFor left.length
    · rw [if_pos (by omega), if_pos hd]
    · rw [if_neg (by omega), if_neg hd]
      congr 1
      omega

end

end Sys2Proof.Machine

/-! # A frame that begins the next record (R107) -/

namespace Sys2Proof.Machine

/-! ## The Planner's moment behind a record begun -/

section
variable {s : State}

/-- Where the Planner does not work its moment does nothing. -/
theorem plannerMoment_of_notWorking (h : plannerWorks s = false) : plannerMoment s = s := by
  have hloop : ∀ n, releaseLoop n s = s := by
    intro n
    cases n with
    | zero => rfl
    | succ n => simp [releaseLoop, h]
  unfold plannerMoment applyReleases
  rw [hloop]
  simp [actionsDue, h]

theorem applyReleases_dwellTimer (h : s.executor.dwellTimer = .stopped) :
    (applyReleases s).executor.dwellTimer = .stopped := by
  refine releaseLoop_induct (P := fun t => t.executor.dwellTimer = .stopped) (fun t ht _ _ _ => ?_) _ s h
  unfold releaseHead
  split
  · exact ht
  · simp [ht]

theorem appendRecord_dwellTimer (w : WindowEntry) (h : s.executor.dwellTimer = .stopped) :
    (appendRecord w s).executor.dwellTimer = .stopped := by
  have hjoin : (joinWindow w (startsWork s)).executor.dwellTimer = .stopped := by
    rw [joinWindow_executor, startsWork_executor, h]
  unfold appendRecord releaseFull
  split
  · exact applyReleases_dwellTimer hjoin
  · exact hjoin

/-- A dwell timer that is stopped stays stopped. -/
theorem plannerMoment_dwellTimer (h : s.executor.dwellTimer = .stopped) :
    (plannerMoment s).executor.dwellTimer = .stopped := by
  unfold plannerMoment
  dsimp only
  split
  · exact applyReleases_dwellTimer (appendRecord_dwellTimer _ (applyReleases_dwellTimer h))
  · exact applyReleases_dwellTimer h

/-- What a working Planner's moment releases, where no ACTIONS record is to be made (R83). -/
theorem plannerMoment_released (hw : plannerWorks s = true) (h : s.link.intake ≠ [] ∨ s.planner.actions = []) :
    Released s.executor.queue s (plannerMoment s) := by
  have heq : plannerMoment s = applyReleases s := h.elim plannerMoment_of_intake plannerMoment_of_noActions
  rw [heq]
  exact applyReleases_released hw

end

/-! ## Beginning a record -/

/-- The Executor at `pos` with the record `q` just begun, and `queue` behind it (R107). -/
def Executor.begun (e : Executor) (q : Record) (pos : Position) (queue : List Record) : Executor :=
  { e with
    current := some ⟨q, 0, 0, 0, pos.x, pos.y, 0, false⟩
    currentTag := q.tag
    heldPlunge := match q.body.plunge? with
      | some p => some p
      | none => e.heldPlunge
    queue := queue
    reentry := none
    reentering := false
    stepDone := false
    dwellTimer := .stopped }

/-- `v` is `s` with the record `q` just begun at `pos`: beside what `Begun` says, the whole Executor, and what else
stays. -/
structure BegunAt (pos : Position) (q : Record) (rest : List Record) (s v : State) : Prop extends Begun q rest s v where
  executor : v.executor = s.executor.begun q pos v.executor.queue
  governor : v.governor = s.governor
  port : v.port = { s.port with lines := linesAfter q.actions s.port.lines }
  events : v.report.events = s.report.events
  setup : v.part.setup = s.part.setup
  abortFlag : v.part.abortFlag = s.part.abortFlag
  state : v.part.state = s.part.state ∨ (s.part.state = .parked ∧ v.part.state = .running)
  stream : v.planner.stream = s.planner.stream
  inReset : v.part.inReset = s.part.inReset
  noActions : s.planner.actions = [] → v.planner.actions = []

section
variable {s : State} {q : Record} {rest : List Record} {pos : Position}

/-- The state with the record begun and its actions performed, before the Planner's moment. -/
theorem beginRecord_eq (hp : s.executor.position = some pos) : beginRecord q rest s =
    plannerMoment (performActions (s.setExecutor (s.executor.begun q pos rest)) q.actions) := by
  unfold beginRecord
  simp only [Executor.freshCurrent, hp]
  rfl

theorem heldPlunge_begun (q : Record) (held : Option Nat) : (match q.body.plunge? with
      | some p => some p
      | none => held) = (match q.body with
      | .cut c => some c.snap.plunge
      | .enter _ _ _ p => some p
      | .pivot p => p.plunge.or held
      | _ => held) := by
  cases q.body with
  | pivot p => cases h : p.plunge <;> simp [Body.plunge?, h]
  | _ => rfl

theorem beginRecord_begun (hp : s.executor.position = some pos) :
    BegunAt pos q rest s (beginRecord q rest s) := by
  rw [beginRecord_eq hp]
  generalize hu : performActions (s.setExecutor (s.executor.begun q pos rest)) q.actions = u
  have he : u.executor = s.executor.begun q pos rest := by rw [← hu, performActions_executor]; rfl
  have hlink : u.link = s.link := by rw [← hu, performActions_link]; rfl
  have hplanner : u.planner = s.planner := by rw [← hu, performActions_planner]; rfl
  have hpart : u.part = s.part := by rw [← hu, performActions_part]; rfl
  have htables : u.tables = s.tables := by rw [← hu, performActions_tables]; rfl
  have hgov : u.governor = s.governor := by rw [← hu, performActions_governor]; rfl
  have hport : u.port = { s.port with lines := linesAfter q.actions s.port.lines } := by
    rw [← hu, performActions_port]; rfl
  have hevents : u.report.events = s.report.events := by rw [← hu, performActions_events]; rfl
  have hresp : u.report.responses = s.report.responses := by rw [← hu, performActions_responses]; rfl
  have hpend : u.pending = s.pending := by rw [← hu, performActions_pending]; rfl
  have hperf : Performs q.actions s u := by
    rw [← hu]
    exact (performActions_performs (s.setExecutor _) q.actions).of_same rfl rfl rfl rfl rfl
  have hframe := plannerMoment_frame u
  have hdwell : (plannerMoment u).executor.dwellTimer = .stopped := plannerMoment_dwellTimer (by rw [he]; rfl)
  have hexec : (plannerMoment u).executor = s.executor.begun q pos (plannerMoment u).executor.queue := by
    rw [hframe.executor, hdwell, he]
    rfl
  exact {
    toPerforms := hperf.of_same (by rw [hframe.port]) (by rw [hframe.report]) (by rw [hframe.report]) rfl rfl
    tag := by rw [hexec]; rfl
    current := ⟨_, by rw [hexec]; rfl, rfl⟩
    plunge := by rw [hexec]; exact heldPlunge_begun q _
    reentry := by rw [hexec]; rfl
    dwell := hdwell
    queue := by
      have h := plannerMoment_prefix u
      rw [he] at h
      exact h
    released := fun hstate habort hact => by
      have hw : plannerWorks u = true := (plannerWorks_iff u).2 (by rw [hpart]; exact ⟨hstate, habort⟩)
      have h := plannerMoment_released hw (by rw [hlink, hplanner]; exact hact)
      rw [he] at h
      exact h.of_same hplanner.symm hlink.symm rfl rfl rfl
    link := hframe.link.trans hlink
    tables := hframe.tables.trans htables
    responses := by rw [hframe.report, hresp]
    record := by rw [hframe.record, hpart]
    pending := hframe.pending.trans hpend
    executor := hexec
    governor := hframe.governor.trans hgov
    port := hframe.port.trans hport
    events := by rw [hframe.report, hevents]
    setup := by rw [hframe.setup, hpart]
    abortFlag := by rw [hframe.abortFlag, hpart]
    state := by
      have h := hframe.state
      rw [hpart] at h
      exact h
    stream := by rw [hframe.stream, hplanner]
    inReset := by rw [hframe.inReset, hpart]
    noActions := fun h => by
      rw [plannerMoment_of_noActions (by rw [hplanner, h]), applyReleases_actions, hplanner, h] }

/-- Nothing that follows the beginning of a record in its frame, and leaves alone what `FrameOnly` names, undoes it. -/
theorem Begun.later {v t : State} (h : Begun q rest s v) (k : FrameOnly v t)
    (hr : t.executor.reentry = v.executor.reentry) (hd : t.executor.dwellTimer = v.executor.dwellTimer)
    (hc : ∃ c, t.executor.current = some c ∧ c.record = q) : Begun q rest s t where
  toPerforms := h.toPerforms.of_same k.lines (by rw [k.report]) (by rw [k.report]) rfl rfl
  tag := k.tag.trans h.tag
  current := hc
  plunge := k.heldPlunge.trans h.plunge
  reentry := hr.trans h.reentry
  dwell := hd.trans h.dwell
  queue := by rw [k.queue]; exact h.queue
  released := fun h1 h2 h3 => (h.released h1 h2 h3).of_same rfl rfl (by rw [k.planner]) (by rw [k.planner]) k.queue
  link := k.link.trans h.link
  tables := k.tables.trans h.tables
  responses := by rw [k.report]; exact h.responses
  record := by rw [k.part]; exact h.record
  pending := k.pending.trans h.pending

end

end Sys2Proof.Machine

/-! # The first frame of a record's work (R107, R113 to R121) -/

namespace Sys2Proof.Machine

/-! ## The record in progress keeps its fields -/

namespace Executor

theorem finishStep_record {e : Executor} {cur : Current} (hc : e.current = some cur) :
    ∃ c, e.finishStep.current = some c ∧ c.record = cur.record := by
  rcases e.finishStep_cases with h | h | h <;> rw [h]
  · exact ⟨cur, hc, rfl⟩
  · exact ⟨_, completeCurrent_of_some hc, rfl⟩
  · exact ⟨cur, hc, rfl⟩

theorem zMoved_record {e : Executor} {cur : Current} {pos : Position} {m : ZMove} {t : Nat}
    (hc : e.current = some cur) : ∃ c, (e.zMoved pos m t).current = some c ∧ c.record = cur.record := by
  unfold zMoved
  dsimp only
  split
  · exact finishStep_record hc
  · exact ⟨cur, hc, rfl⟩

theorem turned_record {e : Executor} {cur : Current} {pos : Position} {step : Nat} :
    ∃ c, (e.turned pos cur step).current = some c ∧ c.record = cur.record ∧
      c.turn = cur.turn - turnPart cur.turn step := by
  unfold turned
  dsimp only
  split
  · rcases finishStep_cases { e with
      position := some { pos with heading := turnBy pos.heading (turnPart cur.turn step) }
      current := some { cur with turn := cur.turn - turnPart cur.turn step } } with h | h | h <;> rw [h] <;>
      exact ⟨_, rfl, rfl, rfl⟩
  · exact ⟨_, rfl, rfl, rfl⟩

end Executor

/-! ## A record just begun, its work not yet started -/

/-- `v` is `s` with the record `q` just begun at `pos`, under setup record `r` and blade table `b`, in a calm part. -/
structure Fresh (b : BladeEntry) (r : Setup) (pos : Position) (q : Record) (rest : List Record) (s v : State) : Prop
    extends Begun q rest s v where
  position : v.executor.position = some pos
  fresh : v.executor.current = some ⟨q, 0, 0, 0, pos.x, pos.y, 0, false⟩
  setup : v.part.setup = some r
  blade : v.tables.blade = some b
  noAbort : v.part.abortFlag = false
  noHalt : v.executor.haltRequest = false
  stepDone : v.executor.stepDone = false
  reentering : v.executor.reentering = false

section
variable {s v : State} {b : BladeEntry} {r : Setup} {q : Record} {rest : List Record} {pos : Position}

theorem BegunAt.fresh (h : BegunAt pos q rest s v) (hf : Free b r pos s) : Fresh b r pos q rest s v where
  toBegun := h.toBegun
  position := by rw [h.executor]; exact hf.position
  fresh := by rw [h.executor]; rfl
  setup := h.setup.trans hf.setup
  blade := by rw [h.tables]; exact hf.blade
  noAbort := h.abortFlag.trans hf.noAbort
  noHalt := by rw [h.executor]; exact hf.noHalt
  stepDone := by rw [h.executor]; rfl
  reentering := by rw [h.executor]; rfl

/-- The next record is begun, and its work starts (R107). -/
theorem startNext_of_record (hh : s.executor.haltRequest = false) (hp : s.executor.standoffPending = false)
    (hq : s.executor.queue = q :: rest) (hst : ∀ h, s.executor.state ≠ .standoff h) (first : Bool) :
    startNext first s = some (startWork q (beginRecord q rest s)) := by
  unfold startNext
  rw [if_neg (ne_true_of_eq_false hh), if_neg (ne_true_of_eq_false hp)]
  cases hs : s.executor.state with
  | standoff h => exact absurd hs (hst h)
  | _ => simp only [hq]

/-- With a record at the head of its queue a free Executor begins it, and its work starts (R107). -/
theorem Free.begins (h : Free b r pos s) (hb : s.executor.state.begins = true)
    (hq : s.executor.queue = q :: rest) :
    settle s = s ∧ ∀ first, startOnce first s = some (startWork q (beginRecord q rest s)) := by
  have hne : s.executor.state ≠ .stopping ∧ ∀ h, s.executor.state ≠ .standoff h := by
    constructor
    · intro hst; rw [hst] at hb; cases hb
    · intro h hst; rw [hst] at hb; cases hb
  exact ⟨settle_of_calm h.toCalm hne.1, fun first => by
    rw [startOnce_of_free h.toCalm hb h.noReentry h.free, startNext_of_record h.noHalt h.noStandoff hq hne.2]⟩

/-- A record just begun whose work takes time takes the frame. -/
theorem Free.execFrame {w : State} {e : Executor} (h : Free b r pos s) (hb : s.executor.state.begins = true)
    (hq : s.executor.queue = q :: rest) (hw : startWork q (beginRecord q rest s) = w)
    (hwb : w.executor.state.begins = true) (hsd : w.executor.stepDone = false) (hf : w.executor.free = false)
    (ha : w.part.abortFlag = false) (hm : motion w = w.setExecutor e) (hi : e.state ≠ .idle) :
    exec .frame s = .next (closeFrame (w.setExecutor e)) := by
  obtain ⟨hset, h1⟩ := h.begins hb hq
  rw [hw] at h1
  exact execFrame_of_moved h.toFraming hset
    (startFrame_of_one h.position (h1 true) (startOnce_of_midStep hwb hsd (.inl hf) (.inl ha) _)) hm hi

/-! ## The vertical moves and the turns with which a record begins -/

/-- The Executor at the start of the vertical move `m` in state `st`. -/
def Executor.inMove (e : Executor) (st : ExecState) (m : ZMove) : Executor :=
  { e with state := st, zMove := some m, stepDone := false }

/-- The first frame of a vertical move with which a record begins. -/
theorem Fresh.vertical {st : ExecState} {m : ZMove} (h : Free b r pos s) (hb : s.executor.state.begins = true)
    (hq : s.executor.queue = q :: rest) (k : Fresh b r pos q rest s v)
    (hw : startWork q (beginRecord q rest s) = v.setExecutor (v.executor.inMove st m))
    (hst : st = .retract .leave ∨ st = .retract .lift ∨
      (st = .travel ∧ ∃ top clear dry tag, q.body = .blockStart top clear dry tag)) :
    ∃ t, exec .frame s = .next t ∧ Begun q rest s t ∧ FrameOnly v t ∧ t.executor.state = st ∧
      t.executor.position = some { pos with z := zStep pos.z m.target (m.speed * r.period) } ∧
      t.governor = v.governor := by
  have hper : (v.setExecutor (v.executor.inMove st m)).period = r.period := State.period_of_setup k.setup
  have hmotion : motion (v.setExecutor (v.executor.inMove st m)) = zFrame (v.setExecutor (v.executor.inMove st m)) := by
    unfold motion travelState
    rcases hst with rfl | rfl | ⟨rfl, top, clear, dry, tag, hbody⟩
    · rfl
    · rfl
    · simp only [State.setExecutor_executor, Executor.inMove, k.fresh, hbody]
      rfl
  have hne : st.begins = true ∧ st ≠ .idle ∧ st ≠ .cut := by
    rcases hst with rfl | rfl | ⟨rfl, -⟩ <;> simp [ExecState.begins]
  have hm := hmotion.trans (zFrame_of_moving (pos := pos) (m := m) k.position rfl)
  rw [hper] at hm
  have hstate : ((v.executor.inMove st m).zMoved pos m r.period).state = st := by rw [Executor.zMoved_eq]; rfl
  have hexec := h.execFrame hb hq hw hne.1 rfl (Executor.free_of_busy k.fresh rfl) k.noAbort hm
    (by rw [State.setExecutor_executor, hstate]; exact hne.2.1)
  have honly : FrameOnly v _ := frameOnly_of_zMoved (pos := pos) (m := m) (t := r.period)
    (FrameOnly.of_setExecutor (s := v) (e := v.executor.inMove st m) rfl rfl rfl rfl)
  refine ⟨_, hexec, k.toBegun.later honly ?_ ?_ ?_, honly, ?_, ?_, closeFrame_governor_of_moved ?_⟩
  · rw [closeFrame_reentry, State.setExecutor_executor, Executor.zMoved_eq]
    rfl
  · rw [closeFrame_dwellTimer, State.setExecutor_executor, Executor.zMoved_eq]
    show v.executor.dwellTimer.tick _ = _
    rw [k.dwell]
    rfl
  · rw [closeFrame_current]
    exact Executor.zMoved_record (e := v.executor.inMove st m) k.fresh
  · rw [closeFrame_state]
    exact hstate
  · rw [closeFrame_position, State.setExecutor_executor, Executor.zMoved_eq]
  · rw [State.setExecutor_executor, hstate]
    exact hne.2.2

/-- The first frame of a turn with which a record begins. -/
theorem Fresh.turn {st : ExecState} {rotation : Int} {rate : Nat} (h : Free b r pos s)
    (hb : s.executor.state.begins = true) (hq : s.executor.queue = q :: rest) (k : Fresh b r pos q rest s v)
    (hw : startWork q (beginRecord q rest s) = v.setExecutor (v.executor.startTurn st rotation)) (hrot : rotation ≠ 0)
    (hst : (st = .swivel ∧ rate = b.swivelRate) ∨ (st = .rotate ∧ rate = b.airRate)) :
    ∃ t cur, exec .frame s = .next t ∧ Begun q rest s t ∧ FrameOnly v t ∧ t.executor.state = st ∧
      t.executor.current = some cur ∧ cur.turn = rotation - turnPart rotation (perFrame rate r.period) ∧
      t.executor.position =
        some { pos with heading := turnBy pos.heading (turnPart rotation (perFrame rate r.period)) } ∧
      t.governor = v.governor := by
  rw [Executor.startTurn_of_nonzero k.fresh hrot] at hw
  generalize hcur : (⟨q, 0, 0, 0, pos.x, pos.y, 0, false⟩ : Current) = cur at hw
  have hrec : cur.record = q ∧ cur.complete = false := by rw [← hcur]; exact ⟨rfl, rfl⟩
  have hper : (v.setExecutor (v.executor.inTurn st cur rotation)).period = r.period := State.period_of_setup k.setup
  have hrate : (v.setExecutor (v.executor.inTurn st cur rotation)).blade = b := State.blade_of_some k.blade
  have hmotion : motion (v.setExecutor (v.executor.inTurn st cur rotation)) =
      turnStep rate (v.setExecutor (v.executor.inTurn st cur rotation)) := by
    unfold motion
    rw [hrate]
    rcases hst with ⟨rfl, rfl⟩ | ⟨rfl, rfl⟩ <;> rfl
  have hne : st.begins = true ∧ st ≠ .idle ∧ st ≠ .cut := by
    rcases hst with ⟨rfl, -⟩ | ⟨rfl, -⟩ <;> simp [ExecState.begins]
  have hm := hmotion.trans (turnStep_of_turning (pos := pos) k.position rfl)
  rw [hper] at hm
  have hfree : (v.executor.inTurn st cur rotation).free = false := Executor.free_of_busy rfl hrec.2
  have hexec := h.execFrame hb hq hw hne.1 rfl hfree k.noAbort hm
    (by rw [State.setExecutor_executor, Executor.turned_eq]; exact hne.2.1)
  have honly : FrameOnly v _ := frameOnly_of_turned (pos := pos) (cur := { cur with turn := rotation })
    (step := perFrame rate r.period)
    (FrameOnly.of_setExecutor (s := v) (e := v.executor.inTurn st cur rotation) rfl rfl rfl rfl)
  obtain ⟨c, hc, hcr, hct⟩ := Executor.turned_record (e := v.executor.inTurn st cur rotation) (pos := pos)
    (cur := { cur with turn := rotation }) (step := perFrame rate r.period)
  refine ⟨_, c, hexec, k.toBegun.later honly ?_ ?_ ⟨c, (closeFrame_current _).trans hc, hcr.trans hrec.1⟩, honly, ?_,
    (closeFrame_current _).trans hc, hct, ?_, closeFrame_governor_of_moved ?_⟩
  · rw [closeFrame_reentry, State.setExecutor_executor, Executor.turned_eq]
    rfl
  · rw [closeFrame_dwellTimer, State.setExecutor_executor, Executor.turned_eq]
    show v.executor.dwellTimer.tick _ = _
    rw [k.dwell]
    rfl
  · rw [closeFrame_state, State.setExecutor_executor, Executor.turned_eq]
    rfl
  · rw [closeFrame_position, State.setExecutor_executor, Executor.turned_eq]
  · rw [State.setExecutor_executor, Executor.turned_eq]
    exact hne.2.2

end

end Sys2Proof.Machine

/-! # The first frames of TRAVEL, ENTER and CUT, and what a frame begins -/

namespace Sys2Proof.Machine

section
variable {s v : State} {b : BladeEntry} {r : Setup} {q : Record} {rest : List Record} {pos : Position}

/-- The speed of a first frame from rest. -/
theorem runSpeed_from_rest (a bound allow left : Nat) : runSpeed a 0 bound allow left =
    if min (min a bound) allow < 1 ∧ 0 < left then 1 else min (min a bound) allow := by
  unfold runSpeed
  rw [Nat.zero_add]

/-! ## TRAVEL -/

/-- The Executor at the start of the TRAVEL `q` from `pos`, of length `len` and turn `turn` (R115). -/
def Executor.inTravel (e : Executor) (q : Record) (pos : Position) (len : Nat) (turn : Int) : Executor :=
  { e with state := .travel, current := some ⟨q, 0, 0, len, pos.x, pos.y, turn, false⟩ }

theorem startTravel_of_way {x y : Int} {h : Nat} (hp : v.executor.position = some pos)
    (hc : v.executor.current = some ⟨q, 0, 0, 0, pos.x, pos.y, 0, false⟩)
    (hway : ¬ (vecLength (x - pos.x) (y - pos.y) = 0 ∧ rotationOf pos.heading h = 0)) :
    startTravel x y (some h) v =
      v.setExecutor (v.executor.inTravel q pos (vecLength (x - pos.x) (y - pos.y)) (rotationOf pos.heading h)) := by
  unfold startTravel
  simp only [hp, hc, Option.getD_some, if_neg hway, Executor.inTravel]

/-- The first frame of a TRAVEL. -/
theorem Fresh.travel {x y : Int} {h : Nat} (hf : Free b r pos s) (hb : s.executor.state.begins = true)
    (hq : s.executor.queue = q :: rest) (k : Fresh b r pos q rest s v) (hv : beginRecord q rest s = v)
    (hbody : q.body = .travel x y (some h))
    (hway : ¬ (vecLength (x - pos.x) (y - pos.y) = 0 ∧ rotationOf pos.heading h = 0)) {speed : Nat}
    (hspeed : speed = runSpeed (perFrame r.accel r.period) 0 r.travelSpeed
      (reach r.accel 0 (vecLength (x - pos.x) (y - pos.y))) (vecLength (x - pos.x) (y - pos.y))) :
    let cur : Current :=
      ⟨q, 0, 0, vecLength (x - pos.x) (y - pos.y), pos.x, pos.y, rotationOf pos.heading h, false⟩
    let e := v.executor.travelled cur pos x y speed r.period (perFrame b.airRate r.period)
    ∃ t, exec .frame s = .next t ∧ Begun q rest s t ∧ FrameOnly v t ∧ t.executor.state = .travel ∧
      t.executor.current = e.current ∧ t.executor.position = e.position ∧ t.governor = v.governor := by
  intro cur e
  have hstart : startWork q (beginRecord q rest s) =
      v.setExecutor (v.executor.inTravel q pos cur.len (rotationOf pos.heading h)) := by
    rw [hv, startWork, hbody]
    exact startTravel_of_way k.position k.fresh hway
  generalize hw : v.setExecutor (v.executor.inTravel q pos cur.len (rotationOf pos.heading h)) = w at hstart
  have he : w.executor = v.executor.inTravel q pos cur.len (rotationOf pos.heading h) := by rw [← hw]; rfl
  have hc : w.executor.current = some cur := by rw [he]; rfl
  have hp : w.executor.position = some pos := by rw [he]; exact k.position
  have hsetup : w.part.setup = some r := by rw [← hw]; exact k.setup
  have hper : w.period = r.period := State.period_of_setup hsetup
  have hblade : w.blade = b := State.blade_of_some (by rw [← hw]; exact k.blade)
  have hslow : slowing w = false :=
    slowing_eq_false (by rw [he]; exact k.noHalt) (by rw [← hw]; exact k.noAbort)
  have hnew : newSpeed w cur = speed := by
    rw [newSpeed_of_running (by rw [he]; exact ExecState.noConfusion) hslow, motionBounds_of_travel hbody,
      State.accel_of_setup hsetup, hper, State.travelSpeed_of_setup hsetup, hspeed]
    rfl
  have hm := (motion_of_travel (by rw [he]; rfl) hc rfl hbody).trans (travelFrame_eq hp hc hbody hnew)
  rw [hper, hblade] at hm
  have hexec := hf.execFrame hb hq hstart (by rw [he]; rfl) (by rw [he]; exact k.stepDone)
    (Executor.free_of_busy hc rfl) (by rw [← hw]; exact k.noAbort) hm
    (by rw [he]; exact ExecState.noConfusion)
  have honly : FrameOnly v (closeFrame (w.setExecutor (w.executor.travelled cur pos x y speed r.period
      (perFrame b.airRate r.period)))) := by
    rw [he, ← hw]
    exact closeFrame_frameOnly (FrameOnly.of_setExecutor (s := v) rfl rfl rfl rfl)
  refine ⟨_, hexec, k.toBegun.later honly ?_ ?_ ⟨_, closeFrame_current _, rfl⟩, honly, ?_, closeFrame_current _,
    closeFrame_position _, ?_⟩
  · rw [closeFrame_reentry, State.setExecutor_executor, he]
    rfl
  · rw [closeFrame_dwellTimer, State.setExecutor_executor, he]
    show v.executor.dwellTimer.tick _ = _
    rw [k.dwell]
    rfl
  · rw [closeFrame_state, State.setExecutor_executor, he]
    rfl
  · rw [closeFrame_governor_of_moved (by rw [he]; exact ExecState.noConfusion), ← hw]
    rfl

/-! ## ENTER -/

/-- The first frame of an ENTER outside a dry-run block: the spin-up (R116). -/
theorem Fresh.enter {x y : Int} {h : Option Nat} {plunge : Nat} (hf : Free b r pos s)
    (hb : s.executor.state.begins = true) (hq : s.executor.queue = q :: rest) (k : Fresh b r pos q rest s v)
    (hv : beginRecord q rest s = v) (hbody : q.body = .enter x y h plunge) (hd : v.executor.dry = false) :
    ∃ t, exec .frame s = .next t ∧ Begun q rest s t ∧ FrameOnly v t ∧ t.executor.state = .spinup ∧
      t.executor.lockTimer = .running r.period b.lockTimeout ∧ t.executor.spinupFrame = some v.port.frameNo ∧
      t.executor.zMove = some ⟨r.zCut, plunge⟩ ∧ t.executor.position = some pos ∧ t.governor = v.governor := by
  have hstart : startWork q (beginRecord q rest s) = startSpinup plunge v := by
    rw [hv, startWork, hbody]
    exact if_neg (ne_true_of_eq_false hd)
  have hm : motion (startSpinup plunge v) = (startSpinup plunge v).setExecutor (startSpinup plunge v).executor :=
    motion_of_still (.inr (.inl rfl))
  have hexec := hf.execFrame hb hq hstart rfl rfl (Executor.free_of_busy k.fresh rfl) k.noAbort hm
    ExecState.noConfusion
  have hper : (startSpinup plunge v).period = r.period := State.period_of_setup k.setup
  have honly : FrameOnly v (closeFrame (startSpinup plunge v)) :=
    closeFrame_frameOnly (FrameOnly.of_setExecutor (s := v) rfl rfl rfl rfl)
  refine ⟨_, hexec, k.toBegun.later honly (closeFrame_reentry _) ?_ ⟨_, (closeFrame_current _).trans k.fresh, rfl⟩,
    honly, closeFrame_state _, ?_, closeFrame_spinupFrame_of_none (s := startSpinup plunge v) rfl rfl, ?_,
    (closeFrame_position _).trans k.position, closeFrame_governor rfl⟩
  · refine (closeFrame_dwellTimer _).trans ?_
    show v.executor.dwellTimer.tick _ = _
    rw [k.dwell]
    rfl
  · refine (closeFrame_lockTimer _).trans ?_
    show Timer.running (0 + (startSpinup plunge v).period) v.blade.lockTimeout = _
    rw [hper, State.blade_of_some k.blade, Nat.zero_add]
  · refine (closeFrame_zMove _).trans ?_
    show some (⟨v.zCut, plunge⟩ : ZMove) = _
    simp only [State.zCut, k.setup]

/-! ## CUT -/

/-- The Executor at the start of the CUT `q` (R109). -/
def Executor.inCut (e : Executor) (q : Record) (pos : Position) (len : Nat) : Executor :=
  { e with state := .cut, current := some ⟨q, 0, 0, len, pos.x, pos.y, 0, false⟩ }

theorem startWork_of_cut {c : CutRecord} (hp : v.executor.position = some pos) (hbody : q.body = .cut c) :
    startWork q v = v.setExecutor (v.executor.inCut q pos c.len) := by
  unfold startWork Executor.freshCurrent
  simp only [hbody, hp, Executor.inCut]

/-- Where the CUT `q` has started under `v`, what its first frame at speed `speed` comes to, which ends within it. -/
theorem Fresh.firstCutFrame {c : CutRecord} (k : Fresh b r pos q rest s v) (hbody : q.body = .cut c) {speed : Nat}
    (hspeed : speed = runSpeed (perFrame r.accel r.period) 0 (scaledCap c.cap v.governor.effective)
      (reach r.accel c.exit c.len) c.len) (hd : speed * r.period < c.len) :
    let w := v.setExecutor (v.executor.inCut q pos c.len)
    let e := (w.executor.along ⟨q, 0, 0, c.len, pos.x, pos.y, 0, false⟩ (speed * r.period) speed).place b.lead
    let t := closeFrame (w.setExecutor e)
    motion w = w.setExecutor e ∧ Begun q rest s t ∧ FrameOnly v t ∧ t.executor.state = .cut ∧
      t.executor.current = some ⟨q, speed * r.period, speed, c.len, pos.x, pos.y, 0, false⟩ ∧
      t.executor.reentering = false ∧
      t.executor.position = some { pos with
        x := along c.x0 c.x1 (speed * r.period) c.len
        y := along c.y0 c.y1 (speed * r.period) c.len
        heading := cutHeading b.lead t.executor.queue c (speed * r.period) } ∧
      t.governor = v.governor.afterFrame (!v.executor.dry) c.snap.ceiling := by
  intro w e t
  have hper : w.period = r.period := State.period_of_setup k.setup
  have hnew : newSpeed w ⟨q, 0, 0, c.len, pos.x, pos.y, 0, false⟩ = speed := by
    rw [newSpeed_of_running (s := w) ExecState.noConfusion (slowing_eq_false k.noHalt k.noAbort),
      motionBounds_of_cut hbody, State.accel_of_setup (s := w) k.setup, hper, hspeed]
    rfl
  have hpos : 0 < speed := by rw [hspeed]; exact runSpeed_pos (Nat.zero_lt_of_lt hd)
  have hm := (motion_of_path (s := w) (.inl rfl) rfl rfl).trans
    (pathFrame_of_short hnew (by rw [hper, Nat.zero_add]; exact hd))
  rw [hper, State.blade_of_some (s := w) k.blade, Nat.zero_add] at hm
  have heq : e = { w.executor.along ⟨q, 0, 0, c.len, pos.x, pos.y, 0, false⟩ (speed * r.period) speed with
      position := e.position } := Executor.place_eq _ _
  have honly : FrameOnly v t := by
    refine closeFrame_frameOnly (FrameOnly.of_setExecutor (s := v) ?_ ?_ ?_ ?_) <;> rw [heq] <;> rfl
  have hqueue : t.executor.queue = v.executor.queue := honly.queue
  have hcur : t.executor.current = some ⟨q, speed * r.period, speed, c.len, pos.x, pos.y, 0, false⟩ := by
    refine (closeFrame_current _).trans ?_
    rw [State.setExecutor_executor, heq]
    rfl
  refine ⟨hm, k.toBegun.later honly ?_ ?_ ⟨_, hcur, rfl⟩, honly, ?_, hcur, ?_, ?_, ?_⟩
  · refine (closeFrame_reentry _).trans ?_
    rw [State.setExecutor_executor, heq]
    rfl
  · refine (closeFrame_dwellTimer _).trans ?_
    rw [State.setExecutor_executor, heq]
    show v.executor.dwellTimer.tick _ = _
    rw [k.dwell]
    rfl
  · refine (closeFrame_state _).trans ?_
    rw [State.setExecutor_executor, heq]
    rfl
  · refine (closeFrame_reentering _).trans ?_
    rw [State.setExecutor_executor, heq]
    exact k.reentering
  · rw [hqueue]
    exact (closeFrame_position _).trans (Executor.place_along_cut (e := w.executor) k.position hbody)
  · refine (closeFrame_governor_along (s := w) hbody).trans ?_
    show v.governor.afterFrame (decide (ExecState.cut = ExecState.cut) && decide (0 < speed) && !v.executor.dry) _ = _
    simp [hpos]

end

/-! ## Changes of the executing block, the Load Governor and the events -/

section
variable {s v v' : State} {b : BladeEntry} {r : Setup} {q : Record} {rest : List Record} {pos : Position}

theorem Begun.congr (h : Begun q rest s v) (hlink : v'.link = v.link) (htables : v'.tables = v.tables)
    (hplanner : v'.planner = v.planner) (hport : v'.port = v.port)
    (hreport : v'.report = { v.report with events := v'.report.events }) (hpart : v'.part = v.part)
    (hpending : v'.pending = v.pending) (hexec : v'.executor = { v.executor with block := v'.executor.block }) :
    Begun q rest s v' where
  toPerforms := h.toPerforms.of_same (by rw [hport]) (by rw [hreport]) (by rw [hreport]) rfl rfl
  tag := by rw [hexec]; exact h.tag
  current := by rw [hexec]; exact h.current
  plunge := by rw [hexec]; exact h.plunge
  reentry := by rw [hexec]; exact h.reentry
  dwell := by rw [hexec]; exact h.dwell
  queue := by rw [hexec]; exact h.queue
  released := fun h1 h2 h3 =>
    (h.released h1 h2 h3).of_same rfl rfl (by rw [hplanner]) (by rw [hplanner]) (by rw [hexec])
  link := hlink.trans h.link
  tables := htables.trans h.tables
  responses := by rw [hreport]; exact h.responses
  record := by rw [hpart]; exact h.record
  pending := hpending.trans h.pending

theorem Fresh.congr (h : Fresh b r pos q rest s v) (hlink : v'.link = v.link) (htables : v'.tables = v.tables)
    (hplanner : v'.planner = v.planner) (hport : v'.port = v.port)
    (hreport : v'.report = { v.report with events := v'.report.events }) (hpart : v'.part = v.part)
    (hpending : v'.pending = v.pending) (hexec : v'.executor = { v.executor with block := v'.executor.block }) :
    Fresh b r pos q rest s v' where
  toBegun := h.toBegun.congr hlink htables hplanner hport hreport hpart hpending hexec
  position := by rw [hexec]; exact h.position
  fresh := by rw [hexec]; exact h.fresh
  setup := by rw [hpart]; exact h.setup
  blade := by rw [htables]; exact h.blade
  noAbort := by rw [hpart]; exact h.noAbort
  noHalt := by rw [hexec]; exact h.noHalt
  stepDone := by rw [hexec]; exact h.stepDone
  reentering := by rw [hexec]; exact h.reentering

/-- The state with TRIM-FORCED raised for a forced trim (R66). -/
def trimForced (tag : Tag) (forced : Bool) (v : State) : State := if forced then raiseTrimForced tag v else v

theorem trimForced_executor (tag : Tag) (forced : Bool) (v : State) :
    (trimForced tag forced v).executor = v.executor := by
  unfold trimForced; split <;> rfl

theorem trimForced_governor (tag : Tag) (forced : Bool) (v : State) :
    (trimForced tag forced v).governor = v.governor := by
  unfold trimForced; split <;> rfl

theorem trimForced_events (tag : Tag) (forced : Bool) (v : State) : (trimForced tag forced v).report.events =
    if forced = true then { v.report.events with trimForced := true, trimForcedTag := tag } else v.report.events := by
  unfold trimForced; split <;> rfl

theorem Fresh.trimForced (h : Fresh b r pos q rest s v) (tag : Tag) (forced : Bool) :
    Fresh b r pos q rest s (trimForced tag forced v) := by
  unfold Machine.trimForced
  split
  · exact h.congr rfl rfl rfl rfl rfl rfl rfl rfl
  · exact h

theorem startPivot_of_swivel {tag : Tag} {p : PivotRecord} (hc : p.cls = .swivel) : startPivot tag p v =
    (Machine.trimForced tag p.forced v).setExecutor
      ((Machine.trimForced tag p.forced v).executor.startTurn .swivel p.rotation) := by
  unfold startPivot
  simp only [hc]
  rfl

theorem startPivot_of_lift {tag : Tag} {p : PivotRecord} (hc : p.cls = .lift) : startPivot tag p v =
    if (Machine.trimForced tag p.forced v).executor.dry = true then
      (Machine.trimForced tag p.forced v).setExecutor
        ((Machine.trimForced tag p.forced v).executor.startTurn .rotate p.rotation)
    else (Machine.trimForced tag p.forced v).setExecutor
      ((Machine.trimForced tag p.forced v).executor.startRetract .lift (Machine.trimForced tag p.forced v).clearZ
        (p.plunge.getD (Machine.trimForced tag p.forced v).retractSpeed)) := by
  unfold startPivot
  simp only [hc]
  rfl

/-- The state with the executing block of a BLOCK-START and its Load Governor (R98, R114). -/
def blockStarted (blk : ExecBlock) (v : State) : State :=
  (v.setGovernor v.governor.blockStart).setExecutor { v.executor with block := some blk }

theorem startBlock_of_move {top clear : Nat} {dry : Bool} (hp : v.executor.position = some pos)
    (hs : v.part.setup = some r) (hmove : pos.z < clear ∨ (dry = true ∧ pos.z ≠ clear)) :
    startBlock top clear dry v = (blockStarted ⟨top, clear, dry⟩ v).setExecutor
      ((blockStarted ⟨top, clear, dry⟩ v).executor.inMove .travel ⟨clear, r.zAirSpeed⟩) := by
  have hz : Executor.z { v.executor with block := some ⟨top, clear, dry⟩ } = pos.z := by simp only [Executor.z, hp]
  have hair : v.zAir = r.zAirSpeed := by simp only [State.zAir, hs]
  have hne : pos.z ≠ clear := hmove.elim Nat.ne_of_lt (·.2)
  unfold startBlock Executor.startZ
  simp only [hz, hair]
  cases dry with
  | true => rw [if_pos rfl, if_neg hne]; rfl
  | false =>
    have hlow : pos.z < clear := hmove.resolve_right (by simp)
    rw [if_neg Bool.false_ne_true, Nat.max_eq_left (Nat.le_of_lt hlow), if_neg hne]
    rfl

end

/-- Settles O38: what starts is the work of the record just begun, and the frame is its first. -/
theorem frameBeginsTheNextRecord : Obligations.FrameBeginsTheNextRecord := by
  unfold Obligations.FrameBeginsTheNextRecord
  intro s b r pos q rest h hb hq turned first
  have hbegun : BegunAt pos q rest s (beginRecord q rest s) := beginRecord_begun h.position
  have hfresh := hbegun.fresh h
  generalize hv : beginRecord q rest s = v at hbegun hfresh
  have hblock : v.executor.block = s.executor.block := by rw [hbegun.executor]; rfl
  have hdry : v.executor.dry = s.executor.dry := by simp only [Executor.dry, hblock]
  refine ⟨fun top clear dry tag hbody hmove => ?block, fun x y hd hbody => ?travel, fun x y hd pl hbody hblk => ?enter,
    fun c hbody => ?cut, fun p hbody => ?pivot, fun g f blk hbody hblk hlow => ?leave⟩
  case block =>
    have hstarted : Fresh b r pos q rest s (blockStarted ⟨top, clear, dry⟩ v) :=
      hfresh.congr rfl rfl rfl rfl rfl rfl rfl rfl
    have hwork : startWork q (beginRecord q rest s) = startBlock top clear dry v := by
      rw [hv, startWork, hbody]
    have hw := hwork.trans (startBlock_of_move hfresh.position hfresh.setup hmove)
    obtain ⟨t, hexec, hbeg, honly, hst, hp, hgov⟩ :=
      hstarted.vertical h hb hq hw (.inr (.inr ⟨rfl, top, clear, dry, tag, hbody⟩))
    rw [zStep_eq] at hp
    exact ⟨t, hexec, hbeg, hst, honly.block, hp, hgov.trans (congrArg Governor.blockStart hbegun.governor),
      by rw [honly.report]; exact hbegun.events⟩
  case travel =>
    intro len turn part d hway
    have hrest : first r.travelSpeed 0 len = runSpeed (perFrame r.accel r.period) 0 r.travelSpeed
        (reach r.accel 0 len) len := by
      rw [runSpeed_from_rest]
      rfl
    obtain ⟨t, hexec, hbeg, honly, hst, hcur, hp, hgov⟩ := hfresh.travel h hb hq hv hbody hway hrest
    have hd : Current.reached ⟨q, 0, 0, len, pos.x, pos.y, turn, false⟩ (first r.travelSpeed 0 len) r.period = d := by
      unfold Current.reached
      rw [Nat.zero_add]
      split
      · rfl
      · next hlen =>
        have hzero : len = 0 := Nat.eq_zero_of_not_pos hlen
        simp only [d, hzero, Nat.zero_min]
    refine ⟨t, _, _, hexec, hbeg, hst, hcur, rfl, hd, rfl, rfl, rfl, ?_, hp, rfl, rfl, fun hlen => ?_,
      hgov.trans hbegun.governor, by rw [honly.report, hbegun.events]⟩
    · rw [hd]
      rfl
    · rw [hd]
      exact ⟨if_pos hlen, if_pos hlen⟩
  case enter =>
    obtain ⟨t, hexec, hbeg, honly, hst, hlock, hspin, hmv, hp, hgov⟩ := hfresh.enter h hb hq hv hbody
      (by rw [hdry]; exact Executor.dry_eq_false hblk)
    exact ⟨t, hexec, hbeg, hst, hlock, by rw [hspin, hbegun.port], hmv, hp, hgov.trans hbegun.governor,
      by rw [honly.report, hbegun.events]⟩
  case cut =>
    intro speed d hd
    have hrest : speed = runSpeed (perFrame r.accel r.period) 0 (scaledCap c.cap v.governor.effective)
        (reach r.accel c.exit c.len) c.len := by
      rw [runSpeed_from_rest, hbegun.governor]
      rfl
    obtain ⟨hm, hbeg, honly, hst, hcur, -, hp, hgov⟩ := hfresh.firstCutFrame hbody hrest hd
    have hexec := h.execFrame (w := v.setExecutor (v.executor.inCut q pos c.len)) hb hq
      (by rw [hv]; exact startWork_of_cut hfresh.position hbody) rfl hfresh.stepDone
      (Executor.free_of_busy (cur := ⟨q, 0, 0, c.len, pos.x, pos.y, 0, false⟩) rfl rfl) hfresh.noAbort hm
      (by rw [Executor.place_state]; exact ExecState.noConfusion)
    refine ⟨_, _, hexec, hbeg, hst, hcur, rfl, rfl, rfl, rfl, hp, ?_, by rw [honly.report, hbegun.events]⟩
    rw [hgov, hbegun.governor, hdry]
  case pivot =>
    intro events
    have hforced := hfresh.trimForced q.tag p.forced
    have hwork : startWork q (beginRecord q rest s) = startPivot q.tag p v := by
      rw [hv, startWork, hbody]
    have hgovernor : (trimForced q.tag p.forced v).governor = s.governor := by
      rw [trimForced_governor, hbegun.governor]
    have hevents : (trimForced q.tag p.forced v).report.events = events := by
      rw [trimForced_events, hbegun.events]
    refine ⟨fun part rate hrot hpart hwhich => ?_, fun blk pl hcls hpl hblk hdryb hlow => ?_⟩
    · have hw : startWork q (beginRecord q rest s) = (trimForced q.tag p.forced v).setExecutor
          ((trimForced q.tag p.forced v).executor.startTurn (if p.cls = .swivel then .swivel else .rotate)
            p.rotation) := by
        rw [hwork]
        rcases hwhich with ⟨hcls, -⟩ | ⟨hcls, -, blk, hblk, hd⟩
        · rw [startPivot_of_swivel hcls, if_pos hcls]
        · rw [startPivot_of_lift hcls, trimForced_executor, hdry, Executor.dry_of_block hblk, if_pos hd,
            if_neg (by rw [hcls]; exact PivotClass.noConfusion)]
      have hst : ((if p.cls = .swivel then ExecState.swivel else .rotate) = .swivel ∧ rate = b.swivelRate) ∨
          ((if p.cls = .swivel then ExecState.swivel else .rotate) = .rotate ∧ rate = b.airRate) := by
        rcases hwhich with ⟨hcls, hr⟩ | ⟨hcls, hr, -⟩
        · exact .inl ⟨if_pos hcls, hr⟩
        · exact .inr ⟨if_neg (by rw [hcls]; exact PivotClass.noConfusion), hr⟩
      obtain ⟨t, cur, hexec, hbeg, honly, hstate, hcur, hturn, hp, hgov⟩ := hforced.turn h hb hq hw hrot hst
      have hpart' : turnPart p.rotation (perFrame rate r.period) = part := hpart.symm
      rw [hpart'] at hturn hp
      exact ⟨t, cur, hexec, hbeg, hstate, hcur, hturn, hp, hgov.trans hgovernor, by rw [honly.report, hevents]⟩
    · have hw : startWork q (beginRecord q rest s) = (trimForced q.tag p.forced v).setExecutor
          ((trimForced q.tag p.forced v).executor.inMove (.retract .lift) ⟨blk.clear, pl⟩) := by
        have hblk' : (trimForced q.tag p.forced v).executor.block = some blk := by
          rw [trimForced_executor, hblock, hblk]
        rw [hwork, startPivot_of_lift hcls, Executor.dry_of_block hblk', if_neg (ne_true_of_eq_false hdryb),
          State.clearZ_of_block hblk', hpl, Option.getD_some, Executor.startRetract_of_below hforced.position hlow]
        rfl
      obtain ⟨t, hexec, hbeg, honly, hst, hp, hgov⟩ := hforced.vertical h hb hq hw (.inr (.inl rfl))
      rw [zStep_of_below (z := pos.z) hlow] at hp
      exact ⟨t, hexec, hbeg, hst, hp, hgov.trans hgovernor, by rw [honly.report, hevents]⟩
  case leave =>
    have hw : startWork q v = v.setExecutor (v.executor.inMove (.retract .leave) ⟨blk.clear, g⟩) := by
      unfold startWork
      simp only [hbody]
      rw [State.clearZ_of_block (hblock.trans hblk), Executor.startRetract_of_below hfresh.position hlow]
      rfl
    obtain ⟨t, hexec, hbeg, honly, hst, hp, hgov⟩ :=
      hfresh.vertical h hb hq (by rw [hv]; exact hw) (.inl rfl)
    rw [zStep_of_below (z := pos.z) hlow] at hp
    exact ⟨t, hexec, hbeg, hst, hp, hgov.trans hbegun.governor, by rw [honly.report, hbegun.events]⟩

end Sys2Proof.Machine

/-! # STANDOFF, and the re-entry into the foam (R107, R121, R125) -/

namespace Sys2Proof.Machine

section
variable {s v : State} {b : BladeEntry} {r : Setup} {q : Record} {rest : List Record} {pos : Position}

/-! ## What follows a record begun -/

/-- With an empty window and no ACTIONS record to make, the Planner's moment does nothing. -/
theorem plannerMoment_of_empty (hw : s.planner.window = []) (h : s.planner.actions = [] ∨ s.link.intake ≠ []) :
    plannerMoment s = s := by
  have heq : plannerMoment s = applyReleases s := h.elim plannerMoment_of_noActions plannerMoment_of_intake
  rw [heq, applyReleases, hw]
  rfl

/-- What came before the record was begun is seen in its held plunge speed alone. -/
theorem Begun.of_start {e : Executor} (h : Begun q rest (s.setExecutor e) v)
    (he : e.heldPlunge = s.executor.heldPlunge) : Begun q rest s v where
  toPerforms := h.toPerforms.of_same rfl rfl rfl rfl rfl
  tag := h.tag
  current := h.current
  plunge := by rw [← he]; exact h.plunge
  reentry := h.reentry
  dwell := h.dwell
  queue := h.queue
  released := fun h1 h2 h3 => (h.released h1 h2 h3).of_same rfl rfl rfl rfl rfl
  link := h.link
  tables := h.tables
  responses := h.responses
  record := h.record
  pending := h.pending

/-! ## What starts in STANDOFF -/

/-- A CUT or PIVOT waits for the re-entry (R125). -/
theorem startNext_of_reentry (hh : s.executor.haltRequest = false) (hp : s.executor.standoffPending = false)
    (hq : s.executor.queue = q :: rest) (hst : s.executor.state = .standoff false)
    (hb : (∃ c, q.body = .cut c) ∨ ∃ p, q.body = .pivot p) (first : Bool) :
    startNext first s = some (startReentry s) := by
  unfold startNext
  rw [if_neg (ne_true_of_eq_false hh), if_neg (ne_true_of_eq_false hp)]
  rcases hb with ⟨c, hb⟩ | ⟨p, hb⟩ <;> simp only [hq, hst, hb]

/-- The Executor that has performed an ACTIONS in STANDOFF: no record is current, and the re-entry point stays. -/
def Executor.passedActions (e : Executor) (reentry : Option Reentry) : Executor :=
  { e with current := none, reentry := reentry }

/-- An ACTIONS leaves STANDOFF as it is, with its re-entry point (R107, R125). -/
theorem startNext_of_actions (hh : s.executor.haltRequest = false) (hp : s.executor.standoffPending = false)
    (hq : s.executor.queue = q :: rest) (hst : s.executor.state = .standoff false) (hb : q.body = .actions)
    (first : Bool) : startNext first s = some ((beginRecord q rest s).setExecutor
      ((beginRecord q rest s).executor.passedActions s.executor.reentry)) := by
  unfold startNext
  rw [if_neg (ne_true_of_eq_false hh), if_neg (ne_true_of_eq_false hp)]
  simp only [hq, hst, hb, Executor.passedActions]

/-- A LEAVE is begun in STANDOFF (R121). -/
theorem startNext_of_leave {g : Nat} {f : Bool} (hh : s.executor.haltRequest = false)
    (hp : s.executor.standoffPending = false) (hq : s.executor.queue = q :: rest)
    (hst : s.executor.state = .standoff false) (hb : q.body = .leave g f) (first : Bool) :
    startNext first s = some (startWork q (beginRecord q rest s)) := by
  unfold startNext
  rw [if_neg (ne_true_of_eq_false hh), if_neg (ne_true_of_eq_false hp)]
  simp only [hq, hst, hb]

/-- A record part done in STANDOFF re-enters the foam first (R128). -/
theorem startOnce_of_standoffBusy (hst : s.executor.state = .standoff false) (ha : s.part.abortFlag = false)
    (hf : s.executor.free = false) (hh : s.executor.haltRequest = false) (first : Bool) :
    startOnce first s = some (startReentry s) := by
  unfold startOnce
  simp [hst, ha, hf, hh]

theorem startReentry_of_point {e : Reentry} (h : s.executor.reentry = some e) :
    startReentry s = startSpinup e.plunge (s.setExecutor { s.executor with reentering := true }) := by
  simp only [startReentry, h]

/-- The frame in which a re-entry starts: the spin-up, with the record left waiting (R125). -/
theorem execFrame_of_reentry {e : Reentry} (h : Framing b r s) (hset : settle s = s)
    (ha : s.part.abortFlag = false) (hp : s.executor.position = some pos) (hr : s.executor.reentry = some e)
    (h1 : startOnce true s = some (startReentry s)) :
    ∃ t, exec .frame s = .next t ∧ t.executor.state = .spinup ∧ t.executor.reentering = true ∧
      t.executor.lockTimer = .running r.period b.lockTimeout ∧ t.executor.spinupFrame = some s.port.frameNo ∧
      t.executor.zMove = some ⟨r.zCut, e.plunge⟩ ∧ t.executor.reentry = s.executor.reentry ∧
      t.executor.current = s.executor.current ∧ t.executor.position = some pos ∧ FrameOnly s t ∧
      t.governor = s.governor := by
  rw [startReentry_of_point hr] at h1
  generalize hu : startSpinup e.plunge (s.setExecutor { s.executor with reentering := true }) = u at h1
  have hstate : u.executor.state = .spinup := by rw [← hu]; rfl
  have h2 : startOnce false u = none :=
    startOnce_of_midStep (by rw [hstate]; rfl) (by rw [← hu]; rfl) (.inr (by rw [← hu]; rfl))
      (.inl (by rw [← hu]; exact ha)) _
  have hm : motion u = u.setExecutor u.executor := motion_of_still (.inr (.inl hstate))
  have hexec := execFrame_of_moved h hset (startFrame_of_one hp h1 h2) hm (by rw [hstate]; exact ExecState.noConfusion)
  have hper : u.period = r.period := State.period_of_setup (by rw [← hu]; exact h.setup)
  refine ⟨_, hexec, (closeFrame_state u).trans hstate, (closeFrame_reentering u).trans (by rw [← hu]; rfl),
    (closeFrame_lockTimer u).trans ?_, ?_, (closeFrame_zMove u).trans ?_,
    (closeFrame_reentry u).trans (by rw [← hu]; rfl),
    (closeFrame_current u).trans (by rw [← hu]; rfl), (closeFrame_position u).trans (by rw [← hu]; exact hp), ?_, ?_⟩
  · rw [hper, ← hu]
    show Timer.running (0 + r.period) s.blade.lockTimeout = _
    rw [Nat.zero_add, State.blade_of_some h.blade]
  · rw [show s.port.frameNo = u.port.frameNo by rw [← hu]; rfl]
    exact closeFrame_spinupFrame_of_none hstate (by rw [← hu]; rfl)
  · rw [← hu]
    show some (⟨s.zCut, e.plunge⟩ : ZMove) = _
    simp only [State.zCut, h.setup]
  · refine closeFrame_frameOnly ?_
    rw [← hu]
    exact ⟨rfl, rfl, rfl, rfl, rfl, rfl, rfl, rfl, rfl, rfl, rfl⟩
  · refine (closeFrame_governor (s := u) (counted_of_ne_cut (by rw [hstate]; exact ExecState.noConfusion))).trans ?_
    rw [← hu]
    rfl

/-- A retract that finds nothing to raise is complete at once (R113, R120). -/
theorem Executor.startRetract_of_above {e : Executor} {target speed : Nat} {p : Purpose}
    (hp : e.position = some pos) (hz : target ≤ pos.z) : e.startRetract p target speed =
      Executor.finishStep { e with state := .retract p, zMove := none, stepDone := false } := by
  have hez : e.z = pos.z := by simp only [Executor.z, hp]
  unfold Executor.startRetract Executor.startZ
  rw [hez, Nat.max_eq_right hz, if_pos rfl]

/-- The Executor whose LEAVE has found nothing to raise, and goes on to its TRIM. -/
def Executor.leftAbove (e : Executor) : Executor :=
  { e with state := .retract .leave, zMove := none, stepDone := true }

theorem Executor.startLeave_of_above {e : Executor} {cur : Current} {g target : Nat} (hp : e.position = some pos)
    (hz : target ≤ pos.z) (hc : e.current = some cur) (hb : cur.record.body = .leave g true) (hd : e.dry = false) :
    e.startRetract .leave target g = e.leftAbove := by
  rw [Executor.startRetract_of_above hp hz, Executor.finishStep_of_earlier]
  · rfl
  · exact .inr (.inr (.inr (.inr (.inr (.inr ⟨rfl, hd, cur, g, hc, hb⟩)))))

/-! ## The end of the re-entry -/

/-- The end of the re-entry plunge starts what it was made for (R125). -/
theorem startOnce_of_reentryEnd (hst : s.executor.state = .plunge) (ha : s.part.abortFlag = false)
    (hre : s.executor.reentering = true) (hsd : s.executor.stepDone = true) (hh : s.executor.haltRequest = false)
    (first : Bool) : startOnce first s = some (endReentry s) := by
  rw [startOnce_of_begins (by rw [hst]; rfl)]
  simp [ha, hre, hsd, hh]

/-- The Executor after the re-entry, with no record part done. -/
def Executor.reentered (e : Executor) : Executor :=
  { e with reentering := false, stepDone := false, current := none }

theorem endReentry_of_free (hf : s.executor.free = true) : endReentry s = s.setExecutor s.executor.reentered := by
  unfold endReentry
  rw [Executor.restedCurrent_of_free hf]
  rfl

/-- The Executor after the re-entry, with the CUT `cur` part done going on from rest. -/
def Executor.resumedCut (e : Executor) (cur : Current) : Executor :=
  { e with state := .cut, current := some { cur with speed := 0 }, reentry := none, reentering := false,
           stepDone := false }

theorem endReentry_of_busy {cur : Current} (hc : s.executor.current = some cur) (hcc : cur.complete = false) :
    endReentry s = s.setExecutor (s.executor.resumedCut cur) := by
  unfold endReentry
  rw [Executor.restedCurrent_of_some hc, if_neg (ne_true_of_eq_false hcc)]
  rfl

end

/-- Settles O40. -/
theorem standoffReentersTheFoam : Obligations.StandoffReentersTheFoam := by
  unfold Obligations.StandoffReentersTheFoam
  intro s b r pos h hquiet hh ha hp hpend
  refine ⟨fun hst hsd hre => ?standoff, fun hst hre hsd => ?plunge⟩
  case standoff =>
    have hcalm : Calm s := ⟨hquiet, hh, ha, hsd⟩
    have hset := settle_of_calm hcalm (by simp [hst])
    refine ⟨fun e he hwait => ?reenter, fun q hf hq hb hwin hact => ?actions,
      fun q rest g blk hf hq hb hblk hd hlow => ?leave⟩
    case reenter =>
      refine execFrame_of_reentry h hset ha hp he ?_
      rcases hwait with ⟨hf, q, rest, hq, hb⟩ | ⟨cur, hc, hcc⟩
      · rw [startOnce_of_standoff hst ha hf, startNext_of_reentry hh hpend hq hst hb]
      · exact startOnce_of_standoffBusy hst ha (Executor.free_of_busy hc hcc) hh _
    case actions =>
      have hv : beginRecord q [] s = performActions (s.setExecutor (s.executor.begun q pos [])) q.actions := by
        rw [beginRecord_eq hp, plannerMoment_of_empty]
        · rw [performActions_planner]; exact hwin
        · rw [performActions_planner, performActions_link]; exact hact
      have hbegun : BegunAt pos q [] s (beginRecord q [] s) := beginRecord_begun hp
      have h1 := (startOnce_of_standoff hst ha hf true).trans (startNext_of_actions hh hpend hq hst hb _)
      have hqueue : (beginRecord q [] s).executor.queue = [] := by rw [hv, performActions_executor]; rfl
      have htables := hbegun.tables
      generalize beginRecord q [] s = v at h1 hbegun hqueue htables
      have hex := hbegun.executor
      have hvst : v.executor.state = .standoff false := by rw [hex]; exact hst
      have h2 : startOnce false (v.setExecutor (v.executor.passedActions s.executor.reentry)) = none :=
        (startOnce_of_standoff (s := v.setExecutor (v.executor.passedActions s.executor.reentry)) hvst
          (hbegun.abortFlag.trans ha) rfl _).trans
          (startNext_of_waiting (s := v.setExecutor (v.executor.passedActions s.executor.reentry))
            (by show v.executor.haltRequest = false; rw [hex]; exact hh)
            (by show v.executor.standoffPending = false; rw [hex]; exact hpend) hqueue (.inr ⟨_, hvst⟩) _)
      have hexec := execFrame_of_moved h hset (startFrame_of_one hp h1 h2)
        (motion_of_still (.inr (.inr (.inr (.inr (.inl ⟨_, hvst⟩)))))) (by
          show v.executor.state ≠ .idle
          rw [hvst]
          exact ExecState.noConfusion)
      exact ⟨_, hexec, (closeFrame_state _).trans hvst, (closeFrame_currentTag _).trans hbegun.tag,
        closeFrame_current _, (closeFrame_queue _).trans hqueue, closeFrame_reentry _,
        (closeFrame_position _).trans (by rw [← hp, hex]; rfl),
        hbegun.toPerforms.of_same (closeFrame_lines _) (by rw [closeFrame_report]; rfl) (by rw [closeFrame_report]; rfl)
          rfl rfl,
        (closeFrame_tables _).trans htables,
        (closeFrame_governor (counted_of_ne_cut (by
          show v.executor.state ≠ .cut
          rw [hvst]
          exact ExecState.noConfusion))).trans hbegun.governor⟩
    case leave =>
      have hbegun : BegunAt pos q rest s (beginRecord q rest s) := beginRecord_begun hp
      have h1 := (startOnce_of_standoff hst ha hf true).trans (startNext_of_leave hh hpend hq hst hb _)
      generalize beginRecord q rest s = v at h1 hbegun
      have hex := hbegun.executor
      have hvp : v.executor.position = some pos := by rw [hex]; exact hp
      have hvb : v.executor.block = some blk := by rw [hex]; exact hblk
      have hvc : v.executor.current = some ⟨q, 0, 0, 0, pos.x, pos.y, 0, false⟩ := by rw [hex]; rfl
      have hvre : v.executor.reentering = false := by rw [hex]; rfl
      have hfree : v.executor.leftAbove.free = false := Executor.free_of_busy hvc rfl
      have hwork : startWork q v = v.setExecutor v.executor.leftAbove := by
        unfold startWork
        simp only [hb]
        rw [Executor.startLeave_of_above hvp (by rw [State.clearZ_of_block hvb]; exact hlow) hvc hb
          ((Executor.dry_of_block hvb).trans hd)]
      rw [hwork] at h1
      have h2 : startOnce false (v.setExecutor v.executor.leftAbove) =
          some (startTrim (v.setExecutor v.executor.leftAbove)) := by
        rw [startOnce_of_stepDone (s := v.setExecutor v.executor.leftAbove) rfl hvre rfl
          (Executor.atRest_of_step hfree (.inl rfl)),
          nextStep_of_leave (s := v.setExecutor v.executor.leftAbove) rfl hvc]
      have h3 : startOnce false (startTrim (v.setExecutor v.executor.leftAbove)) = none :=
        startOnce_of_midStep (s := startTrim (v.setExecutor v.executor.leftAbove)) rfl rfl (.inl hfree)
          (.inl (hbegun.abortFlag.trans ha)) _
      obtain ⟨t, hexec, rfl, k1, k2, k3, k4, k5, k6⟩ := execFrame_of_trim h hset (startFrame_of_two hp h1 h2 h3)
        hbegun.setup hbegun.tables (by rw [State.setExecutor_port, hbegun.port])
      refine ⟨_, hexec, ?_, k1, k2, k3, k4, k5.trans hvp, k6.trans hbegun.governor⟩
      refine hbegun.toBegun.later (closeFrame_frameOnly ⟨rfl, rfl, rfl, rfl, rfl, rfl, rfl, rfl, rfl, rfl, rfl⟩)
        (closeFrame_reentry _) ?_ ⟨_, (closeFrame_current _).trans hvc, rfl⟩
      refine (closeFrame_dwellTimer _).trans ?_
      show v.executor.dwellTimer.tick _ = _
      rw [hbegun.dwell]
      rfl
  case plunge =>
    have hset : settle s = s := settle_of_quiet hquiet (.inr fun p hr => by rw [hst] at hr; cases hr)
      (.inl hh) (.inl ha) (.inl (by rw [hst]; exact ExecState.noConfusion))
    have h1 := startOnce_of_reentryEnd hst ha hre hsd hh true
    intro first
    refine ⟨fun q rest c hf hq hb hd => ?waiting, fun cur c hc hcc hb => ?partDone⟩
    case waiting =>
      rw [endReentry_of_free hf] at h1
      have hfree : Free b r pos (s.setExecutor s.executor.reentered) :=
        { h with
          toCalm := {
            evalDue := hquiet.evalDue, jamDue := hquiet.jamDue, linkDue := hquiet.linkDue, lock := hquiet.lock
            trim := hquiet.trim, dwell := hquiet.dwell, noHalt := hh, noAbort := ha, stepDone := rfl }
          position := hp, free := rfl, noReentry := rfl, noStandoff := hpend }
      have hbegins : (s.setExecutor s.executor.reentered).executor.state.begins = true := by
        show s.executor.state.begins = true
        rw [hst]
        rfl
      have h2 := (hfree.begins hbegins hq).2 false
      have hbegun : BegunAt pos q rest (s.setExecutor s.executor.reentered) _ := beginRecord_begun hp
      have hfresh := hbegun.fresh hfree
      generalize beginRecord q rest (s.setExecutor s.executor.reentered) = v at h2 hbegun hfresh
      rw [startWork_of_cut hfresh.position hb] at h2
      have hrest : first c c.len = runSpeed (perFrame r.accel r.period) 0 (scaledCap c.cap v.governor.effective)
          (reach r.accel c.exit c.len) c.len := by
        rw [runSpeed_from_rest, hbegun.governor]
        rfl
      obtain ⟨hm, hbeg, honly, hcut, hcur, hnot, -, -⟩ := hfresh.firstCutFrame hb hrest hd
      have h3 : startOnce false (v.setExecutor (v.executor.inCut q pos c.len)) = none :=
        startOnce_of_midStep (s := v.setExecutor (v.executor.inCut q pos c.len)) rfl hfresh.stepDone
          (.inl (Executor.free_of_busy (cur := ⟨q, 0, 0, c.len, pos.x, pos.y, 0, false⟩) rfl rfl))
          (.inl hfresh.noAbort) _
      have hexec := execFrame_of_moved h hset (startFrame_of_two hp h1 h2 h3) hm
        (by rw [Executor.place_state]; exact ExecState.noConfusion)
      exact ⟨_, _, hexec, hbeg.of_start rfl, hcut, hnot, hcur, rfl, rfl⟩
    case partDone =>
      intro v hd
      rw [endReentry_of_busy hc hcc] at h1
      generalize hu : s.setExecutor (s.executor.resumedCut cur) = u at h1
      have hcur : u.executor.current = some { cur with speed := 0 } := by rw [← hu]; rfl
      have hstate : u.executor.state = .cut := by rw [← hu]; rfl
      have hsetup : u.part.setup = some r := by rw [← hu]; exact h.setup
      have hper : u.period = r.period := State.period_of_setup hsetup
      have h2 : startOnce false u = none :=
        startOnce_of_midStep (by rw [hstate]; rfl) (by rw [← hu]; rfl) (.inl (Executor.free_of_busy hcur hcc))
          (.inl (by rw [← hu]; exact ha)) _
      have hnew : newSpeed u { cur with speed := 0 } = v := by
        rw [newSpeed_of_running (by rw [hstate]; exact ExecState.noConfusion)
          (slowing_eq_false (by rw [← hu]; exact hh) (by rw [← hu]; exact ha)), motionBounds_of_cut hb,
          runSpeed_from_rest, State.accel_of_setup hsetup, hper, ← hu]
        rfl
      have hm := (motion_of_path (.inl hstate) hcur hcc).trans (pathFrame_of_short hnew (by rw [hper]; exact hd))
      rw [hper] at hm
      have hexec := execFrame_of_moved h hset (startFrame_of_one hp h1 h2) hm
        (by rw [Executor.place_state]; exact (hstate ▸ ExecState.noConfusion))
      have honly : FrameOnly s u := by rw [← hu]; exact ⟨rfl, rfl, rfl, rfl, rfl, rfl, rfl, rfl, rfl, rfl, rfl⟩
      refine ⟨_, hexec, ?_, ?_, ?_, ?_, frameOnly_of_moved honly ?_ ?_ ?_ ?_⟩
      · rw [closeFrame_state, State.setExecutor_executor, Executor.place_state]
        exact hstate
      · rw [closeFrame_reentering, State.setExecutor_executor, Executor.place_eq, ← hu]
        rfl
      · rw [closeFrame_reentry, State.setExecutor_executor, Executor.place_eq, ← hu]
        rfl
      · rw [closeFrame_current, State.setExecutor_executor, Executor.place_current]
        rfl
      all_goals
        rw [Executor.place_eq]
        rfl

end Sys2Proof.Machine

/-! # Records whose work takes no time (R107, R123) -/

namespace Sys2Proof.Machine

theorem Executor.completeCurrent_eq {e : Executor} {cur : Current} (hc : e.current = some cur) : e.completeCurrent =
    { e with current := some { cur with complete := true, speed := 0 }, zMove := none, stepDone := false } := by
  simp only [Executor.completeCurrent, hc]

/-- `w` is `v` once the work of the record `q`, just begun, has been found to take no time. -/
structure Finishes (q : Record) (v w : State) : Prop where
  link : w.link = v.link
  tables : w.tables = v.tables
  planner : w.planner = v.planner
  port : w.port = v.port
  part : w.part = v.part
  pending : w.pending = v.pending
  report : w.report = { v.report with events := w.report.events }
  due : w.governor.evalDue = v.governor.evalDue ∧ w.governor.jamDue = v.governor.jamDue
  executor : w.executor = { v.executor with
    state := w.executor.state, current := w.executor.current, block := w.executor.block
    zMove := none, stepDone := false }
  current : ∃ c, w.executor.current = some c ∧ c.record = q ∧ c.complete = true ∧ c.speed = 0 ∧ c.turn = 0
  begins : v.executor.state.begins = true → w.executor.state.begins = true

/-- `w` is `s` with the record `q` behind it, complete, and the next record to be begun at `pos`. -/
structure Passed (b : BladeEntry) (r : Setup) (pos : Position) (q : Record) (rest : List Record) (s w : State) : Prop
    extends Begun q rest s w where
  next : Free b r pos w
  begins : w.executor.state.begins = true
  state : w.part.state = s.part.state ∨ (s.part.state = .parked ∧ w.part.state = .running)
  noActions : s.planner.actions = [] → w.planner.actions = []

section
variable {s v w : State} {b : BladeEntry} {r : Setup} {q : Record} {rest : List Record} {pos : Position}

theorem BegunAt.passed (h : BegunAt pos q rest s v) (hf : Free b r pos s) (hb : s.executor.state.begins = true)
    (k : Finishes q v w) : Passed b r pos q rest s w where
  toPerforms := h.toPerforms.of_same (by rw [k.port]) (by rw [k.report]) (by rw [k.report]) rfl rfl
  tag := by rw [k.executor]; exact h.tag
  current := by obtain ⟨c, hc, hr, -⟩ := k.current; exact ⟨c, hc, hr⟩
  plunge := by rw [k.executor]; exact h.plunge
  reentry := by rw [k.executor]; exact h.reentry
  dwell := by rw [k.executor]; exact h.dwell
  queue := by rw [k.executor]; exact h.queue
  released := fun h1 h2 h3 =>
    (h.released h1 h2 h3).of_same rfl rfl (by rw [k.planner]) (by rw [k.planner]) (by rw [k.executor])
  link := k.link.trans h.link
  tables := k.tables.trans h.tables
  responses := by rw [k.report]; exact h.responses
  record := by rw [k.part]; exact h.record
  pending := k.pending.trans h.pending
  next := {
    running := by rw [k.part, h.inReset]; exact hf.running
    sending := by rw [k.port, h.port]; exact hf.sending
    setup := by rw [k.part, h.setup]; exact hf.setup
    blade := by rw [k.tables, h.tables]; exact hf.blade
    evalDue := by rw [k.due.1, h.governor]; exact hf.evalDue
    jamDue := by rw [k.due.2, h.governor]; exact hf.jamDue
    linkDue := by rw [k.port, h.port]; exact hf.linkDue
    lock := by rw [k.executor, h.executor]; exact hf.lock
    trim := by rw [k.executor, h.executor]; exact hf.trim
    dwell := by rw [k.executor, h.executor]; rfl
    noHalt := by rw [k.executor, h.executor]; exact hf.noHalt
    noAbort := by rw [k.part, h.abortFlag]; exact hf.noAbort
    stepDone := by rw [k.executor]
    position := by rw [k.executor, h.executor]; exact hf.position
    free := by obtain ⟨c, hc, -, hcc, -⟩ := k.current; simp only [Executor.free, hc, hcc]
    noReentry := by rw [k.executor, h.executor]; rfl
    noStandoff := by rw [k.executor, h.executor]; exact hf.noStandoff }
  begins := k.begins (by rw [h.executor]; exact hb)
  state := by rw [k.part]; exact h.state
  noActions := fun hs => by rw [k.planner]; exact h.noActions hs

/-! ## The six kinds -/

/-- A completion of the record just begun, in state `st` and executing block `blk`, takes no time. -/
theorem finishes_of_executor {st : ExecState} {blk : Option ExecBlock} {cur : Current} {g : Governor}
    (hcur : cur.record = q ∧ cur.complete = true ∧ cur.speed = 0 ∧ cur.turn = 0)
    (hg : g.evalDue = v.governor.evalDue ∧ g.jamDue = v.governor.jamDue)
    (hst : v.executor.state.begins = true → st.begins = true) :
    Finishes q v ((v.setGovernor g).setExecutor { v.executor with
      state := st, current := some cur, block := blk, zMove := none, stepDone := false }) :=
  ⟨rfl, rfl, rfl, rfl, rfl, rfl, rfl, hg, rfl, ⟨cur, rfl, hcur⟩, hst⟩

variable (k : Fresh b r pos q rest s v)
include k

theorem Fresh.finishes_actions (hb : q.body = .actions) :
    Finishes q v (startWork q v) ∧ (startWork q v).report = v.report ∧
      (startWork q v).executor.state = v.executor.state ∧ (startWork q v).executor.block = v.executor.block := by
  have hw : startWork q v = v.setExecutor { v.executor with
      current := some ⟨q, 0, 0, 0, pos.x, pos.y, 0, true⟩, zMove := none, stepDone := false } := by
    unfold startWork
    simp only [hb]
    rw [Executor.completeCurrent_eq k.fresh]
  rw [hw]
  exact ⟨finishes_of_executor ⟨rfl, rfl, rfl, rfl⟩ ⟨rfl, rfl⟩ id, rfl, rfl, rfl⟩

theorem Fresh.finishes_blockDone {tag : Tag} (hb : q.body = .blockDone tag) :
    Finishes q v (startWork q v) ∧
      (startWork q v).report.events = { v.report.events with blockDone := true, blockDoneTag := tag } ∧
      (startWork q v).executor.state = v.executor.state ∧ (startWork q v).executor.block = v.executor.block := by
  have hw : startWork q v = raiseBlockDone tag (v.setExecutor { v.executor with
      current := some ⟨q, 0, 0, 0, pos.x, pos.y, 0, true⟩, zMove := none, stepDone := false }) := by
    unfold startWork
    simp only [hb]
    rw [Executor.completeCurrent_eq k.fresh]
  rw [hw]
  exact ⟨⟨rfl, rfl, rfl, rfl, rfl, rfl, rfl, ⟨rfl, rfl⟩, rfl, ⟨_, rfl, rfl, rfl, rfl, rfl⟩, id⟩, rfl, rfl, rfl⟩

theorem Fresh.finishes_blockStart {top clear : Nat} {dry : Bool} {tag : Tag}
    (hb : q.body = .blockStart top clear dry tag) (hz : pos.z = clear ∨ (dry = false ∧ clear ≤ pos.z)) :
    Finishes q v (startWork q v) ∧ (startWork q v).report = v.report ∧
      (startWork q v).executor.block = some ⟨top, clear, dry⟩ ∧ (startWork q v).governor.override = 100 := by
  have hez : Executor.z { v.executor with block := some ⟨top, clear, dry⟩ } = pos.z := by
    simp only [Executor.z, k.position]
  have hw : startWork q v = (v.setGovernor v.governor.blockStart).setExecutor { v.executor with
      state := .travel, block := some ⟨top, clear, dry⟩, current := some ⟨q, 0, 0, 0, pos.x, pos.y, 0, true⟩
      zMove := none, stepDone := false } := by
    have hfin : Executor.finishStep { v.executor with
        state := .travel, block := some ⟨top, clear, dry⟩, zMove := none, stepDone := false } = { v.executor with
        state := .travel, block := some ⟨top, clear, dry⟩, current := some ⟨q, 0, 0, 0, pos.x, pos.y, 0, true⟩
        zMove := none, stepDone := false } := by
      rw [Executor.finishStep_of_last (by exact ⟨k.reentering, .inl rfl⟩),
        Executor.completeCurrent_eq (by exact k.fresh)]
    unfold startWork startBlock Executor.startZ
    simp only [hb, hez]
    cases dry with
    | true =>
      obtain rfl : pos.z = clear := hz.resolve_right (by simp)
      rw [if_pos rfl, if_pos rfl, hfin]
    | false =>
      have hmax : max clear pos.z = pos.z := by
        rcases hz with hz | ⟨-, hz⟩ <;> omega
      rw [if_neg Bool.false_ne_true, hmax, if_pos rfl, hfin]
  rw [hw]
  exact ⟨finishes_of_executor ⟨rfl, rfl, rfl, rfl⟩ ⟨rfl, rfl⟩ fun _ => rfl, rfl, rfl, rfl⟩

theorem Fresh.finishes_enter {x y : Int} {h : Option Nat} {p : Nat} {blk : ExecBlock}
    (hb : q.body = .enter x y h p) (hblk : v.executor.block = some blk) (hd : blk.dry = true) :
    Finishes q v (startWork q v) ∧ (startWork q v).report = v.report := by
  have hw : startWork q v = v.setExecutor { v.executor with
      current := some ⟨q, 0, 0, 0, pos.x, pos.y, 0, true⟩, zMove := none, stepDone := false } := by
    unfold startWork
    simp only [hb]
    rw [if_pos ((Executor.dry_of_block hblk).trans hd), Executor.completeCurrent_eq k.fresh]
  rw [hw]
  exact ⟨finishes_of_executor ⟨rfl, rfl, rfl, rfl⟩ ⟨rfl, rfl⟩ id, rfl⟩

theorem Fresh.finishes_travel (hb : q.body = .travel pos.x pos.y (some pos.heading)) (hh : pos.heading < 36000) :
    Finishes q v (startWork q v) ∧ (startWork q v).report = v.report := by
  have hturn : rotationOf pos.heading pos.heading = 0 := by
    have hraw : rawChange pos.heading pos.heading = 0 := by
      have h36 : Config.turn = 36000 := rfl
      rw [rawChange, h36, Nat.mod_eq_of_lt hh]
      omega
    rw [rotationOf, hraw]
    rfl
  have hlen : vecLength (pos.x - pos.x) (pos.y - pos.y) = 0 := by
    rw [Int.sub_self, Int.sub_self]
    decide
  have hw : startWork q v = v.setExecutor { v.executor with
      state := .travel, current := some ⟨q, 0, 0, 0, pos.x, pos.y, 0, true⟩, zMove := none, stepDone := false } := by
    unfold startWork startTravel
    simp only [hb, k.position, k.fresh, Option.getD_some, hturn, hlen, and_self, if_true]
    rfl
  rw [hw]
  exact ⟨finishes_of_executor ⟨rfl, rfl, rfl, rfl⟩ ⟨rfl, rfl⟩ fun _ => rfl, rfl⟩

theorem Fresh.finishes_leave {g : Nat} {blk : ExecBlock} (hb : q.body = .leave g false)
    (hblk : v.executor.block = some blk) (hz : blk.clear ≤ pos.z) :
    Finishes q v (startWork q v) ∧ (startWork q v).report = v.report := by
  have hw : startWork q v = v.setExecutor { v.executor with
      state := .retract .leave, current := some ⟨q, 0, 0, 0, pos.x, pos.y, 0, true⟩, zMove := none
      stepDone := false } := by
    unfold startWork
    simp only [hb]
    rw [Executor.startRetract_of_above k.position (by rw [State.clearZ_of_block hblk]; exact hz),
      Executor.finishStep_of_last
        (by exact ⟨k.reentering, .inr (.inr (.inr (.inr ⟨rfl, _, g, false, k.fresh, hb, rfl⟩)))⟩),
      Executor.completeCurrent_eq (by exact k.fresh)]
  rw [hw]
  exact ⟨finishes_of_executor ⟨rfl, rfl, rfl, rfl⟩ ⟨rfl, rfl⟩ fun _ => rfl, rfl⟩

end

/-! ## The next record, begun in the same frame -/

section
variable {s w : State} {b : BladeEntry} {r : Setup} {q next : Record} {rest : List Record} {pos : Position}

/-- The queue behind the next record, once the record before it has been passed. -/
theorem Passed.queue_cons (h : Passed b r pos q (next :: rest) s w) :
    ∃ more, w.executor.queue = next :: (rest ++ more) ∧
      ((s.part.state = .parked ∨ s.part.state = .running) → s.part.abortFlag = false →
        s.link.intake ≠ [] ∨ s.planner.actions = [] →
        more = (s.planner.window.take (s.callsFor (next :: rest).length)).map fun w => w.record) := by
  obtain ⟨more, hmore⟩ := h.queue
  refine ⟨more, hmore.symm, fun h1 h2 h3 => ?_⟩
  have hq := (h.released h1 h2 h3).queue
  rw [← hmore] at hq
  exact List.append_cancel_left hq

/-- A first frame from rest goes no faster than one step of the acceleration. -/
theorem runSpeed_le_accel {a bound allow left : Nat} (h : 1 ≤ a) : runSpeed a 0 bound allow left ≤ a := by
  rw [runSpeed_from_rest]
  split <;> omega

theorem Governor.afterFrame_override (counts : Bool) (ceiling : Nat) (g : Governor) :
    (g.afterFrame counts ceiling).override = g.override := by
  unfold Governor.afterFrame
  split
  · rfl
  · split <;> rfl

/-- Behind a record of no time a CUT is begun in the same frame, and the releases behind the two are one (R83, R107). -/
theorem Passed.cut {c : CutRecord} (h : Free b r pos s) (hb : s.executor.state.begins = true)
    (hq : s.executor.queue = q :: next :: rest) (k : Passed b r pos q (next :: rest) s w)
    (hw : startWork q (beginRecord q (next :: rest) s) = w) (hbody : next.body = .cut c)
    (hlen : max 1 (r.accel * r.period / 1000) * r.period < c.len) :
    ∃ t cur, exec .frame s = .next t ∧ t.executor.state = .cut ∧ t.executor.currentTag = next.tag ∧
      t.executor.current = some cur ∧ cur.record = next ∧ rest <+: t.executor.queue ∧
      Performs (q.actions ++ next.actions) s t ∧
      (s.part.state = .parked ∨ s.part.state = .running → s.link.intake ≠ [] ∨ s.planner.actions = [] →
        Released rest s t) ∧
      t.report.events = w.report.events ∧ t.executor.block = w.executor.block ∧
      t.governor.override = w.governor.override := by
  obtain ⟨more, hqueue, hmore⟩ := k.queue_cons
  obtain ⟨hset, h1⟩ := h.begins hb hq
  have h1 := (h1 true).trans (congrArg some hw)
  have h2 := (k.next.begins k.begins hqueue).2 false
  have hbegun : BegunAt pos next (rest ++ more) w (beginRecord next (rest ++ more) w) :=
    beginRecord_begun k.next.position
  have hfresh := hbegun.fresh k.next
  generalize beginRecord next (rest ++ more) w = v at h2 hbegun hfresh
  rw [startWork_of_cut hfresh.position hbody] at h2
  have hspeed : runSpeed (perFrame r.accel r.period) 0 (scaledCap c.cap v.governor.effective)
      (reach r.accel c.exit c.len) c.len * r.period < c.len :=
    Nat.lt_of_le_of_lt (Nat.mul_le_mul_right _ (runSpeed_le_accel (Nat.le_max_left _ _))) hlen
  obtain ⟨hm, hbeg, honly, hstate, hcur, -, -, hgov⟩ := hfresh.firstCutFrame hbody rfl hspeed
  have h3 : startOnce false (v.setExecutor (v.executor.inCut next pos c.len)) = none :=
    startOnce_of_midStep (s := v.setExecutor (v.executor.inCut next pos c.len)) rfl hfresh.stepDone
      (.inl (Executor.free_of_busy (cur := ⟨next, 0, 0, c.len, pos.x, pos.y, 0, false⟩) rfl rfl))
      (.inl hfresh.noAbort) _
  have hexec := execFrame_of_moved h.toFraming hset (startFrame_of_two h.position h1 h2 h3) hm
    (by rw [Executor.place_state]; exact ExecState.noConfusion)
  refine ⟨_, _, hexec, hstate, hbeg.tag, hcur, rfl, (List.prefix_append _ _).trans hbeg.queue,
    k.toPerforms.trans hbeg.toPerforms, fun hworks hact => ?_, by rw [honly.report, hbegun.events],
    by rw [honly.block, hbegun.executor]; rfl, by rw [hgov, Governor.afterFrame_override, hbegun.governor]⟩
  have hfirst := k.released hworks h.noAbort hact
  have hthen := hbeg.released (k.state.elim (fun he => by rw [he]; exact hworks) fun he => .inr he.2) k.next.noAbort
    (hact.imp (fun hi => by rw [k.link]; exact hi) k.noActions)
  rw [hmore hworks h.noAbort hact] at hthen
  exact Released.again (before := [next]) hfirst k.link hthen

end

end Sys2Proof.Machine

/-! # The Executor finds its rest (R123, R124, R145, Table 3.5) -/

namespace Sys2Proof.Machine

/-! ## What the commit of a blade table leaves of the report -/

theorem postResponse_marks (p : Response) (s : State) : (postResponse p s).report.marks = s.report.marks ∧
    (postResponse p s).report.lost = s.report.lost := by
  unfold postResponse
  split <;> exact ⟨rfl, rfl⟩

theorem commitBlade_marks (s : State) : (commitBlade s).report.marks = s.report.marks ∧
    (commitBlade s).report.lost = s.report.lost := by
  unfold commitBlade
  split
  · exact ⟨rfl, rfl⟩
  · split
    · exact postResponse_marks _ _
    · exact ⟨rfl, rfl⟩

section
variable {s u : State} {b : BladeEntry} {r : Setup} {pos : Position} {cur : Current}

/-! ## What starts when nothing is left to begin -/

theorem Executor.mayRest_first (e : Executor) : e.mayRest true = true := rfl

/-- With an empty queue a free Executor with a current record, where it may rest, enters its rest (R124). -/
theorem startNext_of_rest {first : Bool} (hh : s.executor.haltRequest = false)
    (hp : s.executor.standoffPending = false) (hq : s.executor.queue = []) (hc : s.executor.current = some cur)
    (hst : s.executor.state.begins = true) (hr : s.executor.mayRest first = true) :
    startNext first s = some (enterRest s) := by
  unfold startNext
  rw [if_neg (ne_true_of_eq_false hh), if_neg (ne_true_of_eq_false hp)]
  cases hs : s.executor.state with
  | standoff h => rw [hs] at hst; cases hst
  | _ => simp [hq, hc, hr]

/-- Where it may not rest yet, nothing starts. -/
theorem startNext_of_noRest {first : Bool} (hh : s.executor.haltRequest = false)
    (hp : s.executor.standoffPending = false) (hq : s.executor.queue = []) (hc : s.executor.current = some cur)
    (hr : s.executor.mayRest first = false) : startNext first s = none := by
  unfold startNext
  rw [if_neg (ne_true_of_eq_false hh), if_neg (ne_true_of_eq_false hp)]
  cases hs : s.executor.state <;> simp [hq, hc, hr]

theorem enterRest_of_air (hm : s.executor.inMaterial = false) : enterRest s = s.setExecutor s.executor.enterIdle :=
  if_neg (ne_true_of_eq_false hm)

theorem enterRest_of_material (hm : s.executor.inMaterial = true) : enterRest s = enterDwell s :=
  if_pos hm

/-- In IDLE, with no record current and none to begin, nothing starts. -/
theorem startOnce_of_idle (hst : s.executor.state = .idle) (hc : s.executor.current = none)
    (hq : s.executor.queue = []) (ha : s.part.abortFlag = false) (hre : s.executor.reentering = false)
    (hsd : s.executor.stepDone = false) (hh : s.executor.haltRequest = false)
    (hp : s.executor.standoffPending = false) (first : Bool) : startOnce first s = none := by
  rw [startOnce_of_begins (by rw [hst]; rfl)]
  simp only [ha, hre, hsd, Executor.free_of_none hc, Bool.false_eq_true, if_false, if_true]
  exact startNext_of_waiting hh hp hq (.inl ⟨.inr hst, hc⟩) _

/-! ## The frame that comes to rest out of material -/

/-- A frame that starts what leads to `u`, in which nothing moves. -/
theorem execFrame_of_rested (h : Framing b r s) (hset : settle s = s) (hst : startFrame s = u) (hm : motion u = u) :
    exec .frame s = .next (closeFrame (commitBlade (judgeParked u))) := by
  rw [execFrame_of_framing h, runFrame, workFrame, hset, hst, hm]

/-- What the Part Controller and the Table Store do behind an Executor that is idle with nothing held (R44, R145). -/
theorem commitBlade_of_idle (hst : u.executor.state = .idle) (hc : u.executor.current = none)
    (hq : u.executor.queue = []) (ha : u.part.abortFlag = false) :
    (u.part.state = .running → u.planner.stream = .noBlock → u.planner.window = [] →
      (commitBlade (judgeParked u)).part = { u.part with state := .parked }) ∧
    (u.part.state ≠ .running ∨ u.planner.stream ≠ .noBlock ∨ u.planner.window ≠ [] →
      (commitBlade (judgeParked u)).part = u.part) ∧
    (u.tables.waiting = none ∨ u.planner.window ≠ [] →
      (commitBlade (judgeParked u)).tables = u.tables ∧ (commitBlade (judgeParked u)).report = u.report) ∧
    (∀ w, u.tables.waiting = some w → u.planner.window = [] →
      (commitBlade (judgeParked u)).tables = { u.tables with blade := w.entry, waiting := none }) := by
  rw [commitBlade_part]
  refine ⟨fun hr hstr hw => ?_, fun hno => ?_, fun hno => ?_, fun w hwait hw => ?_⟩
  · rw [judgeParked_of_rest hr ha hstr hw hq hst hc]
    rfl
  · rw [judgeParked_of_idle hno]
  · rcases hno with hno | hno
    · rw [commitBlade_of_none (by rw [judgeParked_tables]; exact hno), judgeParked_tables, judgeParked_report]
      exact ⟨rfl, rfl⟩
    · rw [commitBlade_of_held (by rw [judgeParked_planner]; exact .inl hno), judgeParked_tables, judgeParked_report]
      exact ⟨rfl, rfl⟩
  · rw [commitBlade_of_waiting (w := w) (by rw [judgeParked_tables]; exact hwait)
      (by rw [judgeParked_planner]; exact hw) (by rw [judgeParked_executor]; exact hq)
      (by rw [judgeParked_executor]; exact hst), postResponse_tables, judgeParked_tables]
    rfl

/-! ## DWELL with a timeout of 0 (R108, R124) -/

/-- A retract is seen in state, current record and step in progress alone. -/
theorem Executor.startRetract_eq (e : Executor) (p : Purpose) (target speed : Nat) :
    e.startRetract p target speed = { e with
      state := .retract p, current := (e.startRetract p target speed).current
      zMove := (e.startRetract p target speed).zMove, stepDone := (e.startRetract p target speed).stepDone } := by
  unfold Executor.startRetract Executor.startZ
  split
  · rw [Executor.finishStep_eq]
  · rfl

/-- A retract that follows no record leaves the current record as it was. -/
theorem Executor.startRetract_current {e : Executor} {p : Purpose} (target speed : Nat)
    (hp : p = .standoff ∨ p = .abort ∨ p = .recover) : (e.startRetract p target speed).current = e.current := by
  unfold Executor.startRetract Executor.startZ
  split
  · rw [Executor.finishStep_of_earlier]
    · rfl
    · rcases hp with rfl | rfl | rfl
      · exact .inr (.inr (.inl rfl))
      · exact .inr (.inr (.inr (.inl rfl)))
      · exact .inr (.inr (.inr (.inr (.inl rfl))))
  · rfl

/-- A frame of a vertical move leaves the current record alone in the steps that are not the last of one. -/
theorem zFrame_of_earlier (he : s.executor.OnEarlierStep) :
    ∃ e, zFrame s = s.setExecutor e ∧ e.state = s.executor.state ∧ e.current = s.executor.current ∧
      e.queue = s.executor.queue ∧ e.currentTag = s.executor.currentTag := by
  rcases hp : s.executor.position with _ | pos
  · exact ⟨s.executor, by simp only [zFrame, hp]; rfl, rfl, rfl, rfl, rfl⟩
  rcases hz : s.executor.zMove with _ | m
  · exact ⟨s.executor, by simp only [zFrame, hp, hz]; rfl, rfl, rfl, rfl, rfl⟩
  refine ⟨_, zFrame_of_moving hp hz, by rw [Executor.zMoved_eq], ?_, by rw [Executor.zMoved_eq],
    by rw [Executor.zMoved_eq]⟩
  by_cases hend : zStep pos.z m.target (m.speed * s.period) = m.target
  · rw [Executor.zMoved_of_end hend,
      Executor.finishStep_of_earlier (e := { s.executor with position := some { pos with z := m.target } }) he]
    rfl
  · rw [Executor.zMoved_of_short hend]

theorem beginStandoffRetract_keeps (s : State) : ∃ e, beginStandoffRetract s = s.setExecutor e ∧
    e.state = .retract .standoff ∧ e.current = s.executor.restedCurrent ∧ e.queue = s.executor.queue ∧
    e.currentTag = s.executor.currentTag := by
  refine ⟨_, rfl, ?_, Executor.startRetract_current _ _ (.inl rfl), ?_, ?_⟩ <;> rw [Executor.startRetract_eq]

/-- The Executor in a DWELL whose timer has just started (R124). -/
def Executor.dwelling (timeout : Nat) (e : Executor) : Executor :=
  { e with
    state := .dwell, current := none, dwellTimer := .running 0 timeout, reentering := false, stepDone := false }

theorem enterDwell_of_noTimeout (hb : s.tables.blade = some b) (ht : b.dwellTimeout = 0) : enterDwell s =
    beginStandoffRetract (takeDwellExpiry (s.setExecutor (s.executor.dwelling 0))) := by
  unfold enterDwell
  rw [State.blade_of_some hb, ht]
  rfl

end

end Sys2Proof.Machine

/-! # Records of no time, and the rest behind them (R107, R123, R124, R145) -/

namespace Sys2Proof.Machine

section
variable {s w : State} {b : BladeEntry} {r : Setup} {pos : Position} {q : Record} {cur : Current}

/-! ## The last record is complete, and nothing moves -/

/-- A part of a turn that is over is nothing. -/
theorem turnPart_zero (step : Nat) : turnPart 0 step = 0 := by
  unfold turnPart
  simp

theorem turnBy_zero {h : Nat} (hh : h < 36000) : turnBy h 0 = h := by
  have h36 : (Config.turn : Int) = 36000 := rfl
  unfold turnBy
  rw [h36, Int.add_zero, Int.emod_eq_of_lt (by omega) (by omega)]
  omega

/-- With its record complete, with no turn left and no vertical move, the Executor moves nothing: at most a step is
found complete. -/
theorem motion_of_complete (hp : s.executor.position = some pos) (hh : pos.heading < 36000)
    (hst : s.executor.state.begins = true) (hc : s.executor.current = some cur) (hcc : cur.complete = true)
    (hv : cur.speed = 0) (hturn : cur.turn = 0) (hz : s.executor.zMove = none) :
    ∃ e, motion s = s.setExecutor e ∧ s.executor.SameWork e := by
  have hsame : ∃ e, s = s.setExecutor e ∧ s.executor.SameWork e := ⟨_, rfl, Executor.SameWork.refl _⟩
  have hpath : pathState s = s := by simp only [pathState, hc, hcc, if_true]
  have htravel : travelState s = s := by simp only [travelState, hc, hcc, if_true]
  have hzf : zFrame s = s := by simp only [zFrame, hp, hz]
  have hcur : ∀ c, s.executor.current = some c → c.complete = true ∧ c.speed = 0 := fun c h => by
    obtain rfl : cur = c := Option.some.inj (hc.symm.trans h)
    exact ⟨hcc, hv⟩
  have hturned : ∀ rate, ∃ e, turnStep rate s = s.setExecutor e ∧ s.executor.SameWork e := by
    intro rate
    have he : s.executor.turned pos cur (perFrame rate s.period) = s.executor.finishStep := by
      rw [Executor.turned_of_end (by rw [hturn, turnPart_zero]), hturn, turnPart_zero, turnBy_zero hh]
      congr 1
      rw [← hp]
      cases cur
      simp only at hturn
      subst hturn
      rw [Int.sub_zero, ← hc]
    exact ⟨_, by rw [turnStep_of_turning hp hc, he], Executor.finishStep_sameWork hcur⟩
  unfold motion
  split
  · rw [htravel]; exact hsame
  · rw [hpath]; exact hsame
  · rename_i hstop; rw [hstop] at hst; cases hst
  · rw [hzf]; exact hsame
  · rw [hzf]; exact hsame
  · exact hturned _
  · exact hturned _
  all_goals exact hsame

/-! ## The frame in which the Executor enters its rest -/

/-- Out of material a free Executor with nothing left to begin is idle from the next frame on (R124, R145). -/
theorem Free.restsInAir (h : Free b r pos s) (hb : s.executor.state.begins = true) (hq : s.executor.queue = [])
    (hc : s.executor.current = some cur) (hm : s.executor.inMaterial = false) :
    exec .frame s = .next (closeFrame (commitBlade (judgeParked (s.setExecutor s.executor.enterIdle)))) := by
  have hset : settle s = s := settle_of_calm h.toCalm (by intro hst; rw [hst] at hb; cases hb)
  have h1 : startOnce true s = some (s.setExecutor s.executor.enterIdle) := by
    rw [startOnce_of_free h.toCalm hb h.noReentry h.free,
      startNext_of_rest h.noHalt h.noStandoff hq hc hb (Executor.mayRest_first _), enterRest_of_air hm]
  have h2 : startOnce false (s.setExecutor s.executor.enterIdle) = none :=
    startOnce_of_idle (s := s.setExecutor s.executor.enterIdle) rfl rfl hq h.noAbort rfl rfl h.noHalt rfl _
  exact execFrame_of_rested h.toFraming hset (startFrame_of_one h.position h1 h2) (motion_of_still (.inl rfl))

/-- In material it is in DWELL, whose timer has just started (R124). -/
theorem Free.dwells (h : Free b r pos s) (hb : s.executor.state.begins = true) (hq : s.executor.queue = [])
    (hc : s.executor.current = some cur) (hm : s.executor.inMaterial = true) (ht : 0 < b.dwellTimeout) :
    exec .frame s = .next (closeFrame (s.setExecutor (s.executor.dwelling b.dwellTimeout))) := by
  have hset : settle s = s := settle_of_calm h.toCalm (by intro hst; rw [hst] at hb; cases hb)
  have h1 : startOnce true s = some (s.setExecutor (s.executor.dwelling b.dwellTimeout)) := by
    rw [startOnce_of_free h.toCalm hb h.noReentry h.free,
      startNext_of_rest h.noHalt h.noStandoff hq hc hb (Executor.mayRest_first _), enterRest_of_material hm,
      enterDwell_of_timeout h.blade ht]
    rfl
  have h2 : startOnce false (s.setExecutor (s.executor.dwelling b.dwellTimeout)) = none := by
    rw [startOnce_of_begins rfl]
    simp only [State.setExecutor_part, h.noAbort, State.setExecutor_executor, Executor.dwelling, Executor.free,
      Bool.false_eq_true, if_false, if_true]
    exact startNext_of_waiting (s := s.setExecutor (s.executor.dwelling b.dwellTimeout)) h.noHalt h.noStandoff hq
      (.inl ⟨.inl rfl, rfl⟩) _
  have hmotion : motion (s.setExecutor (s.executor.dwelling b.dwellTimeout)) =
      (s.setExecutor (s.executor.dwelling b.dwellTimeout)).setExecutor (s.executor.dwelling b.dwellTimeout) :=
    motion_of_still (.inr (.inr (.inr (.inl rfl))))
  exact execFrame_of_moved (u := s.setExecutor (s.executor.dwelling b.dwellTimeout)) h.toFraming hset
    (startFrame_of_one h.position h1 h2) hmotion ExecState.noConfusion

/-- With a timeout of 0 it begins the standoff retract at once (R108, R124). -/
theorem Free.retractsAtOnce (h : Free b r pos s) (hb : s.executor.state.begins = true) (hq : s.executor.queue = [])
    (hc : s.executor.current = some cur) (hm : s.executor.inMaterial = true) (ht : b.dwellTimeout = 0) :
    settle s = s ∧ startFrame s = beginStandoffRetract (takeDwellExpiry (s.setExecutor (s.executor.dwelling 0))) := by
  have h1 : startOnce true s =
      some (beginStandoffRetract (takeDwellExpiry (s.setExecutor (s.executor.dwelling 0)))) := by
    rw [startOnce_of_free h.toCalm hb h.noReentry h.free,
      startNext_of_rest h.noHalt h.noStandoff hq hc hb (Executor.mayRest_first _), enterRest_of_material hm,
      enterDwell_of_noTimeout h.blade ht]
  obtain ⟨e, he, hst, -⟩ := beginStandoffRetract_keeps (takeDwellExpiry (s.setExecutor (s.executor.dwelling 0)))
  refine ⟨settle_of_calm h.toCalm (by intro hst; rw [hst] at hb; cases hb), startFrame_of_one h.position h1 ?_⟩
  rw [he]
  exact startOnce_of_still (.inr (.inr (.inr (.inr (.inl hst))))) _

end

/-- The rest, as O39 states it: DWELL, the standoff retract, or IDLE. -/
theorem restIsFound (s : State) (b : BladeEntry) (r : Setup) (pos : Position) (cur : Current)
    (h : Free b r pos s) (hb : s.executor.state.begins = true) (hq : s.executor.queue = [])
    (hc : s.executor.current = some cur) : ∃ t, exec .frame s = .next t ∧ t.executor.current = none ∧
      t.executor.queue = [] ∧
      t.executor.currentTag = s.executor.currentTag ∧ t.planner = s.planner ∧ t.governor = s.governor ∧
      t.link = s.link ∧
      (s.executor.inMaterial = true → 0 < b.dwellTimeout → t.executor.state = .dwell ∧
        t.executor.dwellTimer = .running r.period b.dwellTimeout ∧ t.executor.position = some pos ∧
        FrameOnly s t) ∧
      (s.executor.inMaterial = true → b.dwellTimeout = 0 → ∀ blk v, s.executor.block = some blk →
        s.executor.heldPlunge = some v → pos.z < blk.clear → t.executor.state = .retract .standoff ∧
        t.executor.reentry = some ⟨pos.x, pos.y, pos.heading, v⟩ ∧ t.executor.dwellTimer = .stopped ∧
        t.executor.position = some { pos with z := min blk.clear (pos.z + v * r.period) } ∧ FrameOnly s t) ∧
      (s.executor.inMaterial = false → t.executor.state = .idle ∧ t.executor.position = some pos ∧
        (s.part.state = .running → s.planner.stream = .noBlock → s.planner.window = [] →
          t.part = { s.part with state := .parked }) ∧
        (s.part.state ≠ .running ∨ s.planner.stream ≠ .noBlock ∨ s.planner.window ≠ [] → t.part = s.part) ∧
        (s.tables.waiting = none ∨ s.planner.window ≠ [] → t.tables = s.tables ∧ t.report = s.report) ∧
        (∀ w, s.tables.waiting = some w → s.planner.window = [] →
          t.tables = { s.tables with blade := w.entry, waiting := none })) := by
  rcases hm : s.executor.inMaterial with _ | _
  case false =>
    have hidle := commitBlade_of_idle (u := s.setExecutor s.executor.enterIdle) rfl rfl hq h.noAbort
    refine ⟨_, h.restsInAir hb hq hc hm, ?_⟩
    simp only [closeFrame_current, closeFrame_queue, closeFrame_currentTag, closeFrame_planner, closeFrame_link,
      closeFrame_state, closeFrame_position, closeFrame_part, closeFrame_tables, closeFrame_report,
      commitBlade_executor, judgeParked_executor, commitBlade_planner, judgeParked_planner, commitBlade_link,
      judgeParked_link]
    refine ⟨rfl, hq, rfl, rfl, ?_, rfl, fun h => absurd h Bool.false_ne_true, fun h => absurd h Bool.false_ne_true,
      fun _ => ⟨rfl, h.position, hidle⟩⟩
    rw [closeFrame_governor, commitBlade_governor, judgeParked_governor]
    · rfl
    · rw [commitBlade_executor, judgeParked_executor]
      rfl
  case true =>
    rcases Nat.eq_zero_or_pos b.dwellTimeout with ht | ht
    case inl =>
      obtain ⟨hset, hstart⟩ := h.retractsAtOnce hb hq hc hm ht
      obtain ⟨e, he, hst, hcur, hqueue, htag⟩ :=
        beginStandoffRetract_keeps (takeDwellExpiry (s.setExecutor (s.executor.dwelling 0)))
      have hu : beginStandoffRetract (takeDwellExpiry (s.setExecutor (s.executor.dwelling 0))) = s.setExecutor e := he
      obtain ⟨f, hf, hfst, hfcur, hfqueue, hftag⟩ := zFrame_of_earlier (s := s.setExecutor e) (.inr (.inr (.inl hst)))
      have hmotion : motion (s.setExecutor e) = (s.setExecutor e).setExecutor f := by
        rw [← hf]
        unfold motion
        simp only [State.setExecutor_executor, hst]
      have hexec := execFrame_of_moved h.toFraming hset (hstart.trans hu) hmotion
        (by rw [hfst, State.setExecutor_executor, hst]; exact ExecState.noConfusion)
      refine ⟨_, hexec, (closeFrame_current _).trans (hfcur.trans (hcur.trans rfl)),
        (closeFrame_queue _).trans (hfqueue.trans (hqueue.trans hq)),
        (closeFrame_currentTag _).trans (hftag.trans htag), closeFrame_planner _,
        closeFrame_governor_of_moved (by rw [hfst, State.setExecutor_executor, hst]; exact ExecState.noConfusion),
        closeFrame_link _, fun _ hpos => absurd ht (Nat.ne_of_gt hpos), fun _ _ blk v hblk hv hlow => ?_,
        fun h => absurd h Bool.noConfusion⟩
      have hbegin := beginStandoffRetract_of_below (s := takeDwellExpiry (s.setExecutor (s.executor.dwelling 0)))
        (b := false) h.position hblk hv hlow ⟨fun h => absurd h Bool.false_ne_true, fun ⟨_, h⟩ => by cases h⟩
      rw [takeDwellExpiry_of_position (s := s.setExecutor (s.executor.dwelling 0)) h.position hv] at hbegin hstart
      have hretract := execFrame_of_retract h.toFraming hset (hstart.trans hbegin) rfl (.inr (.inr (.inl rfl)))
        h.position rfl rfl hlow
      rw [Host.Outcome.next.inj (hexec.symm.trans hretract)]
      exact ⟨closeFrame_state _, closeFrame_reentry _, closeFrame_dwellTimer _, closeFrame_position _,
        closeFrame_frameOnly (FrameOnly.of_setExecutor rfl rfl rfl rfl)⟩
    case inr =>
      have hper : (s.setExecutor (s.executor.dwelling b.dwellTimeout)).period = r.period :=
        State.period_of_setup h.setup
      refine ⟨_, h.dwells hb hq hc hm ht, closeFrame_current _, (closeFrame_queue _).trans hq, closeFrame_currentTag _,
        closeFrame_planner _, closeFrame_governor rfl, closeFrame_link _, fun _ _ => ⟨closeFrame_state _, ?_,
        (closeFrame_position _).trans h.position, closeFrame_frameOnly (FrameOnly.of_setExecutor rfl rfl rfl rfl)⟩,
        fun _ hno => absurd hno (Nat.ne_of_gt ht), fun h => absurd h Bool.noConfusion⟩
      refine (closeFrame_dwellTimer _).trans ?_
      rw [hper]
      show Timer.running (0 + r.period) b.dwellTimeout = _
      rw [Nat.zero_add]

/-! ## The last record of the queue -/

section
variable {s w : State} {b : BladeEntry} {r : Setup} {pos : Position} {q : Record} {c : Current}

/-- The last record is complete, and the rest is looked for in the next frame (log 31). -/
theorem execFrame_of_lastStays (h : Free b r pos s) (hb : s.executor.state.begins = true)
    (h1 : startOnce true s = some w) (k : Passed b r pos q [] s w) (hh : pos.heading < 36000)
    (hq : w.executor.queue = []) (hc : w.executor.current = some c) (hcc : c.complete = true) (hv : c.speed = 0)
    (hturn : c.turn = 0) (hz : w.executor.zMove = none) (hr : w.executor.mayRest false = false) :
    ∃ e, exec .frame s = .next (closeFrame (commitBlade (w.setExecutor e))) ∧ w.executor.SameWork e := by
  have hset : settle s = s := settle_of_calm h.toCalm (by intro hst; rw [hst] at hb; cases hb)
  have h2 : startOnce false w = none := by
    rw [startOnce_of_free k.next.toCalm k.begins k.next.noReentry k.next.free]
    exact startNext_of_noRest k.next.noHalt k.next.noStandoff hq hc hr
  obtain ⟨e, hm, he⟩ := motion_of_complete k.next.position hh k.begins hc hcc hv hturn hz
  refine ⟨e, ?_, he⟩
  rw [execFrame_of_framing h.toFraming, runFrame, workFrame, hset, startFrame_of_one h.position h1 h2, hm,
    judgeParked_of_held (s := w.setExecutor e) (.inr (.inr (.inr (.inr ?_))))]
  show e.current ≠ none
  rw [he]
  show w.executor.current ≠ none
  simp [hc]

/-- Out of material a BLOCK-DONE lets the Executor be idle in its own frame (R123, Table 3.5; log 31). -/
theorem execFrame_of_lastRests (h : Free b r pos s) (hb : s.executor.state.begins = true)
    (h1 : startOnce true s = some w) (k : Passed b r pos q [] s w) (hq : w.executor.queue = [])
    (hc : w.executor.current = some c) (hm : w.executor.inMaterial = false) (hr : w.executor.mayRest false = true) :
    exec .frame s = .next (closeFrame (commitBlade (judgeParked (w.setExecutor w.executor.enterIdle)))) := by
  have hset : settle s = s := settle_of_calm h.toCalm (by intro hst; rw [hst] at hb; cases hb)
  have h2 : startOnce false w = some (w.setExecutor w.executor.enterIdle) := by
    rw [startOnce_of_free k.next.toCalm k.begins k.next.noReentry k.next.free,
      startNext_of_rest k.next.noHalt k.next.noStandoff hq hc k.begins hr, enterRest_of_air hm]
  have h3 : startOnce false (w.setExecutor w.executor.enterIdle) = none :=
    startOnce_of_idle (s := w.setExecutor w.executor.enterIdle) rfl rfl hq k.next.noAbort rfl rfl k.next.noHalt rfl _
  exact execFrame_of_rested h.toFraming hset (startFrame_of_two h.position h1 h2 h3) (motion_of_still (.inl rfl))

end

/-- The last record, as O39 states it: complete in its frame, or, out of material, a BLOCK-DONE that ends in IDLE. -/
theorem lastRecordIsComplete (s : State) (b : BladeEntry) (r : Setup) (pos : Position) (q : Record)
    (h : Free b r pos s) (hh : pos.heading < 36000) (hb : s.executor.state.begins = true) (hq : s.executor.queue = [q])
    (hbody : q.body = .actions ∨ (∃ tag, q.body = .blockDone tag)) (hwin : s.planner.window = [])
    (hact : s.planner.actions = [] ∨ s.link.intake ≠ []) :
    ∃ t, exec .frame s = .next t ∧ t.executor.currentTag = q.tag ∧ t.executor.queue = [] ∧
      t.executor.position = some pos ∧ Performs q.actions s t ∧
      (q.body = .actions → s.tables.waiting = none → t.report.events = s.report.events) ∧
      (∀ tag, q.body = .blockDone tag → s.tables.waiting = none →
        t.report.events = { s.report.events with blockDone := true, blockDoneTag := tag }) ∧
      (s.executor.inMaterial = false → q.body ≠ .actions → t.executor.state = .idle ∧ t.executor.current = none ∧
        (s.part.state = .running → s.planner.stream = .noBlock → t.part.state = .parked)) ∧
      (s.executor.inMaterial = true ∨ q.body = .actions → t.executor.state = s.executor.state ∧
        t.executor.dwellTimer = .stopped ∧ t.part = s.part ∧
        ∃ cur, t.executor.current = some cur ∧ cur.record = q ∧ cur.complete = true) := by
  have hbegun : BegunAt pos q [] s (beginRecord q [] s) := beginRecord_begun h.position
  have hfresh := hbegun.fresh h
  obtain ⟨hset, h1⟩ := h.begins hb hq
  have hv : beginRecord q [] s = performActions (s.setExecutor (s.executor.begun q pos [])) q.actions := by
    rw [beginRecord_eq h.position, plannerMoment_of_empty]
    · rw [performActions_planner]; exact hwin
    · rw [performActions_planner, performActions_link]; exact hact
  have hvq : (beginRecord q [] s).executor.queue = [] := by rw [hv, performActions_executor]; rfl
  have hvp : (beginRecord q [] s).part = s.part := by rw [hv, performActions_part]; rfl
  have hvpl : (beginRecord q [] s).planner = s.planner := by rw [hv, performActions_planner]; rfl
  generalize beginRecord q [] s = v at *
  have hfin : Finishes q v (startWork q v) ∧ (startWork q v).executor.state = v.executor.state ∧
      (startWork q v).executor.block = v.executor.block ∧
      (q.body = .actions → (startWork q v).report.events = s.report.events) ∧
      (∀ tag, q.body = .blockDone tag →
        (startWork q v).report.events = { s.report.events with blockDone := true, blockDoneTag := tag }) := by
    rcases hbody with hbody | ⟨tag, hbody⟩
    · obtain ⟨k, hrep, hst, hblk⟩ := hfresh.finishes_actions hbody
      exact ⟨k, hst, hblk, fun _ => by rw [hrep, hbegun.events], fun tag ht => by rw [ht] at hbody; cases hbody⟩
    · obtain ⟨k, hev, hst, hblk⟩ := hfresh.finishes_blockDone hbody
      refine ⟨k, hst, hblk, fun ht => absurd (ht.symm.trans hbody) Body.noConfusion, fun tag' ht => ?_⟩
      obtain rfl : tag' = tag := Body.blockDone.inj (ht.symm.trans hbody)
      rw [hev, hbegun.events]
  generalize startWork q v = w at *
  obtain ⟨k, hst, hblk, hevA, hevB⟩ := hfin
  have hpassed := hbegun.passed h hb k
  have hwst : w.executor.state = s.executor.state := by rw [hst, hbegun.executor]; rfl
  have hwq : w.executor.queue = [] := by rw [k.executor]; exact hvq
  have hwpart : w.part = s.part := k.part.trans hvp
  have hwplanner : w.planner = s.planner := k.planner.trans hvpl
  have hmat : w.executor.inMaterial = s.executor.inMaterial := by
    have hblock : w.executor.block = s.executor.block := by rw [hblk, hbegun.executor]; rfl
    simp only [Executor.inMaterial, hpassed.next.position, h.position, hblock]
  obtain ⟨c, hc, hcr, hcc, hcv, hct⟩ := k.current
  have hrest : w.executor.mayRest false = (q.body.endsWork && !s.executor.inMaterial) := by
    simp only [Executor.mayRest, hc, hcr, hmat, Bool.false_or]
  have hwait : s.tables.waiting = none → ∀ u : State, u.tables = w.tables → commitBlade u = u := fun hno u hu =>
    commitBlade_of_none (by rw [hu, hpassed.tables]; exact hno)
  by_cases hgo : s.executor.inMaterial = false ∧ q.body ≠ .actions
  case pos =>
    have hends : q.body.endsWork = true := by
      rcases hbody with hbody | ⟨tag, hbody⟩
      · exact absurd hbody hgo.2
      · rw [hbody]; rfl
    have hexec := execFrame_of_lastRests h hb (h1 true) hpassed hwq hc (hmat.trans hgo.1)
      (by rw [hrest, hends, hgo.1]; rfl)
    have hidle := commitBlade_of_idle (u := w.setExecutor w.executor.enterIdle) rfl rfl hwq hpassed.next.noAbort
    have hmarks := commitBlade_marks (judgeParked (w.setExecutor w.executor.enterIdle))
    refine ⟨_, hexec, ?_⟩
    simp only [closeFrame_currentTag, closeFrame_queue, closeFrame_position, closeFrame_report, closeFrame_state,
      closeFrame_current, closeFrame_part, closeFrame_dwellTimer, commitBlade_executor, judgeParked_executor]
    refine ⟨hpassed.tag, hwq, hpassed.next.position, ?_, fun hb => absurd hb hgo.2, fun tag hb hno => ?_,
      fun _ _ => ⟨rfl, rfl, fun hr hs => ?_⟩, fun hstay => ?_⟩
    · refine hpassed.toPerforms.of_same ?_ ?_ ?_ rfl rfl
      · rw [closeFrame_lines, commitBlade_port, judgeParked_port]
        rfl
      · rw [closeFrame_report, hmarks.1, judgeParked_report]
        rfl
      · rw [closeFrame_report, hmarks.2, judgeParked_report]
        rfl
    · rw [(hidle.2.2.1 (.inl (by rw [State.setExecutor_tables, hpassed.tables]; exact hno))).2]
      exact hevB tag hb
    · rw [hidle.1 (by rw [State.setExecutor_part, hwpart]; exact hr)
        (by rw [State.setExecutor_planner, hwplanner]; exact hs)
        (by rw [State.setExecutor_planner, hwplanner]; exact hwin)]
    · rcases hstay with hstay | hstay
      · rw [hgo.1] at hstay; cases hstay
      · exact absurd hstay hgo.2
  case neg =>
    have hnorest : w.executor.mayRest false = false := by
      rw [hrest]
      by_cases hm : s.executor.inMaterial = true
      · rw [hm]; simp
      · have hacts : q.body = .actions := by
          by_contra hno
          exact hgo ⟨Bool.eq_false_iff.2 hm, hno⟩
        rw [hacts]
        rfl
    obtain ⟨e, hexec, he⟩ := execFrame_of_lastStays h hb (h1 true) hpassed hh hwq hc hcc hcv hct
      (by rw [k.executor]) hnorest
    have hmarks := commitBlade_marks (w.setExecutor e)
    refine ⟨_, hexec, ?_⟩
    simp only [closeFrame_currentTag, closeFrame_queue, closeFrame_position, closeFrame_report, closeFrame_state,
      closeFrame_current, closeFrame_part, closeFrame_dwellTimer, commitBlade_executor, commitBlade_part,
      State.setExecutor_executor, State.setExecutor_part]
    refine ⟨by rw [he]; exact hpassed.tag, by rw [he]; exact hwq, by rw [he]; exact hpassed.next.position, ?_,
      fun hb hno => ?_, fun tag hb hno => ?_, fun hm hb => absurd ⟨hm, hb⟩ hgo,
      fun _ => ⟨by rw [he]; exact hwst, ?_, hwpart, c, by rw [he]; exact hc, hcr, hcc⟩⟩
    · refine hpassed.toPerforms.of_same ?_ ?_ ?_ rfl rfl
      · rw [closeFrame_lines, commitBlade_port]
        rfl
      · rw [closeFrame_report, hmarks.1]
        rfl
      · rw [closeFrame_report, hmarks.2]
        rfl
    · rw [hwait hno (w.setExecutor e) rfl]
      exact hevA hb
    · rw [hwait hno (w.setExecutor e) rfl]
      exact hevB tag hb
    · rw [he]
      show w.executor.dwellTimer.tick _ = _
      rw [hpassed.dwell]
      rfl

/-- Settles O39. -/
theorem zeroTimeRecordsAndRest : Obligations.ZeroTimeRecordsAndRest := by
  unfold Obligations.ZeroTimeRecordsAndRest
  refine ⟨fun s b r pos q next rest c h hb hq hnext hlen hwhich => ?passed, restIsFound, lastRecordIsComplete⟩
  have hbegun : BegunAt pos q (next :: rest) s (beginRecord q (next :: rest) s) := beginRecord_begun h.position
  have hfresh := hbegun.fresh h
  generalize hv : beginRecord q (next :: rest) s = v at hbegun hfresh
  have hblock : v.executor.block = s.executor.block := by rw [hbegun.executor]; rfl
  suffices hwork : Finishes q v (startWork q v) ∧
      (∀ tag, q.body = .blockDone tag →
        (startWork q v).report.events = { s.report.events with blockDone := true, blockDoneTag := tag }) ∧
      (∀ top clear dry tag, q.body = .blockStart top clear dry tag →
        (startWork q v).executor.block = some ⟨top, clear, dry⟩ ∧ (startWork q v).governor.override = 100) ∧
      ((∀ tag, q.body ≠ .blockDone tag) → (startWork q v).report.events = s.report.events) by
    obtain ⟨k, hdone, hstart, helse⟩ := hwork
    obtain ⟨t, cur, k1, k2, k3, k4, k5, k6, k7, k8, hev, hblk, hover⟩ :=
      (hbegun.passed h hb k).cut h hb hq (by rw [hv]) hnext hlen
    exact ⟨t, cur, k1, k2, k3, k4, k5, k6, k7, k8, fun tag ht => by rw [hev, hdone tag ht],
      fun top clear dry tag ht => ⟨hblk.trans (hstart _ _ _ _ ht).1, hover.trans (hstart _ _ _ _ ht).2⟩,
      fun hno => by rw [hev, helse hno]⟩
  rcases hwhich with hbody | ⟨tag, hbody⟩ | ⟨top, clear, dry, tag, hbody, hz⟩ | ⟨x, y, hd, p, blk, hbody, hblk, hdry⟩ |
    ⟨hbody, hh⟩ | ⟨g, blk, hbody, hblk, hz⟩
  case inr.inl =>
    obtain ⟨k, hev, -⟩ := hfresh.finishes_blockDone hbody
    refine ⟨k, fun tag' ht => ?_, fun _ _ _ _ ht => absurd (ht.symm.trans hbody) Body.noConfusion,
      fun hno => absurd hbody (hno tag)⟩
    obtain rfl : tag' = tag := Body.blockDone.inj (ht.symm.trans hbody)
    rw [hev, hbegun.events]
  case inr.inr.inl =>
    obtain ⟨k, hrep, hblk, hover⟩ := hfresh.finishes_blockStart hbody hz
    refine ⟨k, fun _ ht => absurd (ht.symm.trans hbody) Body.noConfusion, fun _ _ _ _ ht => ?_,
      fun _ => by rw [hrep, hbegun.events]⟩
    obtain ⟨rfl, rfl, rfl, -⟩ := Body.blockStart.inj (ht.symm.trans hbody)
    exact ⟨hblk, hover⟩
  all_goals
    refine ⟨?_, fun _ ht => absurd (ht.symm.trans hbody) Body.noConfusion,
      fun _ _ _ _ ht => absurd (ht.symm.trans hbody) Body.noConfusion, fun _ => ?_⟩
  · exact (hfresh.finishes_actions hbody).1
  · rw [(hfresh.finishes_actions hbody).2.1, hbegun.events]
  · exact (hfresh.finishes_enter hbody (hblock.trans hblk) hdry).1
  · rw [(hfresh.finishes_enter hbody (hblock.trans hblk) hdry).2, hbegun.events]
  · exact (hfresh.finishes_travel hbody hh).1
  · rw [(hfresh.finishes_travel hbody hh).2, hbegun.events]
  · exact (hfresh.finishes_leave hbody (hblock.trans hblk) hz).1
  · rw [(hfresh.finishes_leave hbody (hblock.trans hblk) hz).2, hbegun.events]

end Sys2Proof.Machine

/-! # The carry into the next CUTs (R110) -/

namespace Sys2Proof.Machine

/-! ## One record passed -/

/-- The record `q` is entered by carry, the Executor being `e` from then on: outside a fault stop its actions are
performed and the Planner's moment follows (R110, R130). -/
def carryOn (q : Record) (e : Executor) (s : State) : State :=
  if s.executor.state = .stopping then s.setExecutor e
  else plannerMoment (performActions (s.setExecutor e) q.actions)

section
variable {s t : State} {q : Record} {rest : List Record} {c : CutRecord}

theorem carryActions_eq (q : Record) (rest : List Record) (s : State) :
    carryActions q rest s = carryOn q (s.executor.pop q rest) s := rfl

/-- The Executor with the CUT `q` entered by carry, at distance `dist` and speed `speed`. -/
def Executor.entered (e : Executor) (q : Record) (rest : List Record) (len dist speed : Nat) : Executor :=
  { e.pop q rest with current := some ((e.pop q rest).freshCurrent q len dist speed) }

theorem carryCut_eq (q : Record) (c : CutRecord) (rest : List Record) (dist speed : Nat) (s : State) :
    carryCut q c rest dist speed s = carryOn q (s.executor.entered q rest c.len dist speed) s := rfl

/-- Outside a fault stop the Planner of a part at work, without an abort stop, has released what its rules call for with
`left` in the queue, where no ACTIONS record is to be made too (R83, R130). -/
def RulesApplied (left : List Record) (s t : State) : Prop :=
  s.executor.state ≠ .stopping → s.part.state = .parked ∨ s.part.state = .running → s.part.abortFlag = false →
    s.link.intake ≠ [] ∨ s.planner.actions = [] → Released left s t

/-- The records released behind those passed, or none yet. -/
def ReleasedBehind (left : List Record) (s t : State) : Prop :=
  Released left s t ∨ (t.planner = s.planner ∧ t.executor.queue = left)

/-- `t` is `s` with some records passed by carry, which had the actions `acts`, and `left` behind them: what stays, and
what the actions and the releases have done outside a fault stop (R110, R130). -/
structure Carried (acts : List Action) (left : List Record) (s t : State) : Prop where
  executor : t.executor = { s.executor with
    queue := t.executor.queue, currentTag := t.executor.currentTag, heldPlunge := t.executor.heldPlunge
    current := t.executor.current, dwellTimer := t.executor.dwellTimer }
  link : t.link = s.link
  tables : t.tables = s.tables
  governor : t.governor = s.governor
  pending : t.pending = s.pending
  responses : t.report.responses = s.report.responses
  events : t.report.events = s.report.events
  port : t.port = { s.port with lines := t.port.lines }
  part : t.part = { s.part with state := t.part.state }
  state : t.part.state = s.part.state ∨ (s.part.state = .parked ∧ t.part.state = .running)
  queue : left <+: t.executor.queue
  noActions : s.planner.actions = [] → t.planner.actions = []
  performs : s.executor.state ≠ .stopping → Performs acts s t
  released : s.executor.state ≠ .stopping → s.part.state = .parked ∨ s.part.state = .running →
    s.part.abortFlag = false → s.link.intake ≠ [] ∨ s.planner.actions = [] → ReleasedBehind left s t
  aborted : s.part.abortFlag = true → t.executor.queue = left ∧ t.planner = s.planner
  stopped : s.executor.state = .stopping → t.executor.queue = left ∧ t.planner = s.planner ∧ t.report = s.report ∧
    t.port = s.port ∧ t.part = s.part

theorem Carried.refl (s : State) : Carried [] s.executor.queue s s where
  executor := rfl
  link := rfl
  tables := rfl
  governor := rfl
  pending := rfl
  responses := rfl
  events := rfl
  port := rfl
  part := rfl
  state := .inl rfl
  queue := List.prefix_refl _
  noActions := id
  performs := fun _ => Performs.refl s
  released := fun _ _ _ _ => .inr ⟨rfl, rfl⟩
  aborted := fun _ => ⟨rfl, rfl⟩
  stopped := fun _ => ⟨rfl, rfl, rfl, rfl, rfl⟩

/-- The rules applied behind a record, after those behind the record before it. -/
theorem ReleasedBehind.next {left more : List Record} {u : State} (h : ReleasedBehind (q :: left) s t)
    (hl : t.link = s.link) (hq : t.executor.queue = q :: (left ++ more)) (k : Released (left ++ more) t u) :
    Released left s u := by
  rcases h with h | ⟨hp, hnone⟩
  · have hmore : more = (s.planner.window.take (s.callsFor (q :: left).length)).map fun w => w.record := by
      have hqueue := h.queue
      rw [hq, ← List.cons_append] at hqueue
      exact List.append_cancel_left hqueue
    rw [hmore] at k
    exact Released.again (before := [q]) h hl k
  · have hmore : more = [] := by
      rw [hq] at hnone
      simpa using hnone
    rw [hmore, List.append_nil] at k
    exact k.of_same hp.symm hl.symm rfl rfl rfl

/-- A record is passed by carry. -/
theorem Carried.next {acts : List Action} {left more : List Record} {e : Executor} (h : Carried acts (q :: left) s t)
    (hq : t.executor.queue = q :: (left ++ more))
    (he : e = { t.executor with
      queue := left ++ more, currentTag := e.currentTag, heldPlunge := e.heldPlunge, current := e.current }) :
    Carried (acts ++ q.actions) left s (carryOn q e t) ∧ RulesApplied left s (carryOn q e t) ∧
      (carryOn q e t).executor.current = e.current ∧ (carryOn q e t).executor.currentTag = e.currentTag ∧
      (carryOn q e t).executor.heldPlunge = e.heldPlunge := by
  have hst : t.executor.state = s.executor.state := by rw [h.executor]
  have heq : e.queue = left ++ more := by rw [he]
  have hfield : e = { s.executor with
      queue := left ++ more, currentTag := e.currentTag, heldPlunge := e.heldPlunge, current := e.current
      dwellTimer := t.executor.dwellTimer } := by
    rw [he, h.executor]
  unfold carryOn
  rw [hst]
  split
  case isTrue hstop =>
    obtain ⟨hqueue, hplanner, hreport, hport, hpart⟩ := h.stopped hstop
    have hmore : more = [] := by
      rw [hq] at hqueue
      simpa using hqueue
    refine ⟨⟨?_, h.link, h.tables, h.governor, h.pending, h.responses, h.events, h.port, h.part, h.state, ?_,
      h.noActions, fun hno => absurd hstop hno, fun hno => absurd hstop hno, fun ha => ?_, fun _ => ?_⟩,
      fun hno => absurd hstop hno, rfl, rfl, rfl⟩
    · show e = _
      rw [hfield]
      rfl
    · show left <+: e.queue
      rw [heq]
      exact List.prefix_append _ _
    · refine ⟨?_, hplanner⟩
      show e.queue = left
      rw [heq, hmore, List.append_nil]
    · refine ⟨?_, hplanner, hreport, hport, hpart⟩
      show e.queue = left
      rw [heq, hmore, List.append_nil]
  case isFalse hrun =>
    generalize hu : performActions (t.setExecutor e) q.actions = u
    have hue : u.executor = e := by rw [← hu, performActions_executor]; rfl
    have hul : u.link = t.link := by rw [← hu, performActions_link]; rfl
    have hup : u.planner = t.planner := by rw [← hu, performActions_planner]; rfl
    have hupart : u.part = t.part := by rw [← hu, performActions_part]; rfl
    have hperf : Performs q.actions t u := by
      rw [← hu]
      exact (performActions_performs (t.setExecutor e) q.actions).of_same rfl rfl rfl rfl rfl
    have hframe := plannerMoment_frame u
    have hexec : (plannerMoment u).executor = { e with
        queue := (plannerMoment u).executor.queue, dwellTimer := (plannerMoment u).executor.dwellTimer } := by
      rw [hframe.executor, hue]
    have hrules : RulesApplied left s (plannerMoment u) := fun _ hwork hab hact => by
      have hworks : plannerWorks u = true := by
        rw [plannerWorks_iff, hupart]
        refine ⟨?_, by rw [h.part]; exact hab⟩
        rcases h.state with hs | ⟨_, hs⟩
        · rw [hs]
          exact hwork
        · exact .inr hs
      have hrel := plannerMoment_released hworks
        (hact.imp (fun hi => by rw [hul, h.link]; exact hi) (fun hno => by rw [hup]; exact h.noActions hno))
      rw [hue, heq] at hrel
      exact ReleasedBehind.next (h.released hrun hwork hab hact) h.link hq
        (hrel.of_same hup.symm hul.symm rfl rfl rfl)
    refine ⟨⟨?_, hframe.link.trans (hul.trans h.link), ?_, ?_, ?_, ?_, ?_, ?_, ?_, ?_, ?_, ?_, fun _ => ?_,
      fun hno hwork hab hact => .inl (hrules hno hwork hab hact), fun ha => ?_, fun hst => absurd hst hrun⟩, hrules,
      by rw [hexec], by rw [hexec], by rw [hexec]⟩
    · rw [hexec, hfield]
    · rw [hframe.tables, ← hu, performActions_tables, ← h.tables]; rfl
    · rw [hframe.governor, ← hu, performActions_governor, ← h.governor]; rfl
    · rw [hframe.pending, ← hu, performActions_pending, ← h.pending]; rfl
    · rw [hframe.report, ← hu, performActions_responses, ← h.responses]; rfl
    · rw [hframe.report, ← hu, performActions_events, ← h.events]; rfl
    · rw [hframe.port, ← hu, performActions_port]
      exact congrArg (fun p : Port => { p with lines := linesAfter q.actions t.port.lines }) h.port
    · rw [hframe.only.part, hupart, h.part]
    · rcases hframe.state with hs | ⟨hs, ht⟩
      · rw [hs, hupart]
        exact h.state
      · rw [hupart] at hs
        exact .inr ⟨h.state.elim (fun hst => hst.symm.trans hs) (·.1), ht⟩
    · exact (List.prefix_append _ _).trans ((heq ▸ hue ▸ plannerMoment_prefix u))
    · intro hno
      have hnone : u.planner.actions = [] := by rw [hup]; exact h.noActions hno
      rw [plannerMoment_of_noActions hnone, applyReleases_actions, hnone]
    · exact ((h.performs hrun).trans hperf).of_same (by rw [hframe.port]) (by rw [hframe.report])
        (by rw [hframe.report]) rfl rfl
    · obtain ⟨hqueue, hplanner⟩ := h.aborted ha
      have hmore : more = [] := by
        rw [hq] at hqueue
        simpa using hqueue
      have hidle : plannerWorks u = false := by
        rw [Bool.eq_false_iff, ne_eq, plannerWorks_iff, hupart, h.part]
        exact fun hw => Bool.noConfusion (ha.symm.trans hw.2)
      rw [plannerMoment_of_notWorking hidle, hue, heq, hmore, List.append_nil, hup]
      exact ⟨rfl, hplanner⟩

/-! ## The way of the carry -/

/-- The carry goes on behind the record: it is an ACTIONS, or a CUT with exit above 0 (R110). -/
def Passes (m : Record) : Prop := m.body = .actions ∨ ∃ k, m.body = .cut k ∧ 0 < k.exit

/-- The length of the CUTs among some records. -/
def passedLength (before : List Record) : Nat := ((before.filterMap fun m => m.body.cut?).map fun k => k.len).sum

theorem passedLength_of_actions {m : Record} (before : List Record) (h : m.body = .actions) :
    passedLength (m :: before) = passedLength before := by
  simp [passedLength, h, Body.cut?]

theorem passedLength_of_cut {m : Record} {k : CutRecord} (before : List Record) (h : m.body = .cut k) :
    passedLength (m :: before) = k.len + passedLength before := by
  simp [passedLength, h, Body.cut?]

theorem carry_of_actions {n exit excess speed : Nat} (hx : 0 < exit) (hq : s.executor.queue = q :: rest)
    (hb : q.body = .actions) :
    carry (n + 1) exit excess speed s = carry n exit excess speed (carryActions q rest s) := by
  rw [carry, if_neg (by omega), hq]
  simp only [hb]

theorem carry_of_passed {n exit excess speed : Nat} (hx : 0 < exit) (hq : s.executor.queue = q :: rest)
    (hb : q.body = .cut c) (hle : c.len ≤ excess) :
    carry (n + 1) exit excess speed s = carry n c.exit (excess - c.len) speed (carryCut q c rest c.len speed s) := by
  rw [carry, if_neg (by omega), hq]
  simp only [hb, if_pos hle]

theorem carry_of_within {n exit excess speed : Nat} (hx : 0 < exit) (hq : s.executor.queue = q :: rest)
    (hb : q.body = .cut c) (hlt : excess < c.len) :
    carry (n + 1) exit excess speed s =
      carryCut q c rest excess (min speed (scaledCap c.cap s.governor.effective)) s := by
  rw [carry, if_neg (by omega), hq]
  simp only [hb, if_neg (Nat.not_le.2 hlt)]

theorem Carried.effective {acts : List Action} {left : List Record} (h : Carried acts left s t) :
    t.governor.effective = s.governor.effective := by rw [h.governor]

/-- An ACTIONS is passed. -/
theorem Carried.passActions {acts : List Action} {left more : List Record} (h : Carried acts (q :: left) s t)
    (hq : t.executor.queue = q :: (left ++ more)) :
    Carried (acts ++ q.actions) left s (carryActions q (left ++ more) t) :=
  (h.next hq rfl).1

/-- The CUT `q` has been entered by carry, and the Executor stands at `dist` in it, at `speed`. -/
structure InCut (q : Record) (c : CutRecord) (dist speed : Nat) (complete : Bool) (t : State) : Prop where
  current : ∃ cur, t.executor.current = some cur ∧ cur.record = q ∧ cur.dist = dist ∧ cur.len = c.len ∧
    cur.complete = complete ∧ cur.speed = speed
  tag : t.executor.currentTag = q.tag
  plunge : t.executor.heldPlunge = some c.snap.plunge

/-- A CUT is entered. -/
theorem Carried.enterCut {acts : List Action} {left more : List Record} (h : Carried acts (q :: left) s t)
    (hq : t.executor.queue = q :: (left ++ more)) (hb : q.body = .cut c) (dist speed : Nat) :
    Carried (acts ++ q.actions) left s (carryCut q c (left ++ more) dist speed t) ∧
      RulesApplied left s (carryCut q c (left ++ more) dist speed t) ∧
      InCut q c dist speed false (carryCut q c (left ++ more) dist speed t) := by
  obtain ⟨hnext, hrules, hcur, htag, hplunge⟩ :=
    h.next (e := t.executor.entered q (left ++ more) c.len dist speed) hq rfl
  rw [← carryCut_eq] at hnext hrules hcur htag hplunge
  refine ⟨hnext, hrules, ⟨_, hcur, rfl, rfl, rfl, rfl, rfl⟩, htag, ?_⟩
  rw [hplunge]
  simp only [Executor.entered, Executor.pop, hb, Body.plunge?]

/-- The carry passes every record behind which it goes on (R110). -/
theorem Carried.through {before : List Record} (hpass : ∀ m ∈ before, Passes m) :
    ∀ {acts : List Action} {left : List Record} {t : State} {n exit excess speed : Nat},
      Carried acts (before ++ left) s t → 0 < exit → passedLength before ≤ excess → before.length ≤ n →
      ∃ u exit', 0 < exit' ∧ Carried (acts ++ before.flatMap fun m => m.actions) left s u ∧
        carry n exit excess speed t =
          carry (n - before.length) exit' (excess - passedLength before) speed u := by
  induction before with
  | nil =>
    intro acts left t n exit excess speed h hx _ _
    exact ⟨t, exit, hx, by simpa using h, rfl⟩
  | cons m before ih =>
    intro acts left t n exit excess speed h hx hle hn
    obtain ⟨n, rfl⟩ : ∃ k, n = k + 1 := ⟨n - 1, by simp only [List.length_cons] at hn; omega⟩
    rw [List.cons_append] at h
    obtain ⟨more, hmore⟩ := h.queue
    have hq : t.executor.queue = m :: (before ++ left ++ more) := hmore.symm
    have hrest := fun k hk => hpass k (List.mem_cons_of_mem m hk)
    have hn' : before.length ≤ n := by simpa using hn
    rcases hpass m List.mem_cons_self with hb | ⟨k, hb, hexit⟩
    · rw [passedLength_of_actions before hb] at hle ⊢
      obtain ⟨u, exit', hx', hu, hcarry⟩ := ih (speed := speed) hrest (h.passActions hq) hx hle hn'
      refine ⟨u, exit', hx', by simpa using hu, ?_⟩
      rw [carry_of_actions hx hq hb, hcarry, List.length_cons, Nat.add_sub_add_right]
    · rw [passedLength_of_cut before hb] at hle ⊢
      obtain ⟨u, exit', hx', hu, hcarry⟩ :=
        ih (speed := speed) hrest (h.enterCut hq hb k.len speed).1 hexit (Nat.le_sub_of_add_le' hle) hn'
      refine ⟨u, exit', hx', by simpa using hu, ?_⟩
      rw [carry_of_passed hx hq hb (by omega), hcarry, List.length_cons, Nat.add_sub_add_right, Nat.sub_sub]

/-- What carry leads to that enters the CUT `q` behind the records `before`, with `rest` behind it (R110). -/
structure Enters (before : List Record) (q : Record) (c : CutRecord) (rest : List Record) (dist speed : Nat)
    (complete : Bool) (s t : State) : Prop
    extends Carried ((before ++ [q]).flatMap fun m => m.actions) rest s t, InCut q c dist speed complete t where
  rules : RulesApplied rest s t

/-- A carry that ends within the CUT `q`, at the speed kept or its scaled cap (R110). -/
theorem carry_enters {before : List Record} {n exit excess speed : Nat} (hpass : ∀ m ∈ before, Passes m)
    (hq : s.executor.queue = before ++ q :: rest) (hb : q.body = .cut c) (hx : 0 < exit)
    (hle : passedLength before ≤ excess) (hn : before.length < n) (hlt : excess - passedLength before < c.len) :
    Enters before q c rest (excess - passedLength before) (min speed (scaledCap c.cap s.governor.effective)) false s
      (carry n exit excess speed s) := by
  obtain ⟨u, exit', hx', hu, hcarry⟩ :=
    (hq ▸ Carried.refl s).through (speed := speed) hpass hx hle (Nat.le_of_lt hn)
  obtain ⟨more, hmore⟩ := hu.queue
  obtain ⟨k, hk⟩ : ∃ k, n - before.length = k + 1 := ⟨n - before.length - 1, by omega⟩
  rw [hcarry, hk, carry_of_within hx' hmore.symm hb hlt, hu.effective]
  obtain ⟨hcarried, hrules, hin⟩ := hu.enterCut hmore.symm hb (excess - passedLength before)
    (min speed (scaledCap c.cap s.governor.effective))
  exact ⟨by simpa using hcarried, hin, hrules⟩

/-- The CUT entered is complete at its end, at speed 0 (R111). -/
theorem Enters.atEnd {before : List Record} {speed : Nat} (h : Enters before q c rest c.len speed false s t) :
    Enters before q c rest c.len 0 true s (endAtEnd t) := by
  obtain ⟨cur, hcur, hrec, hdist, hlen, hcomplete, hspeed⟩ := h.current
  rw [endAtEnd_of_some hcur]
  exact ⟨{ h.toCarried with
    executor := by
      show t.executor.atEnd cur = _
      unfold Executor.atEnd
      rw [h.executor]
      rfl
    performs := fun hno => (h.performs hno).of_same rfl rfl rfl rfl rfl
    released := fun hno hwork hab hact => by
      rcases h.released hno hwork hab hact with hrel | hnone
      · exact .inl (hrel.of_same rfl rfl rfl rfl rfl)
      · exact .inr hnone },
    ⟨⟨_, rfl, hrec, hlen, hlen, rfl, rfl⟩, h.tag, h.plunge⟩,
    fun hno hwork hab hact => (h.rules hno hwork hab hact).of_same rfl rfl rfl rfl rfl⟩

/-- A carry that comes to the end of the CUT `q` and goes no further ends there (R110, R111; log 23). -/
theorem carry_endsAt {before : List Record} {n exit excess speed : Nat} (hpass : ∀ m ∈ before, Passes m)
    (hq : s.executor.queue = before ++ q :: rest) (hb : q.body = .cut c) (hx : 0 < exit)
    (hle : passedLength before ≤ excess) (hn : before.length < n) (hge : c.len ≤ excess - passedLength before)
    (hend : c.exit = 0 ∨ ∀ t, Carried ((before ++ [q]).flatMap fun m => m.actions) rest s t →
      ∀ m, t.executor.queue.head? = some m → m.body ≠ .actions ∧ ∀ k, m.body ≠ .cut k) :
    Enters before q c rest c.len 0 true s (carry n exit excess speed s) := by
  obtain ⟨u, exit', hx', hu, hcarry⟩ :=
    (hq ▸ Carried.refl s).through (speed := speed) hpass hx hle (Nat.le_of_lt hn)
  obtain ⟨more, hmore⟩ := hu.queue
  obtain ⟨k, hk⟩ : ∃ k, n - before.length = k + 1 := ⟨n - before.length - 1, by omega⟩
  obtain ⟨hcarried, hrules, hin⟩ := hu.enterCut hmore.symm hb c.len speed
  have hacts : Carried ((before ++ [q]).flatMap fun m => m.actions) rest s
      (carryCut q c (rest ++ more) c.len speed u) := by simpa using hcarried
  have hstops := hend.imp_right fun h => h _ hacts
  rw [hcarry, hk, carry_of_passed hx' hmore.symm hb hge, carry_of_end (by exact hstops)]
  exact Enters.atEnd ⟨hacts, hin, hrules⟩

/-- With no record behind and none to be released, the queue stays empty. -/
theorem Carried.queue_of_empty {acts : List Action} (h : Carried acts [] s t)
    (hs : s.executor.state = .stopping ∨ (s.planner.window = [] ∧ (s.planner.actions = [] ∨ s.link.intake ≠ []) ∧
      s.executor.state ≠ .stopping ∧ (s.part.state = .parked ∨ s.part.state = .running))) :
    t.executor.queue = [] := by
  rcases hs with hstop | ⟨hw, hact, hrun, hwork⟩
  · exact (h.stopped hstop).1
  · cases ha : s.part.abortFlag with
    | true => exact (h.aborted ha).1
    | false =>
      rcases h.released hrun hwork ha hact.symm with hrel | ⟨_, hq⟩
      · rw [hrel.queue, hw, List.take_nil]
        rfl
      · exact hq

end

/-! ## The frame -/

/-- With a way still to go, the creep floor is a lower bound of 1 (R109). -/
theorem runSpeed_eq {a v bound allow left : Nat} (h : 0 < left) :
    runSpeed a v bound allow left = max 1 (min (min (v + a) bound) allow) := by
  unfold runSpeed
  split <;> omega

section
variable {s u : State} {b : BladeEntry} {r : Setup} {cur : Current} {before rest : List Record} {q : Record}
  {c : CutRecord} {pos : Position} {dist speed : Nat} {complete : Bool}

/-- A frame that passes the end of its CUT ends where the carry leads. -/
theorem execFrame_of_carry {c0 : CutRecord} {v : Nat} (h : Framing b r s) (hset : settle s = s)
    (hstart : startFrame s = s) (hm : motion s = pathFrame cur s) (hv : newSpeed s cur = v)
    (hb : cur.record.body = .cut c0) (hge : cur.len ≤ cur.dist + v * r.period) (hst : s.executor.state ≠ .idle)
    (hu : carry (carryFuel s) c0.exit (cur.dist + v * r.period - cur.len) v s = u)
    (he : Enters before q c rest dist speed complete s u) :
    exec .frame s = .next (closeFrame (u.setExecutor (u.executor.place b.lead))) := by
  have hblade : u.blade = b := State.blade_of_some (by rw [he.tables, h.blade])
  have hpath : pathFrame cur s = u.setExecutor (u.executor.place b.lead) := by
    unfold pathFrame advance
    rw [hv, State.period_of_setup h.setup]
    dsimp only
    rw [if_neg (Nat.not_lt.2 hge), motionBounds_of_cut hb, hu, hblade]
  rw [execFrame_of_started h hset hstart, hm, hpath]
  rw [hm, hpath, State.setExecutor_executor, Executor.place_state, he.executor]
  exact hst

/-- Where such a frame ends. -/
theorem Enters.placed {lead : Nat} (h : Enters before q c rest dist speed complete s u)
    (hp : s.executor.position = some pos) (hb : q.body = .cut c) :
    (u.executor.place lead).position = some { pos with
      x := along c.x0 c.x1 dist c.len
      y := along c.y0 c.y1 dist c.len
      heading := cutHeading lead u.executor.queue c dist } := by
  obtain ⟨cur, hcur, hrec, hdist, hlen, -, -⟩ := h.current
  rw [Executor.place_of_cut (pos := pos) (by rw [h.executor]; exact hp) hcur (by rw [hrec]; exact hb), hdist, hlen]

/-- A frame that ends within the CUT entered by carry, at a speed above 0, is counted with its load ceiling (R99). -/
theorem Enters.counts {lead : Nat} (h : Enters before q c rest dist speed complete s u) (hb : q.body = .cut c)
    (hst : s.executor.state = .cut) (hv : 0 < speed) :
    (closeFrame (u.setExecutor (u.executor.place lead))).governor =
      s.governor.afterFrame (!s.executor.dry) c.snap.ceiling := by
  obtain ⟨cur, hcur, hrec, -, -, -, hspeed⟩ := h.current
  have hceil : Executor.ceiling (u.executor.place lead) = c.snap.ceiling := by
    simp only [Executor.ceiling, Executor.place_current, hcur, hrec, hb]
  have hcount : counted (u.executor.place lead) = !s.executor.dry := by
    have hdry : (u.executor.place lead).dry = s.executor.dry := by
      rw [Executor.place_eq, h.executor]
      rfl
    unfold counted Executor.speed
    rw [hdry, Executor.place_state, Executor.place_current, hcur, h.executor]
    simp [hst, hspeed, hv]
  rw [closeFrame_governor_eq, State.setExecutor_executor, hceil, hcount]
  exact congrArg (Governor.afterFrame (!s.executor.dry) c.snap.ceiling) h.governor

/-- A frame that ends with speed 0, or in a fault stop, is not. -/
theorem Enters.counts_none {lead : Nat} (h : Enters before q c rest dist speed complete s u)
    (hv : speed = 0 ∨ s.executor.state ≠ .cut) :
    (closeFrame (u.setExecutor (u.executor.place lead))).governor = s.governor := by
  obtain ⟨cur, hcur, -, -, -, -, hspeed⟩ := h.current
  refine (closeFrame_governor ?_).trans h.governor
  rw [State.setExecutor_executor]
  unfold counted Executor.speed
  rw [Executor.place_state, Executor.place_current, hcur, h.executor]
  rcases hv with hv | hv <;> simp [hspeed, hv]

end

/-- Settles O45. -/
theorem carryEntersTheNextCut : Obligations.CarryEntersTheNextCut := by
  unfold Obligations.CarryEntersTheNextCut
  refine ⟨?frame, ?carry⟩
  case frame =>
    intro s b r pos cur c0 before q rest c h hquiet hsd hp hc hcc hb0 hdist hq hb hx hpass running slowing stopping a e
      brake fast skip v hwhich hfar left hends
    have hper : s.period = r.period := State.period_of_setup h.setup
    have hacc : s.accel = r.accel := State.accel_of_setup h.setup
    have hmode : running ∨ stopping := by
      rcases hwhich with ⟨hrun, -⟩ | ⟨-, ⟨hrun, -⟩ | ⟨hstop, -⟩⟩
      · exact .inl hrun
      · exact .inl hrun
      · exact .inr hstop
    have hpath : s.executor.state = .cut ∨ s.executor.state = .stopping := hmode.imp (·.1) (·.1)
    have hidle : s.executor.state ≠ .idle := by rcases hpath with hst | hst <;> rw [hst] <;> exact ExecState.noConfusion
    obtain ⟨hset, hstart⟩ : settle s = s ∧ startFrame s = s := by
      rcases hwhich with ⟨hrun, hnot, -⟩ | ⟨hv, ⟨hrun, -⟩ | ⟨hstop, -⟩⟩
      · exact started_of_path hquiet hsd (.inl hrun.1) hc hcc fun hs => absurd hs hnot
      · exact started_of_path hquiet hsd (.inl hrun.1) hc hcc fun _ => .inl hv
      · exact started_of_stopping hquiet hsd hstop.1 hc hv
    have hspeed : newSpeed s cur = v := by
      rcases hwhich with ⟨hrun, hnot, rfl⟩ | ⟨-, ⟨hrun, hslow, rfl⟩ | ⟨hstop, rfl⟩⟩
      · rw [newSpeed_of_running (by simp [hrun.1]) (Bool.eq_false_iff.2 fun hs => hnot ((slowing_iff s).1 hs)),
          runSpeed_eq (by omega), motionBounds_of_cut hb0, hacc, hper]
        rfl
      · rw [newSpeed_of_slowing (by simp [hrun.1]) ((slowing_iff s).2 hslow), motionBounds_of_cut hb0, hacc, hper]
        rfl
      · rw [newSpeed_of_stopping hstop.1, motionBounds_of_cut hb0, hacc, hper, State.stopDecel_of_setup h.setup]
        rfl
    have hv : 0 < v := Nat.pos_of_ne_zero fun h0 => by
      rw [h0, Nat.zero_mul] at hfar
      omega
    have hfuel : before.length < carryFuel s := by
      unfold carryFuel
      rw [hq, List.length_append]
      omega
    have hlands : ∃ d w complete,
        Enters before q c rest d w complete s (carry (carryFuel s) c0.exit (cur.dist + v * r.period - cur.len) v s) ∧
        ((left < c.len ∧ d = left ∧ w = min v (scaledCap c.cap s.governor.effective) ∧ complete = false) ∨
          (c.len ≤ left ∧ d = c.len ∧ w = 0 ∧ complete = true)) := by
      have hle : passedLength before ≤ cur.dist + v * r.period - cur.len := Nat.le_sub_of_add_le' hfar
      by_cases hwithin : left < c.len
      · exact ⟨_, _, _, carry_enters hpass hq hb hx hle hfuel hwithin, .inl ⟨hwithin, rfl, rfl, rfl⟩⟩
      · have hge : c.len ≤ left := Nat.not_lt.1 hwithin
        refine ⟨_, _, _, carry_endsAt hpass hq hb hx hle hfuel hge ?_, .inr ⟨hge, rfl, rfl, rfl⟩⟩
        rcases hends with hlt | hexit | ⟨m, more, hrest, hno, hnocut⟩ | ⟨hrest, hnone⟩
        · exact absurd hlt hwithin
        · exact .inl hexit
        · refine .inr fun t ht m' hm' => ?_
          obtain ⟨behind, hbehind⟩ := ht.queue
          rw [← hbehind, hrest] at hm'
          obtain rfl : m = m' := by simpa using hm'
          exact ⟨hno, hnocut⟩
        · refine .inr fun t ht m' hm' => ?_
          rw [hrest] at ht
          rw [ht.queue_of_empty ?_] at hm'
          · simp at hm'
          · rcases hnone with hstop | ⟨hw, hact⟩
            · exact .inl hstop.1
            · exact hmode.symm.imp (·.1) fun hrun =>
                ⟨hw, hact, by rw [hrun.1]; exact ExecState.noConfusion, hrun.2.1⟩
    obtain ⟨d, w, complete, hin, hland⟩ := hlands
    generalize hu : carry (carryFuel s) c0.exit (cur.dist + v * r.period - cur.len) v s = u at hin
    have hexec := execFrame_of_carry h hset hstart (motion_of_path hpath hc hcc) hspeed hb0 (by omega) hidle hu hin
    have hcur : (closeFrame (u.setExecutor (u.executor.place b.lead))).executor.current = u.executor.current := by
      rw [closeFrame_current, State.setExecutor_executor, Executor.place_current]
    have hqueue : (closeFrame (u.setExecutor (u.executor.place b.lead))).executor.queue = u.executor.queue := by
      rw [closeFrame_queue, State.setExecutor_executor, Executor.place_eq]
    have hstate : (closeFrame (u.setExecutor (u.executor.place b.lead))).executor.state = s.executor.state := by
      rw [closeFrame_state, State.setExecutor_executor, Executor.place_state, hin.executor]
    refine ⟨_, _, hexec, (closeFrame_position _).trans (hin.placed hp hb), rfl, ?_, ?_, ?_, ?_, ?_, ?_, ?_, ?_, ?_,
      fun hrun => ⟨hstate.trans hrun.1, ?_, fun hab hact => ?_, fun hab => ?_⟩, fun hstop => ?_,
      fun hwithin => ⟨?_, ?_⟩, fun hge => ⟨?_, ?_⟩⟩
    · rw [closeFrame_currentTag, State.setExecutor_executor, Executor.place_eq]
      exact hin.tag
    · rw [closeFrame_heldPlunge, State.setExecutor_executor, Executor.place_eq]
      exact hin.plunge
    · rw [hqueue]
      exact hin.queue
    · rw [closeFrame_report]
      exact hin.responses
    · rw [closeFrame_report]
      exact hin.events
    · rw [closeFrame_link]
      exact hin.link
    · rw [closeFrame_tables]
      exact hin.tables
    · rw [closeFrame_part, State.setExecutor_part, hin.part]
    · rw [closeFrame_pending]
      exact hin.pending
    · exact (hin.performs (by rw [hrun.1]; exact ExecState.noConfusion)).of_same (closeFrame_lines _)
        (by rw [closeFrame_report]; rfl) (by rw [closeFrame_report]; rfl) rfl rfl
    · exact (hin.rules (by rw [hrun.1]; exact ExecState.noConfusion) hrun.2.1 hab hact).of_same rfl rfl
        (by rw [closeFrame_planner]; rfl) (by rw [closeFrame_planner]; rfl) hqueue
    · rw [hqueue, closeFrame_planner]
      exact hin.aborted hab
    · obtain ⟨hleft, hplanner, hreport, hport, hpart⟩ := hin.stopped hstop.1
      rw [hqueue, closeFrame_planner, closeFrame_report, closeFrame_lines, closeFrame_part]
      refine ⟨hstate.trans hstop.1, hleft, hplanner, hreport, congrArg Port.lines hport, hpart, ?_⟩
      exact hin.counts_none (.inr (by rw [hstop.1]; exact ExecState.noConfusion))
    · obtain ⟨-, rfl, rfl, rfl⟩ := hland.resolve_right fun hr => absurd hwithin (Nat.not_lt.2 hr.1)
      obtain ⟨cur', hcur', hrec, hd, hlen, hcc', hw⟩ := hin.current
      exact ⟨cur', hcur.trans hcur', hrec, hd, hlen, hcc', hw⟩
    · obtain ⟨-, rfl, rfl, rfl⟩ := hland.resolve_right fun hr => absurd hwithin (Nat.not_lt.2 hr.1)
      refine ⟨rfl, rfl, by rw [hqueue], fun hrun => hin.counts hb hrun.1 ?_⟩
      exact Nat.lt_min.2 ⟨hv, Nat.lt_of_lt_of_le Nat.one_pos (Nat.le_max_left _ _)⟩
    · obtain ⟨-, rfl, rfl, rfl⟩ := hland.resolve_left fun hl => absurd hl.1 (Nat.not_lt.2 hge)
      obtain ⟨cur', hcur', hrec, hd, hlen, hcc', hw⟩ := hin.current
      exact ⟨cur', hcur.trans hcur', hrec, hd, hlen, hcc', hw⟩
    · obtain ⟨-, rfl, rfl, rfl⟩ := hland.resolve_left fun hl => absurd hl.1 (Nat.not_lt.2 hge)
      exact ⟨rfl, rfl, by rw [hqueue], hin.counts_none (.inl rfl)⟩
  case carry =>
    intro s n exit excess skip speed before q rest c hx hq hb hlt hle hbefore hstate t
    have hskip : passedLength before = skip ∧ before.length < n + 2 ∧ ∀ m ∈ before, Passes m := by
      rcases hbefore with ⟨rfl, rfl⟩ | ⟨m, rfl, ⟨hm, rfl⟩ | ⟨k, hm, hk, rfl⟩⟩
      · exact ⟨rfl, by simp, by simp⟩
      · exact ⟨passedLength_of_actions [] hm, by simp, by simpa using .inl hm⟩
      · exact ⟨passedLength_of_cut [] hm, by simp, by simpa using .inr ⟨k, hm, hk⟩⟩
    obtain ⟨hskip, hn, hpass⟩ := hskip
    have hin := carry_enters (excess := excess) (speed := speed) hpass hq hb hx (hskip ▸ hle) hn (by omega)
    rw [hskip] at hin
    obtain ⟨cur, hcur, hrec, hdist, hlen, hcc, hspeed⟩ := hin.current
    refine ⟨cur, hcur, hrec, hdist, hlen, hcc, hspeed, hin.tag, hin.plunge, hin.queue, by rw [hin.executor],
      hin.responses, hin.events, fun hst => ⟨?_, fun hab hact => ?_, hin.aborted⟩, fun hst => ?_⟩
    · have hperf := hin.performs (by rw [hst]; exact ExecState.noConfusion)
      simpa using hperf
    · exact hin.rules (by rw [hst]; exact ExecState.noConfusion)
        (hstate.elim (·.2) fun hf => absurd (hst.symm.trans hf.1) ExecState.noConfusion) hab hact
    · obtain ⟨hqueue, hplanner, hreport, hport, -⟩ := hin.stopped hst
      exact ⟨hqueue, hplanner, hreport, hport⟩

end Sys2Proof.Machine

/-! # The spin-up frame and the trim frame in the work of a frame (R116, R122) -/

namespace Sys2Proof.Machine

/-! ## What the work of a frame does about SPINUP and TRIM -/

/-- How a part of a frame's work from `s` to `t` leaves the state and the two frames: as they were, or in another state
than SPINUP and TRIM, or in one of these just entered, its frame not yet sent (R116, R122). -/
inductive Stamps (s t : State) : Prop
  | same (state : t.executor.state = s.executor.state) (spinup : t.executor.spinupFrame = s.executor.spinupFrame)
      (trim : t.executor.trimFrame = s.executor.trimFrame) (request : t.port.trimRequest = s.port.trimRequest)
  | other (noSpinup : t.executor.state ≠ .spinup) (noTrim : t.executor.state ≠ .trim)
  | spinup (state : t.executor.state = .spinup) (frame : t.executor.spinupFrame = none)
  | trim (state : t.executor.state = .trim) (request : t.port.trimRequest = true) (frame : t.executor.trimFrame = none)

/-- Beside that, the kept frequency waits for the end of the frame (R93), a fault has its cause (R149), and the part stays
in FAULT with its fault record, but where what an earlier frame left due is taken (`due`; log 3). -/
structure Works (due : Bool) (s t : State) : Prop where
  keptFreq : t.keptFreq = s.keptFreq
  stamps : Stamps s t
  cause : (s.part.state = .fault → s.part.record.cause ≠ none) → t.part.state = .fault → t.part.record.cause ≠ none
  faulted : due = false → s.part.state = .fault → t.part = s.part
  inReset : t.part.inReset = s.part.inReset

section
variable {due : Bool} {s t u : State} {e : Executor}

theorem Stamps.trans (h : Stamps s t) (k : Stamps t u) : Stamps s u := by
  cases k with
  | same kstate kspinup ktrim krequest =>
    cases h with
    | same state spinup trim request =>
      exact .same (kstate.trans state) (kspinup.trans spinup) (ktrim.trans trim) (krequest.trans request)
    | other noSpinup noTrim => exact .other (kstate ▸ noSpinup) (kstate ▸ noTrim)
    | spinup state frame => exact .spinup (kstate.trans state) (kspinup.trans frame)
    | trim state request frame => exact .trim (kstate.trans state) (krequest.trans request) (ktrim.trans frame)
  | other noSpinup noTrim => exact .other noSpinup noTrim
  | spinup state frame => exact .spinup state frame
  | trim state request frame => exact .trim state request frame

/-- What leaves the part alone. -/
theorem Works.of_stamps (hk : t.keptFreq = s.keptFreq) (hst : Stamps s t) (hp : t.part = s.part) : Works due s t :=
  ⟨hk, hst, fun h => by rw [hp]; exact h, fun _ _ => hp, by rw [hp]⟩

theorem Works.refl (s : State) : Works due s s := .of_stamps rfl (.same rfl rfl rfl rfl) rfl

theorem Works.trans (h : Works due s t) (k : Works due t u) : Works due s u :=
  ⟨k.keptFreq.trans h.keptFreq, h.stamps.trans k.stamps, fun hs => k.cause (h.cause hs), fun hd hs =>
    (k.faulted hd (by rw [h.faulted hd hs]; exact hs)).trans (h.faulted hd hs), k.inReset.trans h.inReset⟩

theorem Works.after (k : Works due t u) (h : Works due s t) : Works due s u := h.trans k

/-- What changes neither the Executor nor the trim request nor the part. -/
theorem Works.of_same (hk : t.keptFreq = s.keptFreq) (he : t.executor = s.executor)
    (hr : t.port.trimRequest = s.port.trimRequest) (hp : t.part = s.part) : Works due s t :=
  .of_stamps hk (.same (by rw [he]) (by rw [he]) (by rw [he]) hr) hp

/-- The Executor stays in its state, or comes into one that is neither SPINUP nor TRIM. -/
theorem Works.of_executor (hs : e.spinupFrame = s.executor.spinupFrame) (ht : e.trimFrame = s.executor.trimFrame)
    (hst : e.state = s.executor.state ∨ (e.state ≠ .spinup ∧ e.state ≠ .trim)) : Works due s (s.setExecutor e) :=
  .of_stamps rfl (hst.elim (fun h => .same h hs ht rfl) fun h => .other h.1 h.2) rfl

theorem Works.of_plan (h : PlanFrame s t) : Works due s t := by
  refine ⟨h.keptFreq, .same ?_ ?_ ?_ (by rw [h.port]), fun hs ht => ?_, fun _ hs => ?_, h.inReset⟩
  · rw [h.executor]
  · rw [h.executor]
  · rw [h.executor]
  · rcases h.state with hst | ⟨-, hrun⟩
    · rw [h.record]
      exact hs (hst.symm.trans ht)
    · exact absurd (ht.symm.trans hrun) PartState.noConfusion
  · rcases h.state with hst | ⟨hparked, -⟩
    · rw [h.only.part, hst]
    · exact absurd (hs.symm.trans hparked) PartState.noConfusion

/-! ## Parts of the work -/

theorem performActions_works (s : State) (as : List Action) : Works due s (performActions s as) :=
  .of_same (performActions_keptFreq s as) (performActions_executor s as) (by rw [performActions_port])
    (performActions_part s as)

theorem raiseFault_works (c : FaultCode) (s : State) : Works true s (raiseFault c s) := by
  rcases raiseFault_cases c s with ⟨-, e⟩ | ⟨-, e⟩ | ⟨-, e⟩
  · rw [e]
    exact .refl s
  · rw [e]
    exact ⟨rfl, .same rfl rfl rfl rfl, id, fun hd => Bool.noConfusion hd, rfl⟩
  · rw [e]
    refine ⟨rfl, .other ?_ ?_, fun _ _ => Option.some_ne_none c, fun hd => Bool.noConfusion hd, rfl⟩
    all_goals
      show s.executor.faultStop.state ≠ _
      unfold Executor.faultStop
      split <;> exact ExecState.noConfusion

theorem commitBlade_works (s : State) : Works due s (commitBlade s) := .of_same (by simp) (by simp) (by simp) (by simp)

theorem judgeParked_works (s : State) : Works due s (judgeParked s) := by
  unfold judgeParked
  split
  case isTrue h =>
    refine ⟨rfl, .same rfl rfl rfl rfl, fun _ ht => PartState.noConfusion ht, fun _ hs => ?_, rfl⟩
    exact absurd (hs.symm.trans h.1) PartState.noConfusion
  case isFalse => exact .refl s

theorem governorEvaluate_works (s : State) : Works due s (governorEvaluate s) := by
  unfold governorEvaluate
  split
  · exact .refl s
  · dsimp only
    split <;> exact .of_same rfl rfl rfl rfl

/-- A step is complete, in the state in which it is. -/
theorem Works.of_finishStep (hs : e.spinupFrame = s.executor.spinupFrame) (ht : e.trimFrame = s.executor.trimFrame)
    (hst : e.state = s.executor.state) : Works due s (s.setExecutor e.finishStep) := by
  rw [Executor.finishStep_eq]
  exact .of_executor hs ht (.inl hst)

/-- The Executor comes into a state that is neither SPINUP nor TRIM. -/
theorem Works.of_state (hs : e.state ≠ .spinup) (ht : e.state ≠ .trim) : Works due s (s.setExecutor e) :=
  .of_stamps rfl (.other hs ht) rfl

theorem Executor.startZ_state (e : Executor) (st : ExecState) (target v : Nat) : (e.startZ st target v).state = st := by
  unfold Executor.startZ
  split
  · rw [Executor.finishStep_state]
  · rfl

theorem Executor.startTurn_state (e : Executor) (st : ExecState) (rotation : Int) :
    (e.startTurn st rotation).state = st := by
  unfold Executor.startTurn
  dsimp only
  split
  · rw [Executor.finishStep_state]
  · rfl

theorem startZ_works {st : ExecState} (e : Executor) (target v : Nat) (hs : st ≠ .spinup) (ht : st ≠ .trim) :
    Works due s (s.setExecutor (e.startZ st target v)) :=
  .of_state (by rw [Executor.startZ_state]; exact hs) (by rw [Executor.startZ_state]; exact ht)

theorem startRetract_works (e : Executor) (p : Purpose) (target v : Nat) :
    Works due s (s.setExecutor (e.startRetract p target v)) :=
  startZ_works e _ v ExecState.noConfusion ExecState.noConfusion

theorem startTurn_works {st : ExecState} (e : Executor) (rotation : Int) (hs : st ≠ .spinup) (ht : st ≠ .trim) :
    Works due s (s.setExecutor (e.startTurn st rotation)) :=
  .of_state (by rw [Executor.startTurn_state]; exact hs) (by rw [Executor.startTurn_state]; exact ht)

theorem completeCurrent_works (s : State) : Works due s (s.setExecutor s.executor.completeCurrent) :=
  .of_executor rfl rfl (.inl rfl)

theorem startSpinup_works (v : Nat) (s : State) : Works due s (startSpinup v s) := .of_stamps rfl (.spinup rfl rfl) rfl

theorem startReentry_works (s : State) : Works due s (startReentry s) := .of_stamps rfl (.spinup rfl rfl) rfl

theorem startTrim_works (s : State) : Works due s (startTrim s) := .of_stamps rfl (.trim rfl rfl rfl) rfl

theorem startLiftPlunge_works (s : State) : Works due s (startLiftPlunge s) :=
  startZ_works _ _ _ ExecState.noConfusion ExecState.noConfusion

theorem beginStandoffRetract_works (s : State) : Works due s (beginStandoffRetract s) := startRetract_works _ _ _ _

theorem takeDwellExpiry_works (s : State) : Works due s (takeDwellExpiry s) := .of_executor rfl rfl (.inl rfl)

theorem expireAtStart_works (s : State) : Works due s (expireAtStart s) := by
  unfold expireAtStart
  split
  · exact (takeDwellExpiry_works s).trans (beginStandoffRetract_works _)
  · exact .refl s

theorem enterRest_works (s : State) : Works due s (enterRest s) := by
  unfold enterRest
  split
  · exact Works.trans (.of_state ExecState.noConfusion ExecState.noConfusion) (expireAtStart_works _)
  · exact .of_state ExecState.noConfusion ExecState.noConfusion

theorem enterHold_works (s : State) : Works due s (enterHold s) := by
  unfold enterHold
  dsimp only
  split
  · exact Works.trans (.of_state ExecState.noConfusion ExecState.noConfusion) (beginStandoffRetract_works _)
  · split
    · exact Works.trans (.of_state ExecState.noConfusion ExecState.noConfusion) (expireAtStart_works _)
    · exact .of_state ExecState.noConfusion ExecState.noConfusion

/-! ## What a frame leaves due -/

theorem endStandoffRetract_works (s : State) : Works due s (endStandoffRetract s) := by
  unfold endStandoffRetract
  split
  · exact .of_stamps rfl (.other ExecState.noConfusion ExecState.noConfusion) rfl
  · exact .refl s

theorem takeHoldEntry_works (s : State) : Works due s (takeHoldEntry s) := by
  unfold takeHoldEntry
  split
  · exact enterHold_works s
  · exact .refl s

theorem endAbortStop_works (s : State) : Works true s (endAbortStop s) := by
  unfold endAbortStop
  split
  · exact (commitBlade_works _).after ⟨rfl, .other ExecState.noConfusion ExecState.noConfusion,
      fun _ ht => PartState.noConfusion ht, fun hd => Bool.noConfusion hd, rfl⟩
  · exact .refl s

theorem endRecover_works (s : State) : Works true s (endRecover s) := by
  unfold endRecover
  split
  · exact (commitBlade_works _).after ⟨rfl, .other ExecState.noConfusion ExecState.noConfusion,
      fun _ ht => PartState.noConfusion ht, fun hd => Bool.noConfusion hd, rfl⟩
  · exact .refl s

theorem raiseBladeJam_works (s : State) : Works true s (raiseBladeJam s) := by
  unfold raiseBladeJam
  split
  · exact (raiseFault_works _ _).after (.of_same rfl rfl rfl rfl)
  · exact .refl s

theorem takeLockTimeout_works (s : State) : Works true s (takeLockTimeout s) := by
  unfold takeLockTimeout
  split
  · exact (raiseFault_works _ _).after (.of_executor rfl rfl (.inl rfl))
  · exact .refl s

theorem takeTrimTimeout_works (s : State) : Works true s (takeTrimTimeout s) := by
  unfold takeTrimTimeout
  split
  · exact (raiseFault_works _ _).after (.of_executor rfl rfl (.inl rfl))
  · exact .refl s

theorem takeDwellTimeout_works (s : State) : Works due s (takeDwellTimeout s) := by
  unfold takeDwellTimeout
  split
  · split
    case h_1 => exact .of_executor rfl rfl (.inl rfl)
    case h_2 => exact (takeDwellExpiry_works s).trans (beginStandoffRetract_works _)
    all_goals exact .refl s
  · exact .refl s

theorem raiseDriveLink_works (s : State) : Works true s (raiseDriveLink s) := by
  unfold raiseDriveLink
  split
  · exact (raiseFault_works _ _).after (.of_same rfl rfl rfl rfl)
  · exact .refl s

theorem takeStopped_works (s : State) : Works due s (takeStopped s) := by
  unfold takeStopped
  split
  · exact .of_state ExecState.noConfusion ExecState.noConfusion
  · exact .refl s

theorem settle_works (s : State) : Works true s (settle s) :=
  (endStandoffRetract_works s).trans <| (takeHoldEntry_works _).trans <| (endAbortStop_works _).trans <|
    (endRecover_works _).trans <| (governorEvaluate_works _).trans <| (raiseBladeJam_works _).trans <|
    (takeLockTimeout_works _).trans <| (takeTrimTimeout_works _).trans <| (takeDwellTimeout_works _).trans <|
    (raiseDriveLink_works _).trans (takeStopped_works _)

/-! ## What a frame starts -/

theorem beginRecord_works (q : Record) (rest : List Record) (s : State) : Works due s (beginRecord q rest s) :=
  (Works.of_plan (plannerMoment_frame _)).after ((performActions_works _ _).after (.of_executor rfl rfl (.inl rfl)))

theorem startBlock_works (top clear : Nat) (dry : Bool) (s : State) : Works due s (startBlock top clear dry s) := by
  unfold startBlock
  dsimp only
  refine Works.trans (t := s.setGovernor s.governor.blockStart) (.of_same rfl rfl rfl rfl) ?_
  split <;> exact startZ_works _ _ _ ExecState.noConfusion ExecState.noConfusion

theorem startTravel_works (x y : Int) (heading : Option Nat) (s : State) : Works due s (startTravel x y heading s) := by
  unfold startTravel
  split
  · dsimp only
    split <;> exact .of_state ExecState.noConfusion ExecState.noConfusion
  · exact .refl s

theorem startPivot_works (tag : Tag) (p : PivotRecord) (s : State) : Works due s (startPivot tag p s) := by
  unfold startPivot
  dsimp only
  have hraise : Works due s (if p.forced then raiseTrimForced tag s else s) := by
    split
    · exact .of_same rfl rfl rfl rfl
    · exact .refl s
  generalize (if p.forced then raiseTrimForced tag s else s) = u at hraise
  refine hraise.trans ?_
  split
  · exact startTurn_works _ _ ExecState.noConfusion ExecState.noConfusion
  · split
    · exact startTurn_works _ _ ExecState.noConfusion ExecState.noConfusion
    · exact startRetract_works _ _ _ _

theorem startWork_works (q : Record) (s : State) : Works due s (startWork q s) := by
  unfold startWork
  split
  · exact startBlock_works _ _ _ s
  · exact startTravel_works _ _ _ s
  · split
    · exact completeCurrent_works s
    · exact startSpinup_works _ s
  · exact .of_state ExecState.noConfusion ExecState.noConfusion
  · exact startPivot_works _ _ s
  · exact startRetract_works _ _ _ _
  · exact completeCurrent_works s
  · exact (completeCurrent_works s).trans (.of_same rfl rfl rfl rfl)

theorem nextStep_works (s : State) : Works due s (nextStep s) := by
  unfold nextStep
  split
  · exact startTrim_works s
  · split
    · exact startTurn_works _ _ ExecState.noConfusion ExecState.noConfusion
    · exact completeCurrent_works s
  · split
    · split
      · exact startTrim_works s
      · exact startLiftPlunge_works s
    · exact completeCurrent_works s
  · exact completeCurrent_works s

theorem endReentry_works (s : State) : Works due s (endReentry s) := by
  unfold endReentry
  split
  · exact .of_state ExecState.noConfusion ExecState.noConfusion
  · exact .of_executor rfl rfl (.inl rfl)

theorem startNext_works {first : Bool} (h : startNext first s = some t) : Works due s t := by
  unfold startNext at h
  split at h
  · cases h
  split at h
  · cases h
    exact beginStandoffRetract_works s
  split at h
  case h_1 | h_2 | h_4 =>
    split at h <;> cases h
    exact enterRest_works s
  case h_3 => cases h
  case h_5 =>
    split at h <;> cases h
    case h_1 | h_2 => exact startReentry_works s
    case h_3 => exact (beginRecord_works _ _ s).trans (.of_executor rfl rfl (.inl rfl))
    case h_4 => exact (beginRecord_works _ _ s).trans (startWork_works _ _)
  case h_6 =>
    cases h
    exact (beginRecord_works _ _ s).trans (startWork_works _ _)

theorem startAbort_works (h : startAbort s = some t) : Works due s t := by
  unfold startAbort at h
  split at h
  · split at h <;> cases h
    exact startRetract_works _ _ _ _
  · split at h <;> cases h
    exact nextStep_works s

/-- A start is one of the starts of an abort stop, of a re-entry or of a step, or that of the record at the head. -/
theorem startOnce_cases {first : Bool} (h : startOnce first s = some t) : startAbort s = some t ∨
    t = endReentry s ∨ t = nextStep s ∨ startNext first s = some t ∨ t = startReentry s := by
  unfold startOnce at h
  split at h
  case h_1 | h_2 | h_3 | h_4 | h_5 | h_6 | h_7 => cases h
  all_goals grind

theorem startOnce_works {first : Bool} (h : startOnce first s = some t) : Works due s t := by
  rcases startOnce_cases h with h | rfl | rfl | h | rfl
  · exact startAbort_works h
  · exact endReentry_works s
  · exact nextStep_works s
  · exact startNext_works h
  · exact startReentry_works s

theorem startLoop_works (n : Nat) : ∀ (first : Bool) (s : State), Works due s (startLoop n first s) := by
  induction n with
  | zero => exact fun _ s => .refl s
  | succ n ih =>
    intro first s
    unfold startLoop
    split
    · next t h => exact (startOnce_works h).trans (ih false t)
    · exact .refl s

theorem startFrame_works (s : State) : Works due s (startFrame s) := by
  unfold startFrame
  split
  · exact startLoop_works _ _ s
  · exact .refl s

/-! ## The motion -/

theorem carryOn_works (q : Record) {e : Executor} (hs : e.spinupFrame = s.executor.spinupFrame)
    (ht : e.trimFrame = s.executor.trimFrame) (hst : e.state = s.executor.state) : Works due s (carryOn q e s) := by
  have hmove : Works due s (s.setExecutor e) := .of_executor hs ht (.inl hst)
  unfold carryOn
  split
  · exact hmove
  · exact hmove.trans ((performActions_works _ _).trans (.of_plan (plannerMoment_frame _)))

theorem carry_works (n : Nat) : ∀ (exit excess speed : Nat) (s : State), Works due s (carry n exit excess speed s) := by
  induction n with
  | zero => exact fun _ _ _ s => .of_executor rfl rfl (.inl rfl)
  | succ n ih =>
    intro exit excess speed s
    unfold carry
    split
    · exact .of_executor rfl rfl (.inl rfl)
    split
    · exact .of_executor rfl rfl (.inl rfl)
    split
    · rw [carryActions_eq]
      exact (ih _ _ _ _).after (carryOn_works _ rfl rfl rfl)
    · simp only [carryCut_eq]
      split
      · exact (ih _ _ _ _).after (carryOn_works _ rfl rfl rfl)
      · exact carryOn_works _ rfl rfl rfl
    · exact .of_executor rfl rfl (.inl rfl)

theorem pathFrame_works (cur : Current) (s : State) : Works due s (pathFrame cur s) := by
  have hadvance : Works due s (advance (newSpeed s cur) cur s) := by
    unfold advance
    dsimp only
    split
    · exact .of_executor rfl rfl (.inl rfl)
    · exact carry_works _ _ _ _ s
  unfold pathFrame
  generalize advance (newSpeed s cur) cur s = u at hadvance
  refine hadvance.trans (.of_executor ?_ ?_ (.inl ?_)) <;> rw [Executor.place_eq]

theorem Executor.turnFrame_eq (rate t : Nat) (e : Executor) : e.turnFrame rate t = { e with
    position := (e.turnFrame rate t).position, current := (e.turnFrame rate t).current } := by
  unfold Executor.turnFrame
  split <;> rfl

theorem travelFrame_works (cur : Current) (s : State) : Works due s (travelFrame cur s) := by
  have hway : Works due s (if cur.dist < cur.len then pathFrame cur s else s) := by
    split
    · exact pathFrame_works cur s
    · exact .refl s
  unfold travelFrame
  generalize (if cur.dist < cur.len then pathFrame cur s else s) = u at hway
  refine hway.trans (.of_executor ?_ ?_ (.inl ?_)) <;> dsimp only <;> rw [Executor.turnFrame_eq]

theorem zFrame_works (s : State) : Works due s (zFrame s) := by
  unfold zFrame
  split
  · dsimp only
    split
    · exact .of_finishStep rfl rfl rfl
    · exact .of_executor rfl rfl (.inl rfl)
  · exact .refl s

theorem turnStep_works (rate : Nat) (s : State) : Works due s (turnStep rate s) := by
  unfold turnStep
  dsimp only
  split
  · refine .of_finishStep ?_ ?_ ?_ <;> rw [Executor.turnFrame_eq]
  · refine .of_executor ?_ ?_ (.inl ?_) <;> rw [Executor.turnFrame_eq]

theorem motion_works (s : State) : Works due s (motion s) := by
  unfold motion
  split
  case h_1 =>
    unfold travelState
    split
    · split
      · exact .refl s
      · split
        · exact travelFrame_works _ s
        · exact zFrame_works s
    · exact .refl s
  case h_2 | h_3 =>
    unfold pathState
    split
    · split
      · exact .refl s
      · exact pathFrame_works _ s
    · exact .refl s
  case h_4 | h_5 => exact zFrame_works s
  case h_6 | h_7 => exact turnStep_works _ s
  all_goals exact .refl s

/-- The Executor's own work in a frame. -/
theorem workFrame_works (s : State) : Works due s (workFrame s) :=
  (startFrame_works s).trans <| (motion_works _).trans <| (judgeParked_works _).trans (commitBlade_works _)

end

end Sys2Proof.Machine

/-! # What a frame sends (R131 to R135, R179) -/

namespace Sys2Proof.Machine

/-! ## The Port at the end of a frame -/

/-- The Port with the period just ended judged (R137). -/
def Port.judged (p : Port) : Port :=
  if !p.sentAny then { p with sentAny := true, received := false }
  else if p.received then { p with received := false }
  else { p with missed := min 255 (p.missed + 1), linkDue := p.linkDue || p.missed + 1 == 3 }

section
variable {s u : State}

theorem judgePeriod_eq (s : State) : judgePeriod s = s.setPort s.port.judged := by
  unfold judgePeriod Port.judged
  split
  · rfl
  · split <;> rfl

theorem closeFrame_port (s : State) : (closeFrame s).port = Port.judged { s.port with
    outLane := setpointFrame (frequency s) (stampFrames (keepFrequency s)), frameNo := s.port.frameNo + 1 } := by
  unfold closeFrame
  rw [countFrame_port, judgePeriod_eq, State.setPort_port]
  congr 1
  simp only [tickTimers, sendSetpoint, stampFrames, State.setExecutor_port, State.setPort_port, keepFrequency_port]

theorem Port.judged_eq (p : Port) : p.judged = { p with
    sentAny := p.judged.sentAny, received := p.judged.received, missed := p.judged.missed
    linkDue := p.judged.linkDue } := by
  unfold Port.judged
  split
  · rfl
  · split <;> rfl

theorem closeFrame_keptFreq (s : State) : (closeFrame s).keptFreq =
    if s.executor.state = .stopping then s.keptFreq else frequency s := by
  have hkept : (closeFrame s).keptFreq = (keepFrequency s).keptFreq := by
    unfold closeFrame countFrame
    rw [judgePeriod_eq]
    split
    · split <;> rfl
    · rfl
  rw [hkept]
  unfold keepFrequency
  split <;> rfl

/-- The frequency is that of the state as the frame leaves it. -/
theorem frequency_closeFrame (s : State) : frequency (closeFrame s) = frequency s := by
  have hdry : (closeFrame s).executor.dry = s.executor.dry := by rw [closeFrame_executor]; rfl
  have hkept : s.executor.state = .stopping → (closeFrame s).keptFreq = s.keptFreq := fun h => by
    rw [closeFrame_keptFreq, if_pos h]
  have hmat : (closeFrame s).executor.inMaterial = s.executor.inMaterial := by rw [closeFrame_executor]; rfl
  have htable : ∀ b, tableFrequency b (closeFrame s).keptFreq (closeFrame s).executor =
      tableFrequency b s.keptFreq s.executor := fun b => by
    unfold tableFrequency Executor.pitchTarget Executor.speed Executor.inPivot
    rw [hmat, closeFrame_state, closeFrame_current]
    cases hst : s.executor.state with
    | stopping => rw [hkept hst]
    | retract purpose => cases purpose <;> rfl
    | _ => rfl
  unfold frequency
  rw [closeFrame_tables, hdry]
  split
  · rfl
  · rw [htable]

theorem closeFrame_effective (s : State) : (closeFrame s).governor.effective = s.governor.effective := by
  rw [closeFrame_governor_eq]
  unfold Governor.afterFrame
  split
  · rfl
  · split <;> rfl

/-! ## The setpoint frame -/

/-- The status value is drawn from what the close of a frame leaves alone, but for the frame number. -/
theorem slotValue_closeFrame (n : Nat) : slotValue (closeFrame s) n = slotValue s n := by
  unfold slotValue
  rw [closeFrame_effective]
  simp

/-- Table 8.1. -/
theorem slotValue_spelled (s : State) (n : Nat) : (match n with
      | 0 => 256 * partStateCode s.part.state + 16 * purposeCode s.executor.state + execStateCode s.executor.state
      | 1 => min s.governor.operator s.governor.override
      | 2 => s.executor.currentTag.toNat
      | 3 => causeCode s.part.record.cause
      | 4 => s.link.intake.length
      | 5 => s.planner.window.length
      | 6 => s.executor.queue.length
      | _ => min 65535 (s.planner.trimDist / 100000)) = slotValue s n := by
  match n with
  | 0 => rfl
  | 1 => rfl
  | 2 => rfl
  | 3 => rfl
  | 4 => rfl
  | 5 => rfl
  | 6 => rfl
  | _ + 7 => rfl

theorem slotValue_stamped (n : Nat) : slotValue (stampFrames (keepFrequency s)) n = slotValue s n := by
  unfold slotValue stampFrames
  simp

theorem setpointBody_stamped (f : Nat) (s : State) :
    setpointBody f (stampFrames (keepFrequency s)) = setpointBody f s := by
  unfold setpointBody
  rw [slotValue_stamped]
  unfold stampFrames frameMode
  simp

theorem closeFrame_outLane (s : State) : (closeFrame s).port.outLane =
    [0xA5, 0xC3] ++ setpointBody (frequency s) s ++ tagBytes (crc (setpointBody (frequency s) s)) := by
  rw [closeFrame_port, Port.judged_eq]
  show setpointFrame _ _ = _
  unfold setpointFrame
  rw [setpointBody_stamped]
  rfl

theorem setpointBody_length (f : Nat) (s : State) : (setpointBody f s).length = 24 := by
  simp [setpointBody, setpointBytes_length, flagU8]

end

/-- The work of a frame leaves the intake queue, the waiting commands and the setup record alone. -/
theorem worked_stays (s : State) :
    Worked fun t => t.link = s.link ∧ t.pending = s.pending ∧ t.part.setup = s.part.setup where
  executor _ _ h _ := h
  moment t h := by
    rw [(plannerMoment_frame t).link, (plannerMoment_frame t).pending, (plannerMoment_frame t).setup]
    exact h
  mark t tag h := by simpa using h
  events _ _ h := h
  workPort _ _ h _ _ := h
  governor _ _ h _ _ _ _ := h
  evaluate t h := by
    unfold governorEvaluate
    split
    · exact h
    · dsimp only
      split <;> exact h
  keptFreq _ _ h := h
  part _ _ h hp _ _ := ⟨h.1, h.2.1, hp.trans h.2.2⟩
  commit t h := by simpa using h

/-- Settles O47. -/
theorem frameSendsASetpointFrame : Obligations.FrameSendsASetpointFrame := by
  unfold Obligations.FrameSendsASetpointFrame
  refine ⟨fun s hs => ?_, fun s hr hs hb => ?_⟩
  · show execFrame s = _
    simp [execFrame, hs]
  · have hexec : exec .frame s = .next (closeFrame (workFrame (settle s))) := by
      show execFrame s = _
      simp [execFrame, hr, hs, hb, runFrame]
    have hport := workFrame_settle_port s
    have hworks := (settle_works s).trans (workFrame_works _)
    have hstays := (worked_stays s).workFrame ((worked_stays s).settle (s := s) ⟨rfl, rfl, rfl⟩)
    generalize hu : workFrame (settle s) = u at hexec hport hworks hstays
    have hno : u.port.frameNo = s.port.frameNo := by rw [hport]
    have hheld : u.port.held = s.port.held := by rw [hport]
    have hlane : (closeFrame u).port.outLane = _ := closeFrame_outLane u
    have hjudged := (closeFrame_port u).trans (Port.judged_eq _)
    refine ⟨closeFrame u, hexec, ?_, ?_, ?body, fun hn ht => ?_, fun hn ht => ?_, ?_, ?_, ?_, ?_, ?_, ?_⟩
    · rw [hjudged, ← hno]
    · rw [hlane]
      simp [setpointBody_length]
    case body =>
      intro mode setpoints hertz trim slot value body
      have hmode : [mode] = u8 (frameMode u.executor) := by
        simp only [mode, frameMode, closeFrame_position, closeFrame_state]
        cases u.executor.position with
        | none => rfl
        | some q =>
          by_cases hst : u.executor.state = .stopped
          · simp [hst, u8]
          · simp [hst, u8]
      have hset : setpoints = setpointBytes u.executor.position := by
        simp only [setpoints, closeFrame_position]
        cases u.executor.position <;> rfl
      have hhertz : hertz = if u.executor.position.isSome then frequency u else 0 := by
        simp only [hertz, closeFrame_position, frequency_closeFrame]
        cases u.executor.position <;> rfl
      have htrim : [trim] = flagU8 (u.port.trimRequest && u.executor.position.isSome) := by
        simp only [trim, closeFrame_position, closeFrame_trimRequest]
        cases u.executor.position <;> cases u.port.trimRequest <;> rfl
      have hvalue : value = slotValue u slot := by
        rw [← slotValue_closeFrame]
        exact slotValue_spelled (closeFrame u) slot
      have hbody : body = setpointBody (frequency u) u := by
        show tagBytes s.port.frameNo ++ [mode] ++ setpoints ++ u16 hertz ++ [trim] ++ [(closeFrame u).port.lines] ++
          u8 slot ++ u16 value = _
        rw [hmode, hset, hhertz, htrim, hvalue, closeFrame_lines]
        unfold setpointBody
        rw [hno]
      exact ⟨by rw [hbody, setpointBody_length], by rw [hlane, hbody]⟩
    · rw [closeFrame_state] at ht
      rw [← hno]
      refine closeFrame_spinupFrame_of_none ht ?_
      cases hworks.stamps with
      | same state => exact absurd (state.symm.trans ht) hn
      | other noSpinup => exact absurd ht noSpinup
      | spinup _ frame => exact frame
      | trim state => exact absurd (state.symm.trans ht) ExecState.noConfusion
    · rw [closeFrame_state] at ht
      have hfresh : u.port.trimRequest = true ∧ u.executor.trimFrame = none := by
        cases hworks.stamps with
        | same state => exact absurd (state.symm.trans ht) hn
        | other _ noTrim => exact absurd ht noTrim
        | spinup state => exact absurd (state.symm.trans ht) ExecState.noConfusion
        | trim _ request frame => exact ⟨request, frame⟩
      rw [closeFrame_trimRequest, ← hno]
      exact ⟨hfresh.1, closeFrame_trimFrame_of_none ht hfresh.1 hfresh.2⟩
    · rw [closeFrame_keptFreq, closeFrame_state, frequency_closeFrame, hworks.keptFreq]
    · rw [hjudged]
      exact (congrArg Port.sending hport).trans hs
    · rw [hjudged]
      exact hheld
    · rw [closeFrame_part]
      exact hstays.2.2
    · rw [closeFrame_pending]
      exact hstays.2.1
    · rw [closeFrame_link]
      exact hstays.1

end Sys2Proof.Machine

/-! # What an earlier frame left due, and the judging of the frame period (R137; log 3) -/

namespace Sys2Proof.Machine

/-! ## What is taken, in its order -/

/-- The events that a frame takes before a DRIVE-LINK, each with the function its command applies, in the order in which
a frame takes them (log 22). -/
def earlyDuties : List (Instr × (State → State)) :=
  [(.standoff, endStandoffRetract), (.holdEntry, takeHoldEntry), (.abortStopEnd, endAbortStop),
   (.recoverRetractEnd, endRecover), (.governorEvaluation, governorEvaluate), (.bladeJam, raiseBladeJam),
   (.lockTimeout, takeLockTimeout), (.trimTimeout, takeTrimTimeout), (.dwellTimeout, takeDwellTimeout)]

/-- All of them, in order. -/
def duties : List (Instr × (State → State)) := earlyDuties ++ [(.driveLink, raiseDriveLink), (.stopped, takeStopped)]

/-- What an earlier frame left due before a DRIVE-LINK is taken. -/
def settleEarly (s : State) : State := earlyDuties.foldl (fun u d => d.2 u) s

section
variable {s t u : State}

theorem settle_eq_early (s : State) : settle s = takeStopped (raiseDriveLink (settleEarly s)) := by
  simp only [settleEarly, earlyDuties, List.foldl_cons, List.foldl_nil, settle]

theorem settle_eq_duties (s : State) : settle s = duties.foldl (fun u d => d.2 u) s := by
  rw [settle_eq_early, duties, List.foldl_append]
  rfl

theorem exec_duty : ∀ d ∈ duties, ∀ u, exec d.1 u = .next (unlessReset u d.2) := by
  simp only [duties, earlyDuties, List.cons_append, List.nil_append, List.forall_mem_cons]
  exact ⟨fun _ => rfl, fun _ => rfl, fun _ => rfl, fun _ => rfl, fun _ => rfl, fun _ => rfl, fun _ => rfl, fun _ => rfl,
    fun _ => rfl, fun _ => rfl, fun _ => rfl, by simp⟩

theorem earlyDuty_works : ∀ d ∈ earlyDuties, ∀ u, Works true u (d.2 u) := by
  simp only [earlyDuties, List.forall_mem_cons]
  exact ⟨endStandoffRetract_works, takeHoldEntry_works, endAbortStop_works, endRecover_works, governorEvaluate_works,
    raiseBladeJam_works, takeLockTimeout_works, takeTrimTimeout_works, takeDwellTimeout_works, by simp⟩

theorem duty_works : ∀ d ∈ duties, ∀ u, Works true u (d.2 u) := by
  simp only [duties, List.forall_mem_append, List.forall_mem_cons]
  exact ⟨earlyDuty_works, raiseDriveLink_works, takeStopped_works, by simp⟩

/-! ## The blade table -/

/-- `t` has the blade table of `s`, no work that `s` does not hold, and a DRIVE-LINK due as `s` has it. -/
structure HoldsNoMore (s t : State) : Prop where
  linkDue : t.port.linkDue = s.port.linkDue
  blade : t.tables.blade = s.tables.blade
  queue : t.executor.queue = s.executor.queue
  window : t.planner.window = s.planner.window
  current : ∀ c, t.executor.current = some c → ∃ d, s.executor.current = some d ∧ c.record = d.record

theorem HoldsNoMore.refl (s : State) : HoldsNoMore s s := ⟨rfl, rfl, rfl, rfl, fun c h => ⟨c, h, rfl⟩⟩

theorem HoldsNoMore.trans (h : HoldsNoMore s t) (k : HoldsNoMore t u) : HoldsNoMore s u where
  linkDue := k.linkDue.trans h.linkDue
  blade := k.blade.trans h.blade
  queue := k.queue.trans h.queue
  window := k.window.trans h.window
  current c hc := by
    obtain ⟨d, hd, hcd⟩ := k.current c hc
    obtain ⟨e, he, hde⟩ := h.current d hd
    exact ⟨e, he, hcd.trans hde⟩

theorem HoldsNoMore.after (k : HoldsNoMore t u) (h : HoldsNoMore s t) : HoldsNoMore s u := h.trans k

theorem HoldsNoMore.of_same (hl : t.port.linkDue = s.port.linkDue) (hb : t.tables.blade = s.tables.blade)
    (hq : t.executor.queue = s.executor.queue) (hw : t.planner.window = s.planner.window)
    (hc : t.executor.current = s.executor.current) : HoldsNoMore s t :=
  ⟨hl, hb, hq, hw, fun c h => ⟨c, hc.symm.trans h, rfl⟩⟩

/-- The blade table is not missed where it was not. -/
theorem HoldsNoMore.served (h : HoldsNoMore s t) (hs : bladeMissing s = false) : bladeMissing t = false := by
  unfold bladeMissing bladeNeeded at hs ⊢
  rw [h.blade, h.queue, h.window]
  cases hc : t.executor.current with
  | none =>
    simp only [Bool.or_false]
    revert hs
    cases s.tables.blade.isNone
    · simp
    · simp only [Bool.true_and]
      intro hs
      exact (Bool.or_eq_false_iff.1 hs).1
  | some c =>
    obtain ⟨d, hd, hcd⟩ := h.current c hc
    rw [hd] at hs
    dsimp only at hs ⊢
    rw [hcd]
    exact hs

/-- With no record held, a commit leaves no work that reads the blade table. -/
theorem commitBlade_served (hc : s.executor.current = none) (hs : bladeMissing s = false) :
    bladeMissing (commitBlade s) = false := by
  cases hw : s.tables.waiting with
  | none => rwa [commitBlade_of_none hw]
  | some w =>
    by_cases h : s.planner.window = [] ∧ s.executor.queue = [] ∧ s.executor.state = .idle
    · obtain ⟨hwin, hq, hi⟩ := h
      simp [bladeMissing, bladeNeeded, hwin, hq, hc]
    · rwa [commitBlade_of_held (by grind)]

theorem raiseFault_holdsNoMore (c : FaultCode) (s : State) : HoldsNoMore s (raiseFault c s) := by
  refine .of_same ?_ (by simp) ?_ (by simp) ?_
  all_goals
    rcases raiseFault_cases c s with ⟨-, e⟩ | ⟨-, e⟩ | ⟨-, e⟩ <;> rw [e] <;> rfl

theorem restedCurrent_record (e : Executor) :
    ∀ c, e.restedCurrent = some c → ∃ d, e.current = some d ∧ c.record = d.record := by
  intro c hc
  unfold Executor.restedCurrent at hc
  split at hc
  · next d hd =>
    split at hc <;> cases hc
    exact ⟨d, hd, rfl⟩
  · cases hc

theorem beginStandoffRetract_holdsNoMore (s : State) : HoldsNoMore s (beginStandoffRetract s) := by
  obtain ⟨e, he, -, hcur, hq, -⟩ := beginStandoffRetract_keeps s
  rw [he]
  exact ⟨rfl, rfl, hq, rfl, fun c hc => restedCurrent_record _ c (hcur.symm.trans hc)⟩

theorem takeDwellExpiry_holdsNoMore (s : State) : HoldsNoMore s (takeDwellExpiry s) := .of_same rfl rfl rfl rfl rfl

theorem expireAtStart_holdsNoMore (s : State) : HoldsNoMore s (expireAtStart s) := by
  unfold expireAtStart
  split
  · exact (takeDwellExpiry_holdsNoMore s).trans (beginStandoffRetract_holdsNoMore _)
  · exact .refl s

theorem enterHold_holdsNoMore (s : State) : HoldsNoMore s (enterHold s) := by
  unfold enterHold
  dsimp only
  split
  · exact (beginStandoffRetract_holdsNoMore _).after ⟨rfl, rfl, rfl, rfl, restedCurrent_record _⟩
  · split
    · exact (expireAtStart_holdsNoMore _).after ⟨rfl, rfl, rfl, rfl, restedCurrent_record _⟩
    · exact ⟨rfl, rfl, rfl, rfl, restedCurrent_record _⟩

/-- What is taken leaves the blade table present where work needs it, and a DRIVE-LINK due as it was. -/
structure Serves (s t : State) : Prop where
  blade : bladeMissing s = false → bladeMissing t = false
  linkDue : t.port.linkDue = s.port.linkDue

theorem Serves.refl (s : State) : Serves s s := ⟨id, rfl⟩

theorem HoldsNoMore.serves (h : HoldsNoMore s t) : Serves s t := ⟨h.served, h.linkDue⟩

theorem Serves.of_fault (c : FaultCode) (h : HoldsNoMore s t) : Serves s (raiseFault c t) :=
  (h.trans (raiseFault_holdsNoMore c t)).serves

/-- Entering IDLE and PARKED, and a commit then. -/
theorem Serves.of_parked (s : State) (p : Part) :
    Serves s (commitBlade ((s.setExecutor s.executor.enterIdle).setPart p)) :=
  ⟨fun hs => commitBlade_served rfl
    (HoldsNoMore.served (s := s) ⟨rfl, rfl, rfl, rfl, fun _ h => by cases h⟩ hs), by simp⟩

theorem earlyDuty_serves : ∀ d ∈ earlyDuties, ∀ u, Serves u (d.2 u) := by
  simp only [earlyDuties, List.forall_mem_cons]
  refine ⟨fun u => ?_, fun u => ?_, fun u => ?_, fun u => ?_, fun u => ?_, fun u => ?_, fun u => ?_, fun u => ?_,
    fun u => ?_, by simp⟩
  · unfold endStandoffRetract
    split
    · exact HoldsNoMore.serves (.of_same rfl rfl rfl rfl rfl)
    · exact .refl u
  · unfold takeHoldEntry
    split
    · exact (enterHold_holdsNoMore u).serves
    · exact .refl u
  · unfold endAbortStop
    split
    · exact .of_parked u _
    · exact .refl u
  · unfold endRecover
    split
    · exact .of_parked u _
    · exact .refl u
  · unfold governorEvaluate
    split
    · exact .refl u
    · dsimp only
      split <;> exact HoldsNoMore.serves (.of_same rfl rfl rfl rfl rfl)
  · unfold raiseBladeJam
    split
    · exact .of_fault _ (.of_same rfl rfl rfl rfl rfl)
    · exact .refl u
  · unfold takeLockTimeout
    split
    · exact .of_fault _ (.of_same rfl rfl rfl rfl rfl)
    · exact .refl u
  · unfold takeTrimTimeout
    split
    · exact .of_fault _ (.of_same rfl rfl rfl rfl rfl)
    · exact .refl u
  · unfold takeDwellTimeout
    split
    · split
      case h_1 => exact HoldsNoMore.serves (.of_same rfl rfl rfl rfl rfl)
      case h_2 => exact ((takeDwellExpiry_holdsNoMore u).trans (beginStandoffRetract_holdsNoMore _)).serves
      all_goals exact .refl u
    · exact .refl u

theorem raiseDriveLink_served (hs : bladeMissing s = false) : bladeMissing (raiseDriveLink s) = false := by
  unfold raiseDriveLink
  split
  · exact (raiseFault_holdsNoMore _ (s.setPort { s.port with linkDue := false })).served hs
  · exact hs

theorem takeStopped_served (hs : bladeMissing s = false) : bladeMissing (takeStopped s) = false := by
  unfold takeStopped
  split
  · exact HoldsNoMore.served (.of_same rfl rfl rfl rfl rfl) hs
  · exact hs

theorem duty_served : ∀ d ∈ duties, ∀ u, bladeMissing u = false → bladeMissing (d.2 u) = false := by
  simp only [duties, List.forall_mem_append, List.forall_mem_cons]
  exact ⟨fun d hd u => (earlyDuty_serves d hd u).blade, fun _ => raiseDriveLink_served, fun _ => takeStopped_served,
    by simp⟩

/-- What the events taken before a DRIVE-LINK leave of a DRIVE-LINK that is due, and of the cause of a fault. -/
theorem settleEarly_keeps (s : State) : Works true s (settleEarly s) ∧ Serves s (settleEarly s) := by
  unfold settleEarly
  have hall := fun d (hd : d ∈ earlyDuties) u => And.intro (earlyDuty_works d hd u) (earlyDuty_serves d hd u)
  revert hall
  generalize earlyDuties = ds
  induction ds generalizing s with
  | nil => exact fun _ => ⟨.refl s, .refl s⟩
  | cons d ds ih =>
    intro hall
    obtain ⟨hworks, hserves⟩ := hall d List.mem_cons_self s
    obtain ⟨hw, hs⟩ := ih (d.2 s) fun e he => hall e (List.mem_cons_of_mem d he)
    exact ⟨hworks.trans hw, fun hb => hs.blade (hserves.blade hb), hs.linkDue.trans hserves.linkDue⟩

/-! ## The commands of what is due, one after another -/

/-- The state that a command leads to. -/
def runCommand (u : State) (c : Instr) : State :=
  match exec c u with
  | .next t => t
  | _ => u

theorem runCommand_duty {d : Instr × (State → State)} (hd : d ∈ duties) (hr : u.part.inReset = false) :
    runCommand u d.1 = d.2 u := by
  unfold runCommand
  rw [exec_duty d hd u, unlessReset_of_running hr]

/-- Outside reset the commands of what is due, one after another, are what a frame takes; they leave the part outside
reset, and the blade table present where work needs it. -/
theorem runCommands_duties : ∀ (ds : List (Instr × (State → State))), (∀ d ∈ ds, d ∈ duties) → ∀ s : State,
    s.part.inReset = false → bladeMissing s = false →
    (ds.map (·.1)).foldl runCommand s = ds.foldl (fun u d => d.2 u) s ∧
      (ds.foldl (fun u d => d.2 u) s).part.inReset = false ∧ bladeMissing (ds.foldl (fun u d => d.2 u) s) = false := by
  intro ds
  induction ds with
  | nil => exact fun _ s hr hb => ⟨rfl, hr, hb⟩
  | cons d ds ih =>
    intro hmem s hr hb
    have hd := hmem d List.mem_cons_self
    have hnext := ih (fun e he => hmem e (List.mem_cons_of_mem d he)) (d.2 s) ((duty_works d hd s).inReset.trans hr)
      (duty_served d hd s hb)
    rw [List.map_cons, List.foldl_cons, List.foldl_cons, runCommand_duty hd hr]
    exact hnext

/-- Where none of them does anything, nothing is taken. -/
theorem foldl_of_fixed : ∀ (ds : List (Instr × (State → State))), (∀ d ∈ ds, d.2 s = s) →
    ds.foldl (fun u d => d.2 u) s = s := by
  intro ds
  induction ds with
  | nil => exact fun _ => rfl
  | cons d ds ih =>
    intro h
    rw [List.foldl_cons, h d List.mem_cons_self]
    exact ih fun e he => h e (List.mem_cons_of_mem d he)

/-! ## The judging -/

theorem Port.judged_of_first {p : Port} (h : p.sentAny = false) :
    p.judged = { p with sentAny := true, received := false } := by
  simp [Port.judged, h]

theorem Port.judged_of_answered {p : Port} (h : p.sentAny = true) (hr : p.received = true) :
    p.judged = { p with received := false } := by
  simp [Port.judged, h, hr]

theorem Port.judged_of_missed {p : Port} (h : p.sentAny = true) (hr : p.received = false) : p.judged =
    { p with missed := min 255 (p.missed + 1), linkDue := p.linkDue || p.missed + 1 == 3 } := by
  simp [Port.judged, h, hr]

theorem Port.judged_sentAny (p : Port) : p.judged.sentAny = true := by
  cases h : p.sentAny with
  | false => rw [Port.judged_of_first h]
  | true =>
    cases hr : p.received with
    | false => rw [Port.judged_of_missed h hr]; exact h
    | true => rw [Port.judged_of_answered h hr]; exact h

theorem Port.judged_received (p : Port) : p.judged.received = false := by
  cases h : p.sentAny with
  | false => rw [Port.judged_of_first h]
  | true =>
    cases hr : p.received with
    | false => rw [Port.judged_of_missed h hr]; exact hr
    | true => rw [Port.judged_of_answered h hr]

/-- A third miss that an earlier frame counted leaves the part in FAULT. -/
theorem settle_of_linkDue (hl : s.port.linkDue = true) (hst : s.part.state ≠ .unconfigured) :
    (settle s).part.state = .fault ∧ (s.part.state ≠ .fault → (settle s).part.record.cause ≠ none) := by
  obtain ⟨hworks, hserves⟩ := settleEarly_keeps s
  have hconf : (settleEarly s).part.state ≠ .unconfigured := by
    have k := (keptAll_configured s.part.setup).toWorked
    simp only [settleEarly, earlyDuties, List.foldl_cons, List.foldl_nil]
    exact (k.takeDwellTimeout (k.takeTrimTimeout (k.takeLockTimeout (k.raiseBladeJam (k.evaluate _ (k.endRecover
      (k.endAbortStop (k.takeHoldEntry (k.endStandoffRetract (s := s) ⟨rfl, hst⟩))))))))).2
  have hlink := hserves.linkDue.trans hl
  have hpart : (takeStopped (raiseDriveLink (settleEarly s))).part = (raiseDriveLink (settleEarly s)).part := by
    unfold takeStopped
    split <;> rfl
  rw [settle_eq_early, hpart, raiseDriveLink, if_pos hlink]
  refine ⟨raiseFault_state hconf, fun hs => ?_⟩
  refine (raiseFault_works .driveLink ((settleEarly s).setPort _)).cause (hworks.cause fun hf => absurd hf hs) ?_
  exact raiseFault_state hconf

end

/-- Settles O49. -/
theorem missedFramesRaiseDriveLink : Obligations.MissedFramesRaiseDriveLink := by
  unfold Obligations.MissedFramesRaiseDriveLink
  refine ⟨?judge, ?frame, ?raise, ?order⟩
  case judge =>
    intro s hl
    rw [judgePeriod_eq, State.setPort_port]
    refine ⟨fun hn => ?_, fun ha hr => ?_, fun ha hr hle => ?_⟩
    · rw [Port.judged_of_first hn]
      exact ⟨rfl, hl⟩
    · rw [Port.judged_of_answered ha hr]
      exact ⟨rfl, rfl, hl⟩
    · rw [Port.judged_of_missed ha hr]
      refine ⟨?_, ?_⟩
      · dsimp only
        split <;> omega
      · simp only [hl, Bool.false_or, beq_iff_eq]
        omega
  case frame =>
    intro s hr hs hb
    have hexec : exec .frame s = .next (closeFrame (workFrame (settle s))) := by
      show execFrame s = _
      simp [execFrame, hr, hs, hb, runFrame]
    have hport := workFrame_settle_port s
    have hworks : Works false (settle s) (workFrame (settle s)) := workFrame_works (settle s)
    generalize workFrame (settle s) = u at hexec hport hworks
    obtain ⟨p, hclose, hsent, hreceived, hmissed, hlink⟩ : ∃ p : Port, (closeFrame u).port = p.judged ∧
        p.sentAny = s.port.sentAny ∧ p.received = s.port.received ∧ p.missed = s.port.missed ∧ p.linkDue = false :=
      ⟨_, closeFrame_port u, by rw [hport], by rw [hport], by rw [hport], by rw [hport]⟩
    rw [← hsent, ← hreceived, ← hmissed]
    refine ⟨closeFrame u, hexec, ?_, ?_, fun hk => ?_, fun ha hn => ?_, fun hl hst => ?_⟩
    · rw [hclose, p.judged_sentAny]
    · rw [hclose, p.judged_received]
    · rw [hclose]
      rcases Bool.eq_false_or_eq_true p.sentAny with ha | hn
      · rw [Port.judged_of_answered ha (hk.resolve_left (by simp [ha]))]
        exact ⟨rfl, hlink⟩
      · rw [Port.judged_of_first hn]
        exact ⟨rfl, hlink⟩
    · rw [hclose, Port.judged_of_missed ha hn]
      refine ⟨?_, ?_⟩
      · dsimp only
        split <;> omega
      · simp only [hlink, Bool.false_or, beq_iff_eq]
        omega
    · obtain ⟨hfault, hcause⟩ := settle_of_linkDue hl hst
      rw [closeFrame_part, hworks.faulted rfl hfault]
      exact ⟨hfault, hcause⟩
  case raise =>
    intro s hr hl
    have hexec : exec .driveLink s = .next (raiseFault .driveLink (s.setPort { s.port with linkDue := false })) := by
      refine (exec_duty (.driveLink, raiseDriveLink) (by simp [duties]) s).trans ?_
      rw [unlessReset_of_running hr]
      exact congrArg Host.Outcome.next (if_pos hl)
    refine ⟨_, hexec, ?_, ?_, by simp, by simp, by simp, fun hst => ?_, fun hst => ?_⟩
    · exact (raiseFault_holdsNoMore _ _).linkDue
    · rcases raiseFault_cases .driveLink (s.setPort { s.port with linkDue := false }) with ⟨-, e⟩ | ⟨-, e⟩ | ⟨-, e⟩ <;>
        rw [e] <;> rfl
    · rw [raiseFault_part_of_working (by exact hst)]
      exact ⟨rfl, rfl⟩
    · rw [raiseFault_of_fault (by exact hst)]
      rfl
  case order =>
    intro s hr hs hb run events after hfixed
    have hall : ∀ d ∈ duties, d ∈ duties := fun _ h => h
    obtain ⟨hafter, hreset, hserved⟩ := runCommands_duties duties hall s hr hb
    rw [← settle_eq_duties] at hafter hreset hserved
    have hrun : after = settle s := hafter
    have hsettled : settle (settle s) = settle s := by
      refine (settle_eq_duties _).trans (foldl_of_fixed duties fun d hd => ?_)
      have h := hfixed d.1 (List.mem_map_of_mem (f := (·.1)) hd)
      rw [hrun] at h
      exact (runCommand_duty hd hreset).symm.trans h
    have hsending : (settle s).port.sending = true := by
      rw [(worked_port s.port).settle (s := s) rfl]
      exact hs
    rw [hrun]
    show execFrame s = execFrame (settle s)
    simp [execFrame, hr, hs, hb, hreset, hsending, hserved, runFrame, hsettled]

end Sys2Proof.Machine

/-! # Return frames (R106, R116, R122, R136, R138, R179) -/

namespace Sys2Proof.Machine

/-! ## The bytes of a return frame (Table 12.5) -/

/-- The 19 bytes of a return frame that its CRC covers. -/
def returnBody (echo : FrameNo) (x y z heading : Nat) (ready flags load : Byte) : List Byte :=
  tagBytes echo ++ u32 x ++ u32 y ++ u32 z ++ u16 heading ++ [ready, flags, load]

section
variable {s t u : State} {echo : FrameNo} {x y z heading : Nat} {ready flags load : Byte} {c : BitVec 16}

theorem returnBody_length : (returnBody echo x y z heading ready flags load).length = 19 := by
  simp [returnBody]

/-- The fields as they stand in the bytes. -/
theorem returnBody_fields (rest : List Byte) :
    let b := returnBody echo x y z heading ready flags load ++ rest
    fieldU b 0 2 = echo.toNat ∧ fieldU b 2 4 = beNat (u32 x) ∧ fieldU b 6 4 = beNat (u32 y) ∧
      fieldU b 10 4 = beNat (u32 z) ∧ fieldU b 14 2 = beNat (u16 heading) ∧ fieldU b 16 1 = beNat [ready] ∧
      fieldU b 17 1 = beNat [flags] ∧ fieldU b 18 1 = beNat [load] := by
  have hsplit : [ready, flags, load] = [ready] ++ ([flags] ++ [load]) := rfl
  intro b
  simp only [b, returnBody, hsplit, List.append_assoc, fieldU_append_of_eq, fieldU_append_of_le, length_u16, length_u32,
    length_tagBytes, List.length_cons, List.length_nil, Nat.zero_add, Nat.reduceLeDiff, Nat.reduceSub, beNat_tagBytes,
    and_self]

theorem heldOf_returnBody (hx : x < 2 ^ 32) (hy : y < 2 ^ 32) (hz : z < 2 ^ 32) (hh : heading < 65536) :
    heldOf (returnBody echo x y z heading ready flags load ++ tagBytes c) =
      { x := x, y := y, z := z, heading := heading % 36000, ready := ready.setWidth 5, alarm := flags.getLsbD 0
        lock := flags.getLsbD 1, trimDone := flags.getLsbD 2, load := min 250 load.toNat, echo := echo } := by
  have hone : ∀ b : Byte, beNat [b] = b.toNat := fun b => by simp [beNat]
  obtain ⟨hecho, hfx, hfy, hfz, hfh, hready, hflags, hload⟩ := returnBody_fields (echo := echo) (x := x) (y := y)
    (z := z) (heading := heading) (ready := ready) (flags := flags) (load := load) (tagBytes c)
  unfold heldOf
  rw [hecho, hfx, hfy, hfz, hfh, hready, hflags, hload, beNat_u32 _ hx, beNat_u32 _ hy, beNat_u32 _ hz,
    beNat_u16 _ hh, hone, hone, hone, BitVec.ofNat_toNat, BitVec.ofNat_toNat, BitVec.setWidth_eq]
  rfl

theorem returnCrcAgrees_returnBody : returnCrcAgrees (returnBody echo x y z heading ready flags load ++ tagBytes c) =
    decide (c = crc (returnBody echo x y z heading ready flags load)) := by
  have hlen := returnBody_length (echo := echo) (x := x) (y := y) (z := z) (heading := heading) (ready := ready)
    (flags := flags) (load := load)
  generalize returnBody echo x y z heading ready flags load = body at hlen
  unfold returnCrcAgrees
  rw [fieldU_append_of_le (by omega), hlen, fieldU_self (length_tagBytes c), beNat_tagBytes,
    List.take_append_of_le_length (by omega), List.take_of_length_le (by omega)]
  rw [BitVec.ofNat_toNat, BitVec.setWidth_eq, Bool.eq_iff_iff, beq_iff_eq, decide_eq_true_iff]
  exact eq_comm

/-- The reception is over. -/
def State.received (s : State) : State := s.setPort { s.port with rx := .hunt false }

/-- The 23 bytes of a return frame, found while hunting. -/
theorem exec_returnFrame {kept : Bool} (hr : s.part.inReset = false) (hrx : s.port.rx = .hunt kept) :
    exec (.returnFrame ([0xA5, 0x5A] ++ returnBody echo x y z heading ready flags load ++ tagBytes c)) s =
      .next (if s.port.sending && decide (c = crc (returnBody echo x y z heading ready flags load)) then
        receiveReturn (heldOf (returnBody echo x y z heading ready flags load ++ tagBytes c)) s.received
      else s.received) := by
  have hlen : (returnBody echo x y z heading ready flags load ++ tagBytes c).length = 21 := by
    rw [List.length_append, returnBody_length, length_tagBytes]
  refine congrArg Host.Outcome.next ((unlessReset_of_running hr _).trans ?_)
  refine (receiveDrive_framed hrx hlen).trans ?_
  unfold judgeReturn
  rw [returnCrcAgrees_returnBody]
  rfl

/-! ## What a return frame leaves alone -/

/-- What a return frame hands on to the Executor and the Planner leaves alone. -/
structure HandedOn (s t : State) : Prop where
  link : t.link = s.link
  tables : t.tables = s.tables
  governor : t.governor = s.governor
  pending : t.pending = s.pending
  port : t.port = { s.port with trimRequest := t.port.trimRequest, lines := t.port.lines }

theorem HandedOn.refl (s : State) : HandedOn s s := ⟨rfl, rfl, rfl, rfl, rfl⟩

theorem HandedOn.trans (h : HandedOn s t) (k : HandedOn t u) : HandedOn s u :=
  ⟨k.link.trans h.link, k.tables.trans h.tables, k.governor.trans h.governor, k.pending.trans h.pending, by
    rw [k.port, h.port]⟩

theorem HandedOn.after (k : HandedOn t u) (h : HandedOn s t) : HandedOn s u := h.trans k

theorem judgeLock_handedOn (s : State) : HandedOn s (judgeLock s) := by
  unfold judgeLock
  split
  · split
    · exact ⟨rfl, rfl, rfl, rfl, rfl⟩
    · exact .refl s
  · exact .refl s

theorem judgeTrimDone_handedOn (s : State) : HandedOn s (judgeTrimDone s) := by
  unfold judgeTrimDone takeTrimDone
  split
  · split
    · split
      · split <;> exact ⟨rfl, rfl, rfl, rfl, rfl⟩
      · exact ⟨rfl, rfl, rfl, rfl, rfl⟩
    · exact .refl s
  · exact .refl s

theorem PlanFrame.handedOn (h : PlanFrame s t) : HandedOn s t :=
  ⟨h.link, h.tables, h.governor, h.pending, by rw [h.port]⟩

theorem adopt_handedOn (s : State) : HandedOn s (adopt s) := by
  unfold adopt
  split
  · exact .refl s
  · exact (plannerMoment_frame _).handedOn.after ⟨rfl, rfl, rfl, rfl, rfl⟩

theorem raiseFault_handedOn (c : FaultCode) (s : State) : HandedOn s (raiseFault c s) := by
  refine ⟨by simp, by simp, by simp, by simp, ?_⟩
  rcases raiseFault_cases c s with ⟨-, e⟩ | ⟨-, e⟩ | ⟨-, e⟩ <;> rw [e] <;> rfl

/-- The values of a return frame are held, and the period is answered (R136). -/
def State.holding (h : Held) (s : State) : State := s.setPort { s.port with held := h, received := true, missed := 0 }

theorem receiveReturn_eq (h : Held) (s : State) : receiveReturn h s =
    if h.alarm && !s.port.held.alarm then raiseFault .drive (adopt (judgeTrimDone (judgeLock (s.holding h))))
    else adopt (judgeTrimDone (judgeLock (s.holding h))) := rfl

theorem receiveReturn_handedOn (h : Held) (s : State) : HandedOn (s.holding h) (receiveReturn h s) := by
  have hadopt : HandedOn (s.holding h) (adopt (judgeTrimDone (judgeLock (s.holding h)))) :=
    ((judgeLock_handedOn _).trans (judgeTrimDone_handedOn _)).trans (adopt_handedOn _)
  rw [receiveReturn_eq]
  split
  · exact hadopt.trans (raiseFault_handedOn _ _)
  · exact hadopt

end

/-- Settles O55. -/
theorem returnFrameIsHeld : Obligations.ReturnFrameIsHeld := by
  unfold Obligations.ReturnFrameIsHeld
  refine ⟨fun s kept echo x y z heading ready flags load c hr hrx hx hy hz hh => ?held, fun s hr => ?partial_⟩
  case held =>
    intro body
    refine ⟨_, exec_returnFrame hr hrx, fun hsend hc => ?_, fun hbad => ?_⟩
    · have hok : (s.port.sending && decide (c = crc (returnBody echo x y z heading ready flags load))) = true := by
        rw [hsend, decide_eq_true (by exact hc)]
        rfl
      rw [if_pos hok, heldOf_returnBody hx hy hz hh]
      generalize (Held.mk _ _ _ _ _ _ _ _ _ _ : Held) = h
      have hon := receiveReturn_handedOn h s.received
      rw [hon.port]
      exact ⟨rfl, rfl, rfl, rfl, hon.governor, hon.tables, hon.link, hon.pending⟩
    · have hno : (s.port.sending && decide (c = crc (returnBody echo x y z heading ready flags load))) = false := by
        rcases hbad with hsend | hc
        · rw [hsend]
          rfl
        · rw [decide_eq_false (by exact hc), Bool.and_false]
      rw [if_neg (ne_true_of_eq_false hno)]
      rfl
  case partial_ =>
    have hexec : exec .partialFrameDiscard s = .next (discardPartial s) :=
      congrArg Host.Outcome.next (unlessReset_of_running hr _)
    rw [hexec]
    unfold discardPartial
    refine ⟨fun got left hrx => ?_, fun kept hrx => ?_⟩
    · rw [hrx]
      rfl
    · rw [hrx]

end Sys2Proof.Machine

/-! # What a return frame hands on (R106, R116, R122, R138) -/

namespace Sys2Proof.Machine

section
variable {s t u : State} {h : Held} {f : FrameNo} {pos : Position}

/-! ## LOCK and trim-done -/

theorem judgeLock_of_spinup (hst : s.executor.state = .spinup) (hf : s.executor.spinupFrame = some f) :
    judgeLock s = if s.port.held.lock && atOrAfter s.port.held.echo f then takeLock s else s := by
  simp only [judgeLock, hst, hf]

theorem judgeLock_of_other (hst : s.executor.state ≠ .spinup) : judgeLock s = s := by
  unfold judgeLock
  split
  · exact absurd ‹_› hst
  · rfl

theorem judgeTrimDone_of_trim (hst : s.executor.state = .trim) (hf : s.executor.trimFrame = some f) :
    judgeTrimDone s = if s.port.held.trimDone && atOrAfter s.port.held.echo f then takeTrimDone s else s := by
  simp only [judgeTrimDone, hst, hf]

theorem judgeTrimDone_of_other (hst : s.executor.state ≠ .trim) : judgeTrimDone s = s := by
  unfold judgeTrimDone
  split
  · exact absurd ‹_› hst
  · rfl

theorem atOrAfter_of_lt {a b : FrameNo} (hlt : (a - b).toNat < 32768) : atOrAfter a b = true := decide_eq_true hlt

theorem atOrAfter_of_ge {a b : FrameNo} (hge : 32768 ≤ (a - b).toNat) : atOrAfter a b = false :=
  decide_eq_false (Nat.not_lt.2 hge)

/-- What the judging of LOCK and trim-done leaves alone. -/
structure Judged (s t : State) : Prop where
  planner : t.planner = s.planner
  part : t.part = s.part
  link : t.link = s.link
  position : t.executor.position = s.executor.position
  queue : t.executor.queue = s.executor.queue
  tag : t.executor.currentTag = s.executor.currentTag

theorem Judged.refl (s : State) : Judged s s := ⟨rfl, rfl, rfl, rfl, rfl, rfl⟩

theorem Judged.trans (h : Judged s t) (k : Judged t u) : Judged s u :=
  ⟨k.planner.trans h.planner, k.part.trans h.part, k.link.trans h.link, k.position.trans h.position,
    k.queue.trans h.queue, k.tag.trans h.tag⟩

theorem judgeLock_judged (s : State) : Judged s (judgeLock s) := by
  unfold judgeLock
  split
  · split
    · exact ⟨rfl, rfl, rfl, rfl, rfl, rfl⟩
    · exact .refl s
  · exact .refl s

theorem startLiftPlunge_judged (s : State) : Judged s (startLiftPlunge s) := by
  unfold startLiftPlunge Executor.startZ
  split
  · exact ⟨rfl, rfl, rfl, by simp, by simp, by simp⟩
  · exact ⟨rfl, rfl, rfl, rfl, rfl, rfl⟩

theorem judgeTrimDone_judged (s : State) : Judged s (judgeTrimDone s) := by
  unfold judgeTrimDone takeTrimDone
  split
  · split
    · have hwithdrawn : Judged s ((s.setPort { s.port with trimRequest := false }).setExecutor
          { s.executor with trimTimer := .stopped }) := ⟨rfl, rfl, rfl, rfl, rfl, rfl⟩
      split
      · split
        · exact hwithdrawn.trans (startLiftPlunge_judged _)
        · exact ⟨rfl, rfl, rfl, rfl, rfl, rfl⟩
      · exact ⟨rfl, rfl, rfl, rfl, rfl, rfl⟩
    · exact .refl s
  · exact .refl s

theorem judged_judged (s : State) : Judged s (judgeTrimDone (judgeLock s)) :=
  (judgeLock_judged s).trans (judgeTrimDone_judged _)

/-! ## Adoption -/

theorem adopt_of_position (hp : s.executor.position = some pos) : adopt s = s := by
  simp only [adopt, hp]

/-- The record of a window entry with the heading `g`, where it is the TRAVEL or ENTER of a stab closed before (R13). -/
def WindowEntry.headed (g : Nat) (w : WindowEntry) : Record :=
  if w.ofOpenContour = true then w.record
  else match w.record.body with
    | .travel x y none => { w.record with body := .travel x y (some g) }
    | .enter x y none v => { w.record with body := .enter x y (some g) v }
    | _ => w.record

theorem fillStabs_eq (g : Nat) (window : List WindowEntry) :
    fillStabs g window = window.map fun w => { w with record := w.headed g } := by
  unfold fillStabs
  refine List.map_congr_left fun w _ => ?_
  unfold WindowEntry.headed
  by_cases hopen : w.ofOpenContour = true
  · rw [if_pos hopen, if_pos hopen]
  · rw [if_neg hopen, if_neg hopen]
    obtain ⟨⟨tag, actions, body⟩, junction, isOpen⟩ := w
    obtain rfl : isOpen = false := Bool.eq_false_iff.2 hopen
    cases body with
    | travel x y hd => cases hd <;> rfl
    | enter x y hd v => cases hd <;> rfl
    | _ => rfl

/-- The state with the position adopted, and the heading that the stabs take, before the release rules are applied. -/
def State.adopting (h : Held) (s : State) : State :=
  (s.setExecutor { s.executor with position := some ⟨(h.x : Int), (h.y : Int), h.z, h.heading⟩ }).setPlanner
    { s.planner with window := s.planner.window.map fun w => { w with record := w.headed h.heading } }

theorem adopt_of_none (hp : s.executor.position = none) : adopt s = plannerMoment (s.adopting s.port.held) := by
  simp only [adopt, hp, State.adopting, ← fillStabs_eq]

/-! ## The whole -/

/-- What a valid return frame leads to, before its alarm is judged. -/
def State.returned (h : Held) (s : State) : State := adopt (judgeTrimDone (judgeLock (s.holding h)))

theorem receiveReturn_of_noAlarm (ha : h.alarm = false ∨ s.port.held.alarm = true) :
    receiveReturn h s = s.returned h := by
  rw [receiveReturn_eq, if_neg]
  · rfl
  · rcases ha with ha | ha <;> simp [ha]

theorem receiveReturn_of_alarm (ha : h.alarm = true) (hs : s.port.held.alarm = false) :
    receiveReturn h s = raiseFault .drive (s.returned h) := by
  rw [receiveReturn_eq, if_pos (by simp [ha, hs])]
  rfl

/-- With a position, nothing is adopted. -/
theorem returned_of_position (hp : s.executor.position = some pos) :
    s.returned h = judgeTrimDone (judgeLock (s.holding h)) :=
  adopt_of_position ((judged_judged _).position.trans hp)

/-- In SPINUP a LOCK is judged against the spin-up frame (R116). -/
theorem returned_of_spinup (hst : s.executor.state = .spinup) (hf : s.executor.spinupFrame = some f)
    (hp : s.executor.position = some pos) :
    s.returned h = if h.lock && atOrAfter h.echo f then takeLock (s.holding h) else s.holding h := by
  have hlock : judgeLock (s.holding h) =
      if h.lock && atOrAfter h.echo f then takeLock (s.holding h) else s.holding h :=
    judgeLock_of_spinup (s := s.holding h) hst hf
  rw [returned_of_position hp, hlock]
  split
  · exact judgeTrimDone_of_other ExecState.noConfusion
  · exact judgeTrimDone_of_other (s := s.holding h) (hst ▸ ExecState.noConfusion)

/-- In TRIM a trim-done is judged against the trim frame (R122). -/
theorem returned_of_trim (hst : s.executor.state = .trim) (hf : s.executor.trimFrame = some f)
    (hp : s.executor.position = some pos) :
    s.returned h = if h.trimDone && atOrAfter h.echo f then takeTrimDone (s.holding h) else s.holding h := by
  rw [returned_of_position hp, judgeLock_of_other (s := s.holding h) (hst ▸ ExecState.noConfusion)]
  exact judgeTrimDone_of_trim (s := s.holding h) hst hf

/-- The trim-done is taken: the request is withdrawn and the timer stops (R122). -/
def State.trimTaken (s : State) : State :=
  (s.setPort { s.port with trimRequest := false }).setExecutor { s.executor with trimTimer := .stopped }

theorem takeTrimDone_of_leave {cur : Current} {g : Nat} {tr : Bool} (hc : s.executor.current = some cur)
    (hb : cur.record.body = .leave g tr) : takeTrimDone s = s.trimTaken.setExecutor
      { s.executor with
        trimTimer := .stopped, zMove := none, stepDone := false
        current := some { cur with complete := true, speed := 0 } } := by
  simp only [takeTrimDone, hc, hb, Executor.completeCurrent, State.setExecutor_executor]
  rfl

theorem takeTrimDone_of_pivot {cur : Current} {p : PivotRecord} (hc : s.executor.current = some cur)
    (hb : cur.record.body = .pivot p) : takeTrimDone s = startLiftPlunge s.trimTaken := by
  simp only [takeTrimDone, State.trimTaken, hc, hb]

/-- The alarm is seen in the fault record and the fault stop, not in the Planner, the setpoints or the queue. -/
theorem receiveReturn_keeps (h : Held) (s : State) : (receiveReturn h s).planner = (s.returned h).planner ∧
    (receiveReturn h s).executor.position = (s.returned h).executor.position ∧
    (receiveReturn h s).executor.queue = (s.returned h).executor.queue := by
  rw [receiveReturn_eq]
  split
  · exact ⟨raiseFault_planner _ _, raiseFault_position _ _, raiseFault_queue _ _⟩
  · exact ⟨rfl, rfl, rfl⟩

/-- What a return frame leads to where a position is adopted. -/
theorem returned_of_none (hp : s.executor.position = none) :
    ∃ v, Judged s v ∧ s.returned h = plannerMoment (v.adopting h) := by
  have hj := judged_judged (s.holding h)
  have hheld : (judgeTrimDone (judgeLock (s.holding h))).port.held = h := by
    rw [((judgeLock_handedOn (s.holding h)).trans (judgeTrimDone_handedOn _)).port]
    rfl
  refine ⟨_, ⟨hj.planner, hj.part, hj.link, hj.position, hj.queue, hj.tag⟩, ?_⟩
  unfold State.returned
  rw [adopt_of_none (hj.position.trans hp), hheld]

/-- The part and the tag, before the alarm is judged: only the Planner's PARKED to RUNNING (R145). -/
theorem returned_part (h : Held) (s : State) : (s.returned h).executor.currentTag = s.executor.currentTag ∧
    (s.returned h).part = { s.part with state := (s.returned h).part.state } ∧
    ((s.returned h).part.state = s.part.state ∨
      (s.part.state = .parked ∧ (s.returned h).part.state = .running)) := by
  cases hp : s.executor.position with
  | some pos =>
    have hj := judged_judged (s.holding h)
    rw [returned_of_position hp, hj.part, hj.tag]
    exact ⟨rfl, rfl, .inl rfl⟩
  | none =>
    obtain ⟨v, hv, hr⟩ := returned_of_none (h := h) hp
    have hframe := plannerMoment_frame (v.adopting h)
    have hstate := hframe.state
    have hvpart : (v.adopting h).part = s.part := hv.part
    rw [hvpart] at hstate
    rw [hr, hframe.executor, hframe.only.part, hvpart]
    exact ⟨hv.tag, rfl, hstate⟩

end

/-- Settles O56. -/
theorem returnFrameHandsOn : Obligations.ReturnFrameHandsOn := by
  unfold Obligations.ReturnFrameHandsOn
  intro s kept echo x y z heading ready flags load hr hrx hsend hconf hx hy hz hh body alarm lock trimDone
  have hexec := exec_returnFrame (echo := echo) (x := x) (y := y) (z := z) (heading := heading) (ready := ready)
    (flags := flags) (load := load) (c := crc body) hr hrx
  have hok : (s.port.sending && decide (crc body = crc (returnBody echo x y z heading ready flags load))) = true := by
    rw [hsend, decide_eq_true (by rfl)]
    rfl
  rw [if_pos hok, heldOf_returnBody hx hy hz hh] at hexec
  generalize hheld : (Held.mk _ _ _ _ _ _ _ _ _ _ : Held) = h at hexec
  have halarm : h.alarm = alarm := by rw [← hheld]
  have hlock : h.lock = lock := by rw [← hheld]
  have htrim : h.trimDone = trimDone := by rw [← hheld]
  have hecho : h.echo = echo := by rw [← hheld]
  have hposition : (⟨(h.x : Int), (h.y : Int), h.z, h.heading⟩ : Position) =
      ⟨(x : Int), (y : Int), z, heading % 36000⟩ := by
    rw [← hheld]
  have hheading : h.heading = heading % 36000 := by rw [← hheld]
  clear hheld
  have hquiet : alarm = false → receiveReturn h s.received = s.received.returned h := fun ha =>
    receiveReturn_of_noAlarm (.inl (halarm.trans ha))
  obtain ⟨htag, hpart, hstate⟩ := returned_part h s.received
  obtain ⟨hkplanner, hkposition, hkqueue⟩ := receiveReturn_keeps h s.received
  refine ⟨_, hexec, ?_, fun f pos hst hf hp hl ha => ?_, fun f pos hst hf hp hl ha => ?_,
    fun f pos cur g tr hst hf hp hc hb htd ha hlt => ?_,
    fun f pos cur p v r hst hf hp hset hc hb hv hz htd ha hlt => ?_,
    fun f pos hst hf hp hno ha => ?_, fun pos hp => ?_, fun hp => ?_, fun ha hs hwork => ?_, fun hfault => ?_,
    fun ha => ?_⟩
  · rw [(receiveReturn_handedOn h s.received).port]
    exact halarm
  · rw [hquiet ha, returned_of_spinup (s := s.received) hst hf hp, hlock, hl, hecho, Bool.true_and]
    refine ⟨fun hlt => ?_, fun hge => ?_⟩
    · rw [atOrAfter_of_lt hlt]
      rfl
    · rw [atOrAfter_of_ge hge]
      rfl
  · rw [hquiet ha, returned_of_spinup (s := s.received) hst hf hp, hlock, hl, Bool.false_and]
    rfl
  · rw [hquiet ha, returned_of_trim (s := s.received) hst hf hp, htrim, htd, hecho, atOrAfter_of_lt hlt, Bool.and_self,
      if_pos rfl, takeTrimDone_of_leave (s := s.received.holding h) hc hb]
    exact ⟨rfl, rfl⟩
  · rw [hquiet ha, returned_of_trim (s := s.received) hst hf hp, htrim, htd, hecho, atOrAfter_of_lt hlt, Bool.and_self,
      if_pos rfl, takeTrimDone_of_pivot (s := s.received.holding h) hc hb]
    have hzcut : s.zCut = r.zCut := by simp only [State.zCut, hset]
    rw [startLiftPlunge_of_above (s := (s.received.holding h).trimTaken) hc hb hv hp (hzcut ▸ hz), ← hzcut]
    exact ⟨rfl, rfl⟩
  · rw [hquiet ha, returned_of_trim (s := s.received) hst hf hp]
    have hnot : (h.trimDone && atOrAfter h.echo f) = false := by
      rw [htrim, hecho]
      rcases hno with hno | hno
      · rw [hno, Bool.false_and]
      · rw [atOrAfter_of_ge hno, Bool.and_false]
    rw [hnot]
    exact ⟨rfl, rfl⟩
  · have hj := judged_judged (s.received.holding h)
    rw [hkposition, hkplanner, hkqueue, returned_of_position (s := s.received) hp]
    refine ⟨hj.position.trans hp, hj.planner, hj.queue, fun hno => ?_⟩
    rw [receiveReturn_of_noAlarm (s := s.received) (hno.imp_left halarm.trans),
      returned_of_position (s := s.received) hp]
    exact hj.part
  · have hempty : s.received.executor.position = none := hp
    obtain ⟨v, hv, hret⟩ := returned_of_none (h := h) hempty
    have hframe := plannerMoment_frame (v.adopting h)
    have hplanner : (v.adopting h).planner = { s.planner with
        window := s.planner.window.map fun w => { w with record := w.headed (heading % 36000) } } := by
      unfold State.adopting
      rw [State.setPlanner_planner, hv.planner, hheading]
      rfl
    have hqueue : (v.adopting h).executor.queue = s.executor.queue := hv.queue
    have hrecords : (v.adopting h).records =
        s.executor.queue ++ s.planner.window.map (WindowEntry.headed (heading % 36000)) := by
      unfold State.records
      rw [hqueue, hplanner, List.map_map]
      rfl
    have hact : s.link.intake ≠ [] ∨ s.planner.actions = [] →
        (v.adopting h).link.intake ≠ [] ∨ (v.adopting h).planner.actions = [] := fun hact =>
      hact.imp (fun hi => by rw [show (v.adopting h).link = s.link from hv.link]; exact hi)
        (fun hno => by rw [hplanner]; exact hno)
    have hpart' : (v.adopting h).part = s.part := hv.part
    rw [hret] at hkposition hkplanner hkqueue
    refine ⟨?_, ?_⟩
    · rw [hkposition, hframe.executor]
      exact congrArg some hposition
    intro headed
    have hheaded : headed = WindowEntry.headed (heading % 36000) := by
      funext w
      rfl
    rw [hheaded]
    refine ⟨fun hno => ?_, fun hwork hab hno => ?_, fun hstill => ?_⟩
    · have hmoment : plannerMoment (v.adopting h) = applyReleases (v.adopting h) :=
        (hact hno).elim plannerMoment_of_intake plannerMoment_of_noActions
      rw [hmoment] at hkplanner hkqueue
      refine ⟨?_, ?_⟩
      · unfold State.records
        rw [hkqueue, hkplanner]
        exact (applyReleases_records (v.adopting h)).trans hrecords
      · rw [hkplanner, applyReleases_actions, hplanner]
    · have hworks : plannerWorks (v.adopting h) = true := by
        rw [plannerWorks_iff, hpart']
        exact ⟨hwork, hab⟩
      have hrel := plannerMoment_released hworks (hact hno)
      rw [hqueue] at hrel
      exact hrel.of_same hplanner.symm hv.link.symm (by rw [hkplanner]) (by rw [hkplanner]) hkqueue
    · have hidle : plannerWorks (v.adopting h) = false := by
        rw [Bool.eq_false_iff, ne_eq, plannerWorks_iff, hpart']
        rintro ⟨hp | hp, -⟩ <;> rcases hstill with hs | hs <;> exact PartState.noConfusion (hs.symm.trans hp)
      rw [plannerMoment_of_notWorking hidle, hplanner] at hkplanner
      rw [plannerMoment_of_notWorking hidle, hqueue] at hkqueue
      rw [hkplanner, hkqueue, List.map_map]
      exact ⟨rfl, rfl, rfl⟩
  · rw [receiveReturn_of_alarm (s := s.received) (halarm.trans ha) hs]
    have hworking : (s.received.returned h).part.state = .parked ∨ (s.received.returned h).part.state = .running ∨
        (s.received.returned h).part.state = .recovering := by
      rcases hstate with hst | ⟨-, hst⟩
      · rw [hst]
        exact hwork
      · exact .inr (.inl hst)
    rw [raiseFault_part_of_working hworking, raiseFault_position, htag]
    exact ⟨rfl, rfl⟩
  · have hsame : (s.received.returned h).part = s.part := by
      rcases hstate with hst | ⟨hst, -⟩
      · rw [hpart, hst]
        rfl
      · exact absurd (hfault.symm.trans hst) PartState.noConfusion
    by_cases hal : alarm = true ∧ s.port.held.alarm = false
    · rw [receiveReturn_of_alarm (s := s.received) (halarm.trans hal.1) hal.2, if_pos hal,
        raiseFault_part_of_fault (by rw [hsame]; exact hfault), hsame]
    · have hno : h.alarm = false ∨ s.port.held.alarm = true := by
        rw [halarm]
        cases ha : alarm with
        | false => exact .inl rfl
        | true => exact .inr (by simpa [ha] using hal)
      rw [receiveReturn_of_noAlarm (s := s.received) hno, if_neg hal, hsame]
  · rw [receiveReturn_of_noAlarm (s := s.received) (ha.imp_left halarm.trans)]
    refine ⟨by rw [hpart]; rfl, fun hst => ?_⟩
    rcases hstate with hsame | ⟨hparked, -⟩
    · exact hsame
    · rcases hst with hst | hst <;> exact PartState.noConfusion (hst.symm.trans hparked)

end Sys2Proof.Machine

/-! # CLEAR-FAULT and ABORT (R76, R129, R153 to R157) -/

namespace Sys2Proof.Machine

section
variable {s t u : State} {r : Setup} {pos : Position}

/-! ## What both clear -/

/-- PACE follows the emptied intake queue (R166). -/
theorem emptyIntake_link (h : s.part.setup = some r) : (emptyIntake s).link = s.link.left r [] := by
  unfold emptyIntake paceDown
  rw [h]
  rfl

theorem postResponse_enables (p : Response) (s : State) : (postResponse p s).report.enables = s.report.enables := by
  unfold postResponse
  split <;> rfl

theorem commitBlade_enables (s : State) : (commitBlade s).report.enables = s.report.enables := by
  unfold commitBlade
  split
  · rfl
  · split
    · exact postResponse_enables _ _
    · rfl

/-- The density and zone tables, and an open load, are nothing to a commit. -/
theorem commitBlade_otherTables (s : State) : (commitBlade s).tables.density = s.tables.density ∧
    (commitBlade s).tables.zone = s.tables.zone ∧ (commitBlade s).tables.load = s.tables.load := by
  unfold commitBlade
  split
  · exact ⟨rfl, rfl, rfl⟩
  · split
    · rw [postResponse_tables]
      exact ⟨rfl, rfl, rfl⟩
    · exact ⟨rfl, rfl, rfl⟩

/-! ## The RECOVER retract -/

/-- The Executor as the RECOVER retract begins. -/
def Executor.recovering (e : Executor) (target speed : Nat) : Executor :=
  { e with state := .retract .recover, zMove := some ⟨target, speed⟩, stepDone := false }

/-- With the blade below its target the RECOVER retract begins (R155). -/
theorem beginRecover_of_below (hp : s.executor.position = some pos) (hz : pos.z < s.clearZ) :
    beginRecover s = s.setExecutor (s.executor.recovering s.clearZ s.retractSpeed) := by
  simp only [beginRecover, hp]
  rw [Executor.startRetract_of_below hp hz]
  exact if_neg fun h => Bool.noConfusion h.2

/-- With nothing to raise, or no position, the part is PARKED at once (R155). -/
theorem beginRecover_of_nothing (h : ∀ pos, s.executor.position = some pos → s.clearZ ≤ pos.z) :
    beginRecover s = recovered s := by
  cases hp : s.executor.position with
  | none => simp only [beginRecover, hp, recovered]
  | some pos =>
    simp only [beginRecover, hp]
    rw [Executor.startRetract_of_above hp (h pos hp), Executor.finishStep_of_earlier (by
      exact .inr (.inr (.inr (.inr (.inl rfl)))))]
    exact if_pos ⟨rfl, rfl⟩

end

/-! ## CLEAR-FAULT -/

/-- The response to an accepted CLEAR-FAULT. -/
def clearFaultAnswer (tag : Tag) : Response := ⟨kindClearFault, tag, .accepted, []⟩

section
variable {s : State} {r : Setup} {pos : Position}

theorem exec_clearFault_of_accepted (tag : Tag) (h : Reaches s) (hf : s.part.state = .fault)
    (hi : s.part.stopInput = false) (he : s.executor.state = .stopped) : exec (.clearFault tag) s =
      .next (answer (clearFaultAnswer tag) (beginRecover (clearForRecovery (reservePlace s)))) := by
  refine congrArg Host.Outcome.next ((unlessReset_of_running h.running _).trans ?_)
  rw [handImmediate_of_room (.inl h.configured) h.place, ownClearFault_of_stopped (s := reservePlace s) hf hi he]
  rfl

/-- What the end of a recovery, or the beginning of its retract, leaves alone of the state `z` as CLEAR-FAULT has
cleared it. -/
structure RecoverKeeps (z u : State) : Prop where
  link : u.link = z.link
  planner : u.planner = z.planner
  governor : u.governor = z.governor
  port : u.port = z.port
  pending : u.pending = z.pending
  part : u.part = { z.part with state := u.part.state }
  executor : u.executor = { z.executor with
    state := u.executor.state, current := u.executor.current, zMove := u.executor.zMove
    stepDone := u.executor.stepDone, reentering := u.executor.reentering
    standoffPending := u.executor.standoffPending, beganInHold := u.executor.beganInHold }
  current : z.executor.current = none → u.executor.current = none
  otherTables : u.tables.density = z.tables.density ∧ u.tables.zone = z.tables.zone ∧ u.tables.load = z.tables.load
  marks : u.report.marks = z.report.marks
  enables : u.report.enables = z.report.enables
  noCommit : z.tables.waiting = none → u.report.events = z.report.events ∧ u.tables = z.tables

theorem RecoverKeeps.of_recovering (z : State) (target speed : Nat) :
    RecoverKeeps z (z.setExecutor (z.executor.recovering target speed)) :=
  ⟨rfl, rfl, rfl, rfl, rfl, rfl, rfl, id, ⟨rfl, rfl, rfl⟩, rfl, rfl, fun _ => ⟨rfl, rfl⟩⟩

theorem RecoverKeeps.of_recovered (z : State) : RecoverKeeps z (recovered z) where
  link := commitBlade_link _
  planner := commitBlade_planner _
  governor := commitBlade_governor _
  port := commitBlade_port _
  pending := commitBlade_pending _
  part := by rw [recovered_part]
  executor := by
    have he : (recovered z).executor = z.executor.enterIdle := commitBlade_executor _
    rw [he]
    rfl
  current _ := congrArg Executor.current (commitBlade_executor _)
  otherTables := commitBlade_otherTables _
  marks := (commitBlade_marks _).1
  enables := commitBlade_enables _
  noCommit hw := by
    unfold recovered
    rw [commitBlade_of_none (by exact hw)]
    exact ⟨rfl, rfl⟩

/-- Either the RECOVER retract begins, or the part is PARKED at once. -/
theorem beginRecover_outcome (z : State) : RecoverKeeps z (beginRecover z) ∧
    ((∃ pos, z.executor.position = some pos ∧ pos.z < z.clearZ ∧
        beginRecover z = z.setExecutor (z.executor.recovering z.clearZ z.retractSpeed)) ∨
      ((∀ pos, z.executor.position = some pos → z.clearZ ≤ pos.z) ∧ beginRecover z = recovered z)) := by
  by_cases hbelow : ∃ pos, z.executor.position = some pos ∧ pos.z < z.clearZ
  · obtain ⟨pos, hp, hlow⟩ := hbelow
    have heq := beginRecover_of_below hp hlow
    exact ⟨heq ▸ .of_recovering _ _ _, .inl ⟨pos, hp, hlow, heq⟩⟩
  · have hnothing : ∀ pos, z.executor.position = some pos → z.clearZ ≤ pos.z := fun pos hp =>
      Nat.not_lt.1 fun hlow => hbelow ⟨pos, hp, hlow⟩
    have heq := beginRecover_of_nothing hnothing
    exact ⟨heq ▸ .of_recovered _, .inr ⟨hnothing, heq⟩⟩

/-- With nothing held, the blade table that waits is committed as the part is PARKED (R45). -/
theorem recovered_tables {z : State} {w : WaitingBlade} (hw : z.tables.waiting = some w) (hwin : z.planner.window = [])
    (hq : z.executor.queue = []) : (recovered z).tables = { z.tables with blade := w.entry, waiting := none } := by
  unfold recovered
  rw [commitBlade_of_waiting (by exact hw) (by exact hwin) (by exact hq) rfl, postResponse_tables]
  rfl

theorem recovered_executor (z : State) : (recovered z).executor = z.executor.enterIdle := commitBlade_executor _

/-- Target of the RECOVER retract (Table 7.4). -/
theorem clearForRecovery_clearZ (hr : s.part.setup = some r) : (clearForRecovery s).clearZ =
    match s.executor.block with
      | some b => b.clear
      | none => r.zMax := by
  have hmax : (clearForRecovery s).zMax = r.zMax := by
    show (match s.part.setup with
      | some r => r.zMax
      | none => 0) = _
    rw [hr]
  unfold State.clearZ
  rw [hmax]
  rfl

theorem clearForRecovery_retractSpeed (hr : s.part.setup = some r) :
    (clearForRecovery s).retractSpeed = s.executor.heldPlunge.getD r.zAirSpeed := by
  show s.executor.heldPlunge.getD (match s.part.setup with
    | some r => r.zAirSpeed
    | none => 0) = _
  rw [hr]

end

/-- Settles O36. -/
theorem clearFaultRecovers : Obligations.ClearFaultRecovers := by
  unfold Obligations.ClearFaultRecovers
  intro tag s h hf hi hst
  have hexec := exec_clearFault_of_accepted tag h hf hi hst
  have hclear : ∀ r, s.part.setup = some r → (clearForRecovery (reservePlace s)).clearZ = _ :=
    fun r hr => clearForRecovery_clearZ (s := reservePlace s) hr
  have hspeed : ∀ r, s.part.setup = some r → (clearForRecovery (reservePlace s)).retractSpeed = _ :=
    fun r hr => clearForRecovery_retractSpeed (s := reservePlace s) hr
  have hlink : ∀ r, s.part.setup = some r → (clearForRecovery (reservePlace s)).link = s.link.left r [] :=
    fun r hr => emptyIntake_link (s := reservePlace s) hr
  obtain ⟨hkeeps, houtcome⟩ := beginRecover_outcome (clearForRecovery (reservePlace s))
  generalize beginRecover (clearForRecovery (reservePlace s)) = u at hexec hkeeps houtcome
  have hplan : u.planner = Planner.cleared 0 := hkeeps.planner
  obtain ⟨hdensity, hzone, hload⟩ := hkeeps.otherTables
  have hexecutor := hkeeps.executor
  refine ⟨answer (clearFaultAnswer tag) u, hexec, congrArg Part.record hkeeps.part,
    fun r hr => hkeeps.link.trans (hlink r hr), congrArg LinkReceiver.intake hkeeps.link, congrArg Planner.window hplan,
    congrArg Planner.actions hplan, congrArg Planner.stream hplan, congrArg Planner.block hplan,
    congrArg Planner.memory hplan, congrArg Planner.trimDist hplan, hload, congrArg Executor.queue hexecutor,
    hkeeps.current rfl, congrArg Executor.reentry hexecutor, congrArg (fun p : Port => p.held.alarm) hkeeps.port,
    congrArg Port.missed hkeeps.port, (congrArg Port.lines hkeeps.port :), (congrArg Part.setup hkeeps.part :),
    hdensity, hzone, hkeeps.governor, (congrArg Executor.position hexecutor :),
    (congrArg Executor.currentTag hexecutor :), (congrArg Executor.block hexecutor :),
    (congrArg Executor.heldPlunge hexecutor :), fun hw => (hkeeps.noCommit hw).1, hkeeps.marks, hkeeps.enables,
    hkeeps.pending, fun hw => ?_, fun hparked w hw => ?_, fun hrec => ?_, fun pos r hp hr => ?_, fun hp => ?_⟩
  · have htables := (hkeeps.noCommit hw).2
    exact ⟨(congrArg TableStore.blade htables :), (congrArg TableStore.waiting htables).trans hw⟩
  · rcases houtcome with ⟨pos, hp, hlow, rfl⟩ | ⟨hnothing, rfl⟩
    · exact PartState.noConfusion hparked
    · have htables := recovered_tables (z := clearForRecovery (reservePlace s)) hw rfl rfl
      exact ⟨congrArg TableStore.blade htables, congrArg TableStore.waiting htables⟩
  · rcases houtcome with ⟨pos, hp, hlow, rfl⟩ | ⟨hnothing, rfl⟩
    · exact ⟨rfl, rfl⟩
    · rw [answer_part, recovered_part] at hrec
      exact PartState.noConfusion hrec
  · intro target
    have htarget : (clearForRecovery (reservePlace s)).clearZ = target := hclear r hr
    rcases houtcome with ⟨pos', hp', hlow, rfl⟩ | ⟨hnothing, rfl⟩
    · obtain rfl : pos = pos' := Option.some.inj (hp.symm.trans hp')
      rw [htarget] at hlow
      refine ⟨fun _ => ⟨rfl, rfl, ?_⟩, fun hge => absurd hlow (Nat.not_lt.2 hge)⟩
      rw [htarget, hspeed r hr]
      rfl
    · have hge := hnothing pos hp
      rw [htarget] at hge
      refine ⟨fun hlow => absurd hlow (Nat.not_lt.2 hge), fun _ => ⟨?_, ?_⟩⟩
      · rw [answer_part, recovered_part]
      · rw [answer_executor, recovered_executor]
        rfl
  · rcases houtcome with ⟨pos', hp', -, rfl⟩ | ⟨-, rfl⟩
    · exact absurd (hp.symm.trans hp') (Option.some_ne_none pos').symm
    · rw [answer_part, recovered_part, answer_executor, recovered_executor]
      exact ⟨rfl, rfl⟩

/-! ## ABORT -/

section
variable {s : State} {r : Setup} {pos : Position}

/-- The response to an ABORT accepted. -/
def abortAnswer (tag : Tag) : Response := ⟨kindAbort, tag, .accepted, []⟩

theorem ownAbort_of_refused (h : s.part.state = .fault ∨ s.part.state = .recovering) :
    ownAbort s = (s, .refused .state []) := by
  unfold ownAbort
  rcases h with h | h <;> rw [h]

theorem ownAbort_of_noEffect (h : s.part.state = .parked ∨ (s.part.state = .running ∧ s.part.abortFlag = true)) :
    ownAbort s = (s, .accepted []) := by
  unfold ownAbort
  rcases h with h | ⟨h, ha⟩
  · rw [h]
  · rw [h]
    exact if_pos ha

theorem exec_abort_of_running (tag : Tag) (h : Reaches s) (hr : s.part.state = .running)
    (ha : s.part.abortFlag = false) :
    exec (.abort tag) s = .next (answer (abortAnswer tag) (actAbort (reservePlace s))) := by
  have hown : ownAbort (reservePlace s) = (actAbort (reservePlace s), .accepted []) := by
    unfold ownAbort
    rw [show (reservePlace s).part.state = .running from hr]
    exact if_neg (ne_true_of_eq_false (show (reservePlace s).part.abortFlag = false from ha))
  refine congrArg Host.Outcome.next ((unlessReset_of_running h.running _).trans ?_)
  rw [handImmediate_of_room (.inl h.configured) h.place, hown]
  rfl

/-- What the beginning of the abort retract, or the end of the abort stop, leaves alone of the state `z` as the ABORT
has cleared it. -/
structure AbortKeeps (z u : State) : Prop where
  link : u.link = z.link
  planner : u.planner = z.planner
  governor : u.governor = z.governor
  port : u.port = z.port
  keptFreq : u.keptFreq = z.keptFreq
  pending : u.pending = z.pending
  part : u.part = { z.part with state := u.part.state, abortFlag := u.part.abortFlag }
  executor : z.executor.dwellTimer = .stopped → u.executor = { z.executor with
    state := u.executor.state, current := u.executor.current, zMove := u.executor.zMove
    stepDone := u.executor.stepDone, reentering := u.executor.reentering
    standoffPending := u.executor.standoffPending, beganInHold := u.executor.beganInHold }
  current : u.executor.current = none ∨ u.executor.current = z.executor.current
  otherTables : u.tables.density = z.tables.density ∧ u.tables.zone = z.tables.zone ∧ u.tables.load = z.tables.load
  responses : z.report.responses <+: u.report.responses

theorem AbortKeeps.refl (z : State) : AbortKeeps z z :=
  ⟨rfl, rfl, rfl, rfl, rfl, rfl, rfl, fun _ => rfl, .inr rfl, ⟨rfl, rfl, rfl⟩, List.prefix_rfl⟩

theorem AbortKeeps.of_retract (z : State) : AbortKeeps z (beginAbortRetract z) where
  link := rfl
  planner := rfl
  governor := rfl
  port := rfl
  keptFreq := rfl
  pending := rfl
  part := rfl
  executor ht := by
    unfold beginAbortRetract
    rw [State.setExecutor_executor, Executor.startRetract_eq, ← ht]
  current := .inl (by
    unfold beginAbortRetract
    rw [State.setExecutor_executor, Executor.startRetract_current _ _ (.inr (.inl rfl))])
  otherTables := ⟨rfl, rfl, rfl⟩
  responses := List.prefix_rfl

theorem AbortKeeps.of_parked (z : State) : AbortKeeps z (commitBlade (parkedIdle z)) where
  link := commitBlade_link _
  planner := commitBlade_planner _
  governor := commitBlade_governor _
  port := commitBlade_port _
  keptFreq := commitBlade_keptFreq _
  pending := commitBlade_pending _
  part := by
    rw [commitBlade_part]
    rfl
  executor _ := by
    rw [commitBlade_executor]
    rfl
  current := .inl (congrArg Executor.current (commitBlade_executor _))
  otherTables := commitBlade_otherTables _
  responses := commitBlade_responses_prefix (parkedIdle z)

theorem actAbort_eq (s : State) : actAbort s =
    if (clearForAbort s).executor.atRest && (clearForAbort s).executor.inMaterial then
      beginAbortRetract (clearForAbort s)
    else if abortStopOver (clearForAbort s) then commitBlade (parkedIdle (clearForAbort s))
    else clearForAbort s := rfl

theorem actAbort_keeps (s : State) : AbortKeeps (clearForAbort s) (actAbort s) := by
  rw [actAbort_eq]
  split
  · exact .of_retract _
  · split
    · exact .of_parked _
    · exact .refl _

theorem Executor.abort_current {e : Executor} {cur : Current} (hc : e.current = some cur) : e.abort.current =
    some { cur with record := { cur.record with body := cur.record.body.exitZero } } := by
  simp only [Executor.abort, hc]

/-- A CUT that an ABORT leaves executing has exit 0 (R76). -/
theorem Body.exitZero_cut {b : Body} {c : CutRecord} (h : b.exitZero = .cut c) : c.exit = 0 := by
  cases b <;> cases h
  rfl

theorem clearForAbort_exit {cur : Current} {c : CutRecord} (hc : (clearForAbort s).executor.current = some cur)
    (hb : cur.record.body = .cut c) : c.exit = 0 := by
  have hcur : (clearForAbort s).executor.current = (match s.executor.current with
    | some k => some { k with record := { k.record with body := k.record.body.exitZero } }
    | none => none) := rfl
  rw [hcur] at hc
  split at hc
  · cases hc
    exact Body.exitZero_cut hb
  · cases hc

end

/-- Settles O34. -/
theorem abortDropsTheProgram : Obligations.AbortDropsTheProgram := by
  unfold Obligations.AbortDropsTheProgram
  intro tag s h
  refine ⟨fun hst => ?_, fun hst => ?_, fun hr ha => ?_⟩
  · exact congrArg Host.Outcome.next (h.hand (u := s) (ownAbort_of_refused (s := reservePlace s) hst) rfl)
  · exact congrArg Host.Outcome.next (h.hand (u := s) (ownAbort_of_noEffect (s := reservePlace s) hst) rfl)
  have hexec := exec_abort_of_running tag h hr ha
  have hkeeps := actAbort_keeps (reservePlace s)
  have houtcome := actAbort_eq (reservePlace s)
  generalize actAbort (reservePlace s) = u at hexec hkeeps houtcome
  have hexecutor := hkeeps.executor rfl
  obtain ⟨hdensity, hzone, hload⟩ := hkeeps.otherTables
  refine ⟨answer (abortAnswer tag) u, hexec, ?_, congrArg LinkReceiver.intake hkeeps.link,
    fun r hset => hkeeps.link.trans (emptyIntake_link (s := reservePlace s) hset), hkeeps.planner,
    congrArg Executor.queue hexecutor, congrArg Executor.haltRequest hexecutor, congrArg Executor.reentry hexecutor,
    congrArg Executor.dwellTimer hexecutor, (congrArg Executor.position hexecutor :),
    (congrArg Executor.currentTag hexecutor :), (congrArg Executor.heldPlunge hexecutor :), fun cur c hc hb => ?_,
    hload, hdensity, hzone, hkeeps.governor, hkeeps.port, hkeeps.keptFreq, hkeeps.pending,
    (congrArg Part.record hkeeps.part :), (congrArg Part.setup hkeeps.part :), fun hst hmove => ?_,
    fun pos blk v hst hm hp hb hv hz => ?_, fun hst hm => ?_⟩
  · obtain ⟨later, hlater⟩ := hkeeps.responses
    refine ⟨later, ?_⟩
    show _ = fillPlace (abortAnswer tag) u.report.responses
    rw [← hlater]
    have hfill : fillPlace (abortAnswer tag) (s.report.responses ++ [.reserved] ++ later) = _ :=
      (congrArg (fillPlace _) (List.append_assoc ..)).trans (fillPlace_reserved_append _ h.noneReserved later)
    refine Eq.trans ?_ hfill.symm
    rw [List.append_assoc]
    rfl
  · rcases hkeeps.current with hnone | hsame
    · exact absurd (hc.symm.trans hnone) (Option.some_ne_none cur)
    · exact clearForAbort_exit (hsame.symm.trans hc) hb
  · obtain ⟨cur, c, hc, hb, hcc, hv⟩ := hmove
    have hrest : (clearForAbort (reservePlace s)).executor.atRest = false :=
      Executor.atRest_of_moving (e := s.executor.abort) (.inl hst) (Executor.abort_current hc) hcc (.inl hv)
    have hover : abortStopOver (clearForAbort (reservePlace s)) = false := by
      have hstate : (clearForAbort (reservePlace s)).executor.state = .cut := hst
      simp [abortStopOver, hrest, hstate]
    rw [hrest, Bool.false_and, if_neg Bool.false_ne_true, hover, if_neg Bool.false_ne_true] at houtcome
    rw [houtcome]
    exact ⟨hr, rfl, hst, rfl, rfl⟩
  · have hrest : (clearForAbort (reservePlace s)).executor.atRest = true := by
      have hstate : (clearForAbort (reservePlace s)).executor.state = s.executor.state := rfl
      unfold Executor.atRest
      rw [hstate]
      rcases hst with hst | ⟨b, hst⟩ <;> rw [hst]
    have hmat : (clearForAbort (reservePlace s)).executor.inMaterial = true := hm
    rw [hrest, hmat, Bool.and_self, if_pos rfl,
      beginAbortRetract_of_below (s := clearForAbort (reservePlace s)) hp hb hv hz] at houtcome
    rw [houtcome]
    exact ⟨hr, rfl, rfl, rfl, rfl, rfl, rfl⟩
  · have hrest : (clearForAbort (reservePlace s)).executor.atRest = true := by
      have hstate : (clearForAbort (reservePlace s)).executor.state = s.executor.state := rfl
      unfold Executor.atRest
      rw [hstate]
      rcases hst with hst | ⟨b, hst⟩ | ⟨b, hst⟩ <;> rw [hst]
    have hmat : (clearForAbort (reservePlace s)).executor.inMaterial = false := hm
    have hflag : (clearForAbort (reservePlace s)).part.abortFlag = true := rfl
    have hover : abortStopOver (clearForAbort (reservePlace s)) = true := by
      simp [abortStopOver, hrest, hmat, hflag]
    rw [hmat, Bool.and_false, if_neg Bool.false_ne_true, hover, if_pos rfl] at houtcome
    rw [houtcome, answer_part, commitBlade_part, answer_executor, commitBlade_executor]
    exact ⟨rfl, rfl, rfl, rfl⟩

end Sys2Proof.Machine

/-! # Every command answers a next state (R2, R16, R26, R32, R144) -/

namespace Sys2Proof.Machine

section
variable {s : State} {zone : List (Nat × ZoneEntry)} {density : List (Nat × DensityEntry)} {b : Box}

/-! ## A box has a governing class -/

theorem snapshotOf_of_present {cls : Nat} (h : (lookupKey cls density).isSome = true) :
    ∃ snap, snapshotOf density cls = some snap := by
  obtain ⟨e, he⟩ := Option.isSome_iff_exists.1 h
  exact ⟨_, by simp only [snapshotOf, he]; rfl⟩

/-- Among candidates that are all in the density table one governs (R26). -/
theorem governingOf_of_present : ∀ {l : List Nat}, l ≠ [] → (∀ c ∈ l, (lookupKey c density).isSome = true) →
    ∃ snap, governingOf density l = some snap
  | [], h, _ => absurd rfl h
  | [c], _, hall => snapshotOf_of_present (hall c List.mem_cons_self)
  | c :: c' :: cs, _, hall => by
    obtain ⟨a, ha⟩ := snapshotOf_of_present (hall c List.mem_cons_self)
    obtain ⟨g, hg⟩ := governingOf_of_present (l := c' :: cs) (List.cons_ne_nil _ _)
      fun k hk => hall k (List.mem_cons_of_mem c hk)
    exact ⟨governs a g, by simp only [governingOf, ha, hg]⟩

/-- A rectangle that contains a box meets it. -/
theorem ZoneEntry.meets_of_contains {e : ZoneEntry} (hx : b.xLo ≤ b.xHi) (hy : b.yLo ≤ b.yHi)
    (h : e.contains b = true) : candidate zone b e = true := by
  cases e with
  | dflt c => exact absurd h Bool.false_ne_true
  | rect xLo yLo xHi yHi c =>
    obtain ⟨h1, h2, h3, h4⟩ := of_decide_eq_true h
    exact decide_eq_true ⟨by omega, by omega, by omega, by omega⟩

/-- In a zone table that is present every box has a candidate: the default class, or that of a rectangle that contains
the box (R25). -/
theorem candidates_ne_nil (hz : zonePresent zone = true) (hx : b.xLo ≤ b.xHi) (hy : b.yLo ≤ b.yHi) :
    candidates zone b ≠ [] := by
  have hmem : ∃ cls, cls ∈ candidates zone b := by
    by_cases hcontained : ∃ i e, (i, e) ∈ zone ∧ ZoneEntry.contains b e = true
    · obtain ⟨i, e, he, hc⟩ := hcontained
      exact ⟨e.cls, mem_candidates.2 ⟨i, e, he, ZoneEntry.meets_of_contains hx hy hc, rfl⟩⟩
    · obtain ⟨⟨i, e⟩, he, hdflt⟩ := List.any_eq_true.1 hz
      cases e with
      | dflt c => exact ⟨c, mem_candidates.2 ⟨i, _, he, candidate_dflt.2 hcontained, rfl⟩⟩
      | rect => exact absurd hdflt Bool.false_ne_true
  obtain ⟨cls, hcls⟩ := hmem
  exact List.ne_nil_of_mem hcls

/-- Under the law of R32 every segment has a governing class. -/
theorem governingClass_of_consistent {t : TableStore} (h : t.consistent) (hz : t.zone ≠ []) (x0 y0 x1 y1 : Int) :
    ∃ snap, governingClass t (boxOf x0 y0 x1 y1) = some snap := by
  obtain ⟨hclasses, hzone⟩ := h
  refine governingOf_of_present (candidates_ne_nil (hzone.resolve_left hz) ?_ ?_) fun c hc => ?_
  · exact (Int.min_le_left _ _).trans (Int.le_max_left _ _)
  · exact (Int.min_le_left _ _).trans (Int.le_max_left _ _)
  · obtain ⟨i, e, he, -, rfl⟩ := mem_candidates.1 hc
    exact List.all_eq_true.1 hclasses (i, e) he

/-! ## The takings that read tables -/

theorem dealContour_ok (h : s.tables.consistent) (hz : s.tables.zone ≠ []) (r : Setup) (p : Packet) :
    ∃ t, dealContour r p s = .ok t := by
  unfold dealContour
  split
  · split
    · exact ⟨_, rfl⟩
    · obtain ⟨snap, hsnap⟩ := governingClass_of_consistent h hz (pointX p) (pointY p) (pointX p) (pointY p)
      rw [hsnap]
      exact ⟨_, rfl⟩
  · exact ⟨_, rfl⟩

theorem dealCut_ok (h : s.tables.consistent) (hb : s.tables.blade ≠ none) (hz : s.tables.zone ≠ []) (r : Setup)
    (p : Packet) : ∃ t, dealCut r p s = .ok t := by
  obtain ⟨blade, hblade⟩ := Option.ne_none_iff_exists'.1 hb
  unfold dealCut
  split
  · next b x0 y0 k _ _ _ _ =>
    split
    · exact ⟨_, rfl⟩
    · split
      · exact ⟨_, rfl⟩
      · obtain ⟨snap, hsnap⟩ := governingClass_of_consistent h hz (x0 - b.ox) (y0 - b.oy) (pointX p) (pointY p)
        rw [hblade]
        dsimp only
        rw [hsnap]
        exact ⟨_, rfl⟩
  · exact ⟨_, rfl⟩

theorem dealClose_ok (hb : s.tables.blade ≠ none) (r : Setup) (p : Packet) : ∃ t, dealClose r p s = .ok t := by
  obtain ⟨blade, hblade⟩ := Option.ne_none_iff_exists'.1 hb
  unfold dealClose
  rw [hblade]
  split <;> exact ⟨_, rfl⟩

/-- Such a taking answers where its packet can be dealt with. -/
theorem takeAndTry_next {kind : Byte} {deal : Setup → Packet → State → Except Fault State}
    (h : ∀ r p rest, ∃ t, deal r p (takeIntake rest s) = .ok t) : ∃ t, takeAndTry kind deal s = .next t := by
  unfold takeAndTry
  split
  · exact ⟨_, rfl⟩
  · split
    · exact ⟨_, rfl⟩
    · next r p s1 htake =>
      obtain ⟨rest, rfl⟩ : ∃ rest, s1 = takeIntake rest s := by
        unfold takePacket at htake
        split at htake
        · split at htake <;> cases htake
          exact ⟨_, rfl⟩
        · cases htake
      obtain ⟨t, ht⟩ := h r p rest
      rw [ht]
      exact ⟨_, rfl⟩

end

/-- Settles O60. -/
theorem everyCommandAnswersANextState : Obligations.EveryCommandAnswersANextState := by
  unfold Obligations.EveryCommandAnswersANextState
  intro c s h hb hz
  cases c with
  | contour => exact takeAndTry_next fun r p rest => dealContour_ok (s := takeIntake rest s) h hz r p
  | cut => exact takeAndTry_next fun r p rest => dealCut_ok (s := takeIntake rest s) h hb hz r p
  | close => exact takeAndTry_next fun r p rest => dealClose_ok (s := takeIntake rest s) hb r p
  | frame =>
    obtain ⟨blade, hblade⟩ := Option.ne_none_iff_exists'.1 hb
    have hserved : bladeMissing s = false := by simp [bladeMissing, hblade]
    show ∃ t, execFrame s = .next t
    unfold execFrame
    rw [hserved]
    split <;> exact ⟨_, rfl⟩
  | stopAsserted =>
    show ∃ t, execStopAsserted s = .next t
    unfold execStopAsserted
    split <;> exact ⟨_, rfl⟩
  | _ => exact ⟨_, rfl⟩

end Sys2Proof.Machine

/-! # RELEASE (R78 to R83) -/

namespace Sys2Proof.Machine

section
variable {s t : State}

/-! ## When nothing is released -/

/-- Without a head that can be released, or a rule that calls for it, the release rules do nothing. -/
theorem applyReleases_of_stuck (h : headReleasable s = false ∨ releaseCalled s = false) : applyReleases s = s := by
  unfold applyReleases
  cases s.planner.window.length with
  | zero => rfl
  | succ n =>
    unfold releaseLoop
    rcases h with h | h <;> simp [h]

/-- Where the release rules do nothing, and R19 makes no record, the Planner's moment does nothing. -/
theorem plannerMoment_of_stuck (hr : headReleasable s = false ∨ releaseCalled s = false)
    (ha : s.planner.window ≠ [] ∨ s.planner.actions = [] ∨ s.link.intake ≠ []) : plannerMoment s = s := by
  have hdue : actionsDue s = false := by
    unfold actionsDue
    rcases ha with h | h | h
    · simp [h]
    · simp [h]
    · simp [h]
  unfold plannerMoment
  rw [applyReleases_of_stuck hr]
  simp [hdue]

/-- No rule calls for the head of the window: none is due, the window is not full, and a packet waits or two records
stand in the queue. -/
theorem releaseCalled_of_none (hp : s.planner.releasePoint = none) (hw : s.planner.window.length < 24)
    (hi : s.link.intake ≠ [] ∨ 2 ≤ s.executor.queue.length) : releaseCalled s = false := by
  rw [← Bool.not_eq_true, releaseCalled_iff, calledCount, Planner.dueCount_of_none hp]
  split
  · next h =>
    have := hi.resolve_left (not_not_intro h)
    omega
  · omega

/-! ## What a release does -/

/-- A head that can be released and is called for is released first. -/
theorem applyReleases_of_called (hw : plannerWorks s = true) (hh : headReleasable s = true)
    (hc : releaseCalled s = true) :
    applyReleases s = releaseLoop (s.planner.window.length - 1) (releaseHead s) := by
  obtain ⟨-, w, rest, hwin, -⟩ := (headReleasable_iff s).1 hh
  unfold applyReleases
  rw [hwin]
  show (if plannerWorks s && headReleasable s && releaseCalled s then releaseLoop rest.length (releaseHead s) else s) = _
  rw [hw, hh, hc]
  rfl

/-- In DWELL the dwell timer of `t` is stopped, and else it is that of `s`; the state is the same. -/
def DwellStopped (s t : State) : Prop :=
  t.executor.state = s.executor.state ∧
    t.executor.dwellTimer = if s.executor.state = .dwell then .stopped else s.executor.dwellTimer

theorem releaseHead_dwellStopped (h : s.planner.window ≠ []) : DwellStopped s (releaseHead s) := by
  obtain ⟨w, rest, hw⟩ := List.exists_cons_of_ne_nil h
  unfold releaseHead
  rw [hw]
  exact ⟨rfl, rfl⟩

theorem DwellStopped.releaseHead (h : DwellStopped s t) : DwellStopped s (releaseHead t) := by
  unfold Machine.releaseHead
  split
  · exact h
  · refine ⟨h.1, ?_⟩
    show (if t.executor.state = .dwell then Timer.stopped else t.executor.dwellTimer) = _
    rw [h.1, h.2]
    split <;> rfl

theorem DwellStopped.releaseLoop (h : DwellStopped s t) (n : Nat) : DwellStopped s (releaseLoop n t) :=
  releaseLoop_induct (P := DwellStopped s) (fun _ hu _ _ _ => hu.releaseHead) n t h

theorem DwellStopped.makeActions (h : DwellStopped s t) : DwellStopped s (makeActions t) := by
  unfold Machine.makeActions appendRecord
  generalize hu : joinWindow _ _ = u
  have hexec : u.executor = t.executor := by
    rw [← hu, joinWindow_executor, startsWork_executor, State.setPlanner_executor]
  have hjoined : DwellStopped s u := by
    unfold DwellStopped
    rw [hexec]
    exact h
  unfold releaseFull
  split
  · exact hjoined.releaseLoop _
  · exact hjoined

/-- A release in DWELL stops the dwell timer (R124). -/
theorem plannerMoment_dwellStopped (hw : plannerWorks s = true) (hh : headReleasable s = true)
    (hc : releaseCalled s = true) : DwellStopped s (plannerMoment s) := by
  obtain ⟨-, w, rest, hwin, -⟩ := (headReleasable_iff s).1 hh
  have hfirst : DwellStopped s (applyReleases s) := by
    rw [applyReleases_of_called hw hh hc]
    exact (releaseHead_dwellStopped (by rw [hwin]; exact List.cons_ne_nil _ _)).releaseLoop _
  unfold plannerMoment
  dsimp only
  split
  · exact hfirst.makeActions.releaseLoop _
  · exact hfirst

/-- The head of the window goes to the tail of the queue, and what else is released behind it. -/
theorem plannerMoment_prefix_of_called {w : WindowEntry} {rest : List WindowEntry} (hw : plannerWorks s = true)
    (hh : headReleasable s = true) (hc : releaseCalled s = true) (hwin : s.planner.window = w :: rest) :
    (s.executor.queue ++ [w.record]) <+: (plannerMoment s).executor.queue := by
  have hfirst : (s.executor.queue ++ [w.record]) <+: (applyReleases s).executor.queue := by
    rw [applyReleases_of_called hw hh hc, ← (releaseHead_cons hwin).1]
    exact releaseLoop_induct (P := fun t => (Machine.releaseHead s).executor.queue <+: t.executor.queue)
      (fun t h _ _ _ => h.trans (releaseHead_prefix t)) _ _ (List.prefix_refl _)
  unfold plannerMoment
  dsimp only
  split
  · exact (hfirst.trans (makeActions_prefix _)).trans (applyReleases_prefix _)
  · exact hfirst

/-! ## The record that R19 may add -/

theorem lastTag_eq (as : List Machine.Action) : lastTag as = (as.getLast?.map Machine.Action.tag).getD 0 := by
  induction as with
  | nil => rfl
  | cons a as ih =>
    cases as with
    | nil => rfl
    | cons b bs =>
      rw [List.getLast?_cons_cons, ← ih]
      rfl

theorem actionsDue_iff (s : State) : actionsDue s = true ↔
    plannerWorks s = true ∧ s.link.intake = [] ∧ s.planner.actions ≠ [] ∧ s.planner.window = [] := by
  simp [actionsDue, and_assoc]

/-- The records held stay in their order, but for an ACTIONS record that R19 adds. -/
theorem plannerMoment_records (s : State) : (plannerMoment s).records = s.records ∨
    (s.link.intake = [] ∧ s.planner.actions ≠ [] ∧ (plannerMoment s).records = s.records ++
      [⟨(s.planner.actions.getLast?.map Machine.Action.tag).getD 0, s.planner.actions, .actions⟩]) := by
  unfold plannerMoment
  dsimp only
  split
  · next h =>
    obtain ⟨-, hi, ha, -⟩ := (actionsDue_iff _).1 h
    rw [(applyReleases_frame s).link] at hi
    rw [applyReleases_actions] at ha
    refine .inr ⟨hi, ha, ?_⟩
    rw [applyReleases_records, makeActions_records, applyReleases_records, applyReleases_actions, lastTag_eq]
  · exact .inl (applyReleases_records s)

end

/-! ## The obligation -/

/-- Settles O23: the count is that of `applyReleases_released`. -/
theorem releaseKeepsTheOrder : Obligations.ReleaseKeepsTheOrder := by
  unfold Obligations.ReleaseKeepsTheOrder
  refine ⟨fun s w rest hr hstate habort hwin hhead hrule hroom => ?_, fun s h => ?_⟩
  · have hexec : exec .release s = .next (plannerMoment s) := congrArg _ (unlessReset_of_running hr _)
    have hw : plannerWorks s = true := (plannerWorks_iff s).2 ⟨hstate, habort⟩
    have hh : headReleasable s = true := (headReleasable_iff s).2 ⟨hroom, w, rest, hwin, hhead⟩
    have hc : releaseCalled s = true := by
      rw [releaseCalled_iff, calledCount]
      rcases hrule with hp | hfull | ⟨hi, hq⟩
      · obtain ⟨i, hi⟩ := Option.ne_none_iff_exists'.1 hp
        rw [Planner.dueCount_of_some hi]
        omega
      · omega
      · rw [if_pos hi]
        omega
    have hframe := plannerMoment_frame s
    obtain ⟨-, hdwell⟩ := plannerMoment_dwellStopped hw hh hc
    refine ⟨plannerMoment s, hexec, plannerMoment_prefix_of_called hw hh hc hwin, plannerMoment_queue s hroom.le,
      plannerMoment_records s, fun hacts => ?_, ?_, hframe.trimDist, hframe.stream, hframe.link, hframe.governor,
      hframe.port, hframe.keptFreq, hframe.pending⟩
    · obtain ⟨hqueue, hwindow, hpoint⟩ := plannerMoment_released hw hacts
      exact ⟨hqueue, hwindow, hpoint⟩
    · rw [← hdwell]
      exact hframe.executor
  · by_cases hr : s.part.inReset = true
    · exact congrArg _ (unlessReset_of_reset hr _)
    have hexec : exec .release s = .next (plannerMoment s) :=
      congrArg _ (unlessReset_of_running (Bool.eq_false_iff.2 hr) _)
    have hidle : plannerWorks s = false → exec .release s = .next s := fun hw => by
      rw [hexec, plannerMoment_of_notWorking hw]
    have hnot : ¬ ((s.part.state = .parked ∨ s.part.state = .running) ∧ s.part.abortFlag = false) →
        plannerWorks s = false := fun hne => by rwa [← Bool.not_eq_true, plannerWorks_iff]
    rcases h with h | h | h | h | h | ⟨w, rest, hwin, h⟩
    · exact absurd h hr
    · exact hidle (hnot (by simp [h]))
    · exact hidle (hnot (by simp [h]))
    · exact hidle (hnot (by simp [h]))
    · exact hidle (hnot (by simp [h]))
    · rw [hexec, plannerMoment_of_stuck ?_ (.inl (by rw [hwin]; exact List.cons_ne_nil _ _))]
      rcases h with h | h | ⟨hp, hlen, hi⟩
      · exact .inl (by rw [← Bool.not_eq_true, headReleasable_iff]; simp [hwin, h])
      · exact .inl (by rw [← Bool.not_eq_true, headReleasable_iff]; omega)
      · exact .inr (releaseCalled_of_none hp hlen hi)

end Sys2Proof.Machine

/-! # Taking a stream packet: refusals (R2, R3) and TABLE-OPEN (R36) -/

namespace Sys2Proof.Machine

section
variable {k : Byte} {r : Setup} {p : Packet} {rest : List Packet} {s t u v : State}

/-! ## The taking -/

/-- A packet that may be taken is dealt with, and the Planner's moment follows. -/
theorem Takes.deals (h : Takes k r p rest s) (deal : Setup → Packet → State → State) :
    Host.Outcome.next (unlessReset s (Machine.takeAndDeal k deal)) =
      (.next (plannerMoment (deal r p (takeIntake rest s))) : Host.Outcome State Fault Refusal) :=
  congrArg _ ((unlessReset_of_running h.running _).trans (h.takeAndDeal deal))

theorem Takes.plannerWorks (h : Takes k r p rest s) : plannerWorks s = true :=
  (plannerWorks_iff s).2 ⟨h.works, h.noAbort⟩

theorem Takes.window_lt (h : Takes k r p rest s) : s.planner.window.length < 24 := by
  rcases h.room with hw | ⟨hw, -⟩ <;> omega

theorem Takes.takeIntake_link (h : Takes k r p rest s) : (takeIntake rest s).link = s.link.left r rest := by
  show { s.link with intake := rest, pace := paceDown s rest.length } = _
  unfold paceDown LinkReceiver.left
  rw [h.setup]

/-! ## Packets that make no record -/

/-- `u` is `s` as its head packet has been dealt with, `rest` standing behind it, without a record being made: only the
tables and the Report Unit may differ beside the intake queue. -/
structure NoRecord (r : Setup) (rest : List Packet) (s u : State) : Prop where
  link : u.link = s.link.left r rest
  planner : u.planner = s.planner
  executor : u.executor = s.executor
  keptFreq : u.keptFreq = s.keptFreq
  governor : u.governor = s.governor
  port : u.port = s.port
  part : u.part = s.part
  pending : u.pending = s.pending

theorem Takes.noRecord (h : Takes k r p rest s) : NoRecord r rest s (takeIntake rest s) :=
  ⟨h.takeIntake_link, rfl, rfl, rfl, rfl, rfl, rfl, rfl⟩

theorem NoRecord.post (h : NoRecord r rest s u) (a : Response) : NoRecord r rest s (postResponse a u) where
  link := (postResponse_link a u).trans h.link
  planner := (postResponse_planner a u).trans h.planner
  executor := (postResponse_executor a u).trans h.executor
  keptFreq := (postResponse_keptFreq a u).trans h.keptFreq
  governor := (postResponse_governor a u).trans h.governor
  port := (postResponse_port a u).trans h.port
  part := (postResponse_part a u).trans h.part
  pending := (postResponse_pending a u).trans h.pending

theorem NoRecord.setTables (h : NoRecord r rest s u) (tables : TableStore) : NoRecord r rest s (u.setTables tables) :=
  ⟨h.link, h.planner, h.executor, h.keptFreq, h.governor, h.port, h.part, h.pending⟩

theorem NoRecord.records (h : NoRecord r rest s u) : u.records = s.records := by
  rw [State.records, State.records, h.planner, h.executor]

theorem NoRecord.intake (h : NoRecord r rest s u) : u.link.intake = rest := congrArg LinkReceiver.intake h.link

/-- The intake queue, the stream context, the trim distance and the records held, after a packet that makes no record;
where no release rule calls, the whole Planner and the execution queue. -/
structure Stays (r : Setup) (rest : List Packet) (s t : State) : Prop where
  link : t.link = s.link.left r rest
  stream : t.planner.stream = s.planner.stream
  block : t.planner.block = s.planner.block
  prev : t.planner.prev = s.planner.prev
  contour : t.planner.contour = s.planner.contour
  plannedHeading : t.planner.plannedHeading = s.planner.plannedHeading
  trimDist : t.planner.trimDist = s.planner.trimDist
  held : rest ≠ [] ∨ s.planner.actions = [] → t.planner.actions = s.planner.actions ∧ t.records = s.records
  uncalled : s.planner.releasePoint = none →
    rest ≠ [] ∨ (2 ≤ s.executor.queue.length ∧ (s.planner.window ≠ [] ∨ s.planner.actions = [])) →
    t.planner = s.planner ∧ t.executor.queue = s.executor.queue

/-- What stays after a packet that makes no record and raises no fault. -/
structure Unmoved (r : Setup) (rest : List Packet) (s t : State) : Prop extends Stays r rest s t where
  record : t.part.record = s.part.record
  part : rest ≠ [] ∨ s.planner.actions = [] → t.part = s.part
  executor : s.planner.releasePoint = none →
    rest ≠ [] ∨ (2 ≤ s.executor.queue.length ∧ (s.planner.window ≠ [] ∨ s.planner.actions = [])) →
    t.executor = s.executor
  only : PlannerOnly s t

theorem Stays.of_same (hl : t.link = s.link.left r rest) (hp : t.planner = s.planner)
    (hq : t.executor.queue = s.executor.queue) : Stays r rest s t where
  link := hl
  stream := by rw [hp]
  block := by rw [hp]
  prev := by rw [hp]
  contour := by rw [hp]
  plannedHeading := by rw [hp]
  trimDist := by rw [hp]
  held _ := ⟨by rw [hp], by rw [State.records, State.records, hp, hq]⟩
  uncalled _ _ := ⟨hp, hq⟩

/-- Releases leave the Part Controller alone. -/
theorem applyReleases_part (s : State) : (applyReleases s).part = s.part := by
  refine releaseLoop_induct (P := fun t => t.part = s.part) (fun t h _ _ _ => ?_) _ s rfl
  unfold releaseHead
  split
  · exact h
  · exact h

/-- The Planner's moment after a packet that made no record. -/
theorem NoRecord.moment (h : NoRecord r rest s u) (hw : s.planner.window.length < 24) :
    Unmoved r rest s (plannerMoment u) := by
  have hf := plannerMoment_frame u
  have hrules : rest ≠ [] ∨ s.planner.actions = [] → plannerMoment u = applyReleases u := by
    rintro (hi | ha)
    · exact plannerMoment_of_intake (by rwa [h.intake])
    · exact plannerMoment_of_noActions (by rwa [h.planner])
  have hstuck : s.planner.releasePoint = none →
      rest ≠ [] ∨ (2 ≤ s.executor.queue.length ∧ (s.planner.window ≠ [] ∨ s.planner.actions = [])) →
      plannerMoment u = u := fun hp hcond => by
    rw [← h.planner] at hp hw
    refine plannerMoment_of_stuck (.inr (releaseCalled_of_none hp hw ?_)) ?_
    · rw [h.intake, h.executor]
      exact hcond.imp id fun hc => hc.1
    · rw [h.intake, h.planner]
      exact hcond.elim (fun hi => .inr (.inr hi)) fun hc => hc.2.imp id .inl
  exact {
    link := hf.link.trans h.link
    stream := hf.stream.trans (by rw [h.planner])
    block := hf.block.trans (by rw [h.planner])
    prev := hf.prev.trans (by rw [h.planner])
    contour := hf.contour.trans (by rw [h.planner])
    plannedHeading := hf.plannedHeading.trans (by rw [h.planner])
    trimDist := hf.trimDist.trans (by rw [h.planner])
    held := fun hc => by
      rw [hrules hc, applyReleases_actions, applyReleases_records, h.planner, h.records]
      exact ⟨rfl, rfl⟩
    uncalled := fun hp hc => by
      rw [hstuck hp hc, h.planner, h.executor]
      exact ⟨rfl, rfl⟩
    record := hf.record.trans (by rw [h.part])
    part := fun hc => by rw [hrules hc, applyReleases_part, h.part]
    executor := fun hp hc => by rw [hstuck hp hc, h.executor]
    only := PlannerOnly.trans (t := u) ⟨h.keptFreq, h.governor, h.port, h.pending, by rw [h.part], by rw [h.executor]⟩
      hf.only }

/-! ## Refusals -/

/-- Outside a contour a refusal is its response. -/
theorem refusePacket_outside (h : u.planner.stream ≠ .inContour) (p : Packet) (reason : Reason) (data : List Byte) :
    refusePacket p reason data u = postResponse ⟨p.kind, p.tag, .refused reason, data⟩ u :=
  if_neg h

/-- Inside one it is the fault PROGRAM besides (R3). -/
theorem refusePacket_inside (h : u.planner.stream = .inContour) (p : Packet) (reason : Reason) (data : List Byte) :
    refusePacket p reason data u =
      raiseFault .program (postResponse ⟨p.kind, p.tag, .refused reason, data⟩ u) :=
  if_pos h

/-- The fault that a refusal raised in a contour stays, and the response is posted where it finds a place. -/
structure Faulted (r : Setup) (p : Packet) (rest : List Packet) (reason : Reason) (data : List Byte) (s t : State) :
    Prop extends Stays r rest s t where
  place : s.report.responses.length < 16 →
    t.report.responses = s.report.responses ++ [.held ⟨p.kind, p.tag, .refused reason, data⟩]
  full : s.report.responses.length = 16 → t.report.responses = s.report.responses ∧
    t.report.events.link = true ∧ t.report.events.linkReason = some .responseFull
  state : t.part.state = .fault
  record : t.part.record =
    { cause := some .program, tag := s.executor.currentTag, position := s.executor.position, further := 0 }
  planner : t.planner = s.planner
  queue : t.executor.queue = s.executor.queue
  governor : t.governor = s.governor
  keptFreq : t.keptFreq = s.keptFreq
  pending : t.pending = s.pending

/-- Raising a fault leaves the LINK event alone. -/
theorem raiseFault_linkEvent (c : FaultCode) (s : State) :
    (raiseFault c s).report.events.link = s.report.events.link ∧
      (raiseFault c s).report.events.linkReason = s.report.events.linkReason := by
  unfold raiseFault
  split <;> exact ⟨rfl, rfl⟩

/-- A packet refused in a contour, its response waiting or lost, makes the part FAULT, and nothing is released. -/
theorem Takes.refused_inside (h : Takes k r p rest s) (hu : NoRecord r rest s u) (hrep : u.report = s.report)
    (hc : s.planner.stream = .inContour) (reason : Reason) (data : List Byte) :
    plannerMoment (refusePacket p reason data u) = refusePacket p reason data u ∧
      Faulted r p rest reason data s (refusePacket p reason data u) := by
  rw [refusePacket_inside (by rw [hu.planner, hc])]
  have hpost := hu.post ⟨p.kind, p.tag, .refused reason, data⟩
  have hpart := raiseFault_part_of_working (c := .program)
    (s := postResponse ⟨p.kind, p.tag, .refused reason, data⟩ u)
    (by rw [hpost.part]; exact h.works.imp id .inl)
  have hplanner := (raiseFault_planner .program _).trans hpost.planner
  have hqueue := (raiseFault_queue .program _).trans (congrArg Executor.queue hpost.executor)
  refine ⟨plannerMoment_of_notWorking ?_, ?_⟩
  · rw [← Bool.not_eq_true, plannerWorks_iff, hpart]
    simp
  · exact {
      toStays := .of_same ((raiseFault_link _ _).trans hpost.link) hplanner hqueue
      place := fun hlt => by
        rw [raiseFault_responses, postResponse_of_lt (by rwa [hrep]), ← hrep]
        rfl
      full := fun heq => by
        rw [raiseFault_responses, (raiseFault_linkEvent _ _).1, (raiseFault_linkEvent _ _).2,
          postResponse_of_full (by rwa [hrep]), ← hrep]
        exact ⟨rfl, rfl, rfl⟩
      state := by rw [hpart]
      record := by rw [hpart, hpost.executor]
      planner := hplanner
      queue := hqueue
      governor := (raiseFault_governor _ _).trans hpost.governor
      keptFreq := (raiseFault_keptFreq _ _).trans hpost.keptFreq
      pending := (raiseFault_pending _ _).trans hpost.pending }

/-- A packet refused outside a contour is answered, and no more than released behind. -/
theorem Takes.refused_outside (h : Takes k r p rest s) (hu : NoRecord r rest s u) (hrep : u.report = s.report)
    (hc : s.planner.stream ≠ .inContour) (reason : Reason) (data : List Byte) :
    Unmoved r rest s (plannerMoment (refusePacket p reason data u)) ∧
      (plannerMoment (refusePacket p reason data u)).tables = u.tables ∧
      (s.report.responses.length < 16 → (plannerMoment (refusePacket p reason data u)).report = { s.report with
        responses := s.report.responses ++ [.held ⟨p.kind, p.tag, .refused reason, data⟩] }) := by
  rw [refusePacket_outside (by rw [hu.planner]; exact hc)]
  have hf := plannerMoment_frame (postResponse ⟨p.kind, p.tag, .refused reason, data⟩ u)
  refine ⟨(hu.post _).moment h.window_lt, hf.tables.trans (postResponse_tables _ _), fun hlt => ?_⟩
  rw [hf.report, postResponse_of_lt (by rwa [hrep]), ← hrep]
  rfl

/-- A refusal answers, wherever it is given, and leaves the tables to the packet. -/
theorem Takes.refused (h : Takes k r p rest s) (hu : NoRecord r rest s u) (hrep : u.report = s.report)
    (reason : Reason) (data : List Byte) :
    Stays r rest s (plannerMoment (refusePacket p reason data u)) ∧
      (plannerMoment (refusePacket p reason data u)).tables = u.tables ∧
      (s.report.responses.length < 16 → (plannerMoment (refusePacket p reason data u)).report.responses =
        s.report.responses ++ [.held ⟨p.kind, p.tag, .refused reason, data⟩]) := by
  by_cases hc : s.planner.stream = .inContour
  · obtain ⟨hstill, hfault⟩ := h.refused_inside hu hrep hc reason data
    rw [hstill]
    exact ⟨hfault.toStays, refusePacket_tables p reason data u, hfault.place⟩
  · obtain ⟨hunmoved, htables, hreport⟩ := h.refused_outside hu hrep hc reason data
    exact ⟨hunmoved.toStays, htables, fun hlt => by rw [hreport hlt]⟩

/-! ## The packets that a check of their own refuses -/

/-- A BLOCK is refused with SEQUENCE where a block is open. -/
theorem dealBlock_of_open (h : u.planner.stream ≠ .noBlock) (r : Setup) (p : Packet) :
    dealBlock r p u = refusePacket p .sequence [] u := by
  simp only [dealBlock, blockRefusal, h, ne_eq, not_false_eq_true, if_true]

theorem dealContour_of_outside (h : u.planner.stream ≠ .inBlock) (r : Setup) (p : Packet) :
    dealContour r p u = .ok (refusePacket p .sequence [] u) := by
  unfold dealContour
  split
  · next hs _ => exact absurd hs h
  · rfl

theorem withinTravel_iff (r : Setup) (x y : Int) :
    withinTravel r x y = true ↔ 0 ≤ x ∧ x ≤ r.xMax ∧ 0 ≤ y ∧ y ≤ r.yMax := by
  simp [withinTravel, withinInt, and_assoc]

theorem dealContour_of_limit {b : PlannedBlock} (hs : u.planner.stream = .inBlock) (hb : u.planner.block = some b)
    (hw : withinTravel r (machineX b p) (machineY b p) = false) :
    dealContour r p u = .ok (refusePacket p .limit [] u) := by
  simp only [dealContour, hs, hb, hw, Bool.not_false, if_true]

theorem dealCut_of_outside (h : u.planner.stream ≠ .inContour) (r : Setup) (p : Packet) :
    dealCut r p u = .ok (refusePacket p .sequence [] u) := by
  unfold dealCut
  split
  · next hs _ _ _ => exact absurd hs h
  · rfl

theorem dealCut_of_limit {b : PlannedBlock} {q : Int × Int} {c : ContourRecord} (hs : u.planner.stream = .inContour)
    (hb : u.planner.block = some b) (hq : u.planner.prev = some q) (hc : u.planner.contour = some c)
    (hw : withinTravel r (machineX b p) (machineY b p) = false) :
    dealCut r p u = .ok (refusePacket p .limit [] u) := by
  simp only [dealCut, hs, hb, hq, hc, hw, Bool.not_false, if_true]

theorem dealClose_of_outside (h : u.planner.stream ≠ .inContour) (r : Setup) (p : Packet) :
    dealClose r p u = .ok (refusePacket p .sequence [] u) := by
  unfold dealClose
  split
  · next hs _ => exact absurd hs h
  · rfl

theorem dealBlockEnd_of_outside (h : u.planner.stream ≠ .inBlock) (r : Setup) (p : Packet) :
    dealBlockEnd r p u = refusePacket p .sequence [] u := by
  unfold dealBlockEnd
  split
  · next hs _ => exact absurd hs h
  · rfl

theorem dealTableOpen_of_open (h : u.tables.load ≠ none) (r : Setup) (p : Packet) :
    dealTableOpen r p u = refusePacket p .loadOpen [] u := by
  obtain ⟨load, hl⟩ := Option.ne_none_iff_exists'.1 h
  simp only [dealTableOpen, hl]

theorem tableOpen_id {id : Byte} (hp : p.payload = [id]) : BitVec.ofNat 8 (fieldU p.payload 0 1) = id := by
  simp [hp, fieldU, beNat]

theorem dealTableOpen_of_table {id : Byte} {staged : Staged} (h : u.tables.load = none) (hp : p.payload = [id])
    (hid : stagingFor id = some staged) (r : Setup) :
    dealTableOpen r p u = u.setTables { u.tables with load := some { staged := staged, failure := none } } := by
  simp only [dealTableOpen, h, tableOpen_id hp, hid]

theorem dealTableOpen_of_range {id : Byte} (h : u.tables.load = none) (hp : p.payload = [id])
    (hid : stagingFor id = none) (r : Setup) : dealTableOpen r p u = refusePacket p .range [] u := by
  simp only [dealTableOpen, h, tableOpen_id hp, hid]

theorem stagingFor_of_none {id : Byte} (h1 : id ≠ 1) (h2 : id ≠ 2) (h3 : id ≠ 3) : stagingFor id = none := by
  rw [stagingFor, if_neg (show ¬ id = tableDensity from h1), if_neg (show ¬ id = tableZone from h2),
    if_neg (show ¬ id = tableBlade from h3)]

theorem dealTableData_of_none (h : u.tables.load = none) (r : Setup) (p : Packet) :
    dealTableData r p u = refusePacket p .noLoad [] u := by
  simp only [dealTableData, h]

theorem dealTableClose_of_none (h : u.tables.load = none) (r : Setup) (p : Packet) :
    dealTableClose r p u = refusePacket p .noLoad [] u := by
  simp only [dealTableClose, h]

end

/-! ## The obligations -/

/-- Settles O15: each case of the lists is refused with its reason, and what a refusal does goes by the stream state
alone. -/
theorem refusalInContourIsProgramFault : Obligations.RefusalInContourIsProgramFault := by
  unfold Obligations.RefusalInContourIsProgramFault
  refine ⟨fun r p rest s c kind reason h hs hcase => ?_, fun r p rest s c kind reason h hs hroom hcase => ?_⟩
  · have hexec : exec c s = .next (plannerMoment (refusePacket p reason [] (takeIntake rest s))) := by
      rcases hcase with ⟨rfl, rfl, rfl⟩ | ⟨rfl, rfl, rfl⟩ | ⟨rfl, rfl, rfl⟩ | ⟨rfl, rfl, rfl, hcut⟩ |
        ⟨rfl, rfl, rfl, hl⟩ | ⟨rfl, rfl, rfl, hl, id, hp, h1, h2, h3⟩ | ⟨rfl, rfl, rfl, hl⟩ | ⟨rfl, rfl, rfl, hl⟩
      · refine (h.deals dealBlock).trans ?_
        rw [dealBlock_of_open (u := takeIntake rest s) (by simp [hs])]
      · exact h.takeAndTry (dealContour_of_outside (u := takeIntake rest s) (by simp [hs]) r p)
      · refine (h.deals dealBlockEnd).trans ?_
        rw [dealBlockEnd_of_outside (u := takeIntake rest s) (by simp [hs])]
      · obtain ⟨x, y, feed, b, q, pt, hx, hx', hy, hy', -, hp, hb, hq, hpt, hout⟩ := hcut
        obtain ⟨hpx, hpy⟩ := point_fields hp ⟨hx, hx'⟩ ⟨hy, hy'⟩
        refine h.takeAndTry (dealCut_of_limit (u := takeIntake rest s) hs hb hpt hq ?_)
        rw [← Bool.not_eq_true, withinTravel_iff, machineX, machineY, hpx, hpy]
        exact hout
      · refine (h.deals dealTableOpen).trans ?_
        rw [dealTableOpen_of_open (u := takeIntake rest s) hl]
      · refine (h.deals dealTableOpen).trans ?_
        rw [dealTableOpen_of_range (u := takeIntake rest s) hl hp (stagingFor_of_none h1 h2 h3)]
      · refine (h.deals dealTableData).trans ?_
        rw [dealTableData_of_none (u := takeIntake rest s) hl]
      · refine (h.deals dealTableClose).trans ?_
        rw [dealTableClose_of_none (u := takeIntake rest s) hl]
    obtain ⟨hstill, hfault⟩ := h.refused_inside h.noRecord rfl hs reason []
    rw [hstill] at hexec
    refine ⟨_, hexec, ?_, hfault.full, hfault.state, hfault.record, hfault.planner, refusePacket_tables _ _ _ _,
      hfault.queue, hfault.link, hfault.governor, hfault.keptFreq, hfault.pending⟩
    rw [← h.kind]
    exact hfault.place
  · have hexec : exec c s = .next (plannerMoment (refusePacket p reason [] (takeIntake rest s))) := by
      rcases hcase with ⟨rfl, rfl, rfl, hn⟩ | ⟨rfl, rfl, rfl, hi, x, y, b, hx, hx', hy, hy', hp, hb, hout⟩ |
        ⟨rfl, rfl, rfl⟩ | ⟨rfl, rfl, rfl⟩ | ⟨rfl, rfl, rfl, hn⟩ | ⟨rfl, rfl, rfl, hl⟩ | ⟨rfl, rfl, rfl, hl⟩
      · exact h.takeAndTry (dealContour_of_outside (u := takeIntake rest s) (by simp [hn]) r p)
      · obtain ⟨hpx, hpy⟩ := point_fields (post := []) (by simpa using hp) ⟨hx, hx'⟩ ⟨hy, hy'⟩
        refine h.takeAndTry (dealContour_of_limit (u := takeIntake rest s) hi hb ?_)
        rw [← Bool.not_eq_true, withinTravel_iff, machineX, machineY, hpx, hpy]
        exact hout
      · exact h.takeAndTry (dealCut_of_outside (u := takeIntake rest s) hs r p)
      · exact h.takeAndTry (dealClose_of_outside (u := takeIntake rest s) hs r p)
      · refine (h.deals dealBlockEnd).trans ?_
        rw [dealBlockEnd_of_outside (u := takeIntake rest s) (by simp [hn])]
      · refine (h.deals dealTableData).trans ?_
        rw [dealTableData_of_none (u := takeIntake rest s) hl]
      · refine (h.deals dealTableClose).trans ?_
        rw [dealTableClose_of_none (u := takeIntake rest s) hl]
    obtain ⟨ht, htables, hreport⟩ := h.refused_outside h.noRecord rfl hs reason []
    refine ⟨_, hexec, ?_, ht.stream, ht.block, ht.prev, ht.contour, ht.plannedHeading, ht.trimDist, htables, ht.link,
      ht.record, fun hc => ⟨(ht.held hc).1, (ht.held hc).2, ht.part hc⟩,
      fun hp hc => ⟨(ht.uncalled hp hc).1, ht.executor hp hc⟩, ht.only⟩
    rw [hreport hroom, h.kind]

/-- The load that a TABLE-OPEN of a table opens (R36). -/
theorem Takes.tableOpen_opens {r : Setup} {p : Packet} {rest : List Packet} {s : State} {id : Byte} {staged : Staged}
    (h : Takes 0x08 r p rest s) (hp : p.payload = [id]) (hl : s.tables.load = none)
    (hid : stagingFor id = some staged) :
    exec .tableOpen s = .next (plannerMoment ((takeIntake rest s).setTables
      { s.tables with load := some { staged := staged, failure := none } })) := by
  refine (h.deals dealTableOpen).trans ?_
  rw [dealTableOpen_of_table (u := takeIntake rest s) hl hp hid]
  rfl

/-- Settles O24, by whether a load is open and whether the id names a table. -/
theorem tableOpenOpensALoad : Obligations.TableOpenOpensALoad := by
  unfold Obligations.TableOpenOpensALoad
  intro r p rest s id h hp
  by_cases hl : s.tables.load = none
  · cases hid : stagingFor id with
    | some staged =>
      have ht := (h.noRecord.setTables { s.tables with load := some ⟨staged, none⟩ }).moment h.window_lt
      have hf := plannerMoment_frame
        ((takeIntake rest s).setTables { s.tables with load := some ⟨staged, none⟩ })
      have htables := hf.tables
      have hopens : ∀ {n : Byte} {st : Staged}, stagingFor n = some st → id = n →
          (plannerMoment ((takeIntake rest s).setTables
            { s.tables with load := some ⟨staged, none⟩ })).tables.load = some ⟨st, none⟩ := by
        rintro n st hn rfl
        rw [htables]
        rw [hn] at hid
        cases hid
        rfl
      refine ⟨_, h.tableOpen_opens hp hl hid, ht.link, (congrArg TableStore.density htables :),
        (congrArg TableStore.zone htables :), (congrArg TableStore.blade htables :),
        (congrArg TableStore.waiting htables :).trans h.noStall, ht.stream, ht.trimDist, ht.block, ht.prev, ht.contour,
        ht.plannedHeading, ht.held, ht.uncalled, fun _ h1 => ⟨hopens rfl h1, hf.report, ht.only⟩,
        fun _ h2 => ⟨hopens rfl h2, hf.report, ht.only⟩, fun _ h3 => ⟨hopens rfl h3, hf.report, ht.only⟩,
        fun _ h1 h2 h3 => ?_, fun load hload => ?_⟩
      · rw [stagingFor_of_none h1 h2 h3] at hid
        cases hid
      · rw [hl] at hload
        cases hload
    | none =>
      have hexec : exec .tableOpen s = .next (plannerMoment (refusePacket p .range [] (takeIntake rest s))) := by
        refine (h.deals dealTableOpen).trans ?_
        rw [dealTableOpen_of_range (u := takeIntake rest s) hl hp hid]
      obtain ⟨ht, htables, hresp⟩ := h.refused h.noRecord rfl .range []
      have hnames : ∀ {n : Byte} {P : Prop}, (∃ st, stagingFor n = some st) → id = n → P := by
        rintro n P ⟨st, hst⟩ rfl
        rw [hst] at hid
        cases hid
      refine ⟨_, hexec, ht.link, (congrArg TableStore.density htables :),
        (congrArg TableStore.zone htables :), (congrArg TableStore.blade htables :),
        (congrArg TableStore.waiting htables :).trans h.noStall, ht.stream, ht.trimDist, ht.block, ht.prev, ht.contour,
        ht.plannedHeading, ht.held, ht.uncalled, fun _ => hnames ⟨_, rfl⟩, fun _ => hnames ⟨_, rfl⟩,
        fun _ => hnames ⟨_, rfl⟩, fun _ _ _ _ => ⟨(congrArg TableStore.load htables).trans hl, ?_⟩,
        fun load hload => ?_⟩
      · rw [← h.kind]
        exact hresp
      · rw [hl] at hload
        cases hload
  · have hexec : exec .tableOpen s = .next (plannerMoment (refusePacket p .loadOpen [] (takeIntake rest s))) := by
      refine (h.deals dealTableOpen).trans ?_
      rw [dealTableOpen_of_open (u := takeIntake rest s) hl]
    obtain ⟨ht, htables, hresp⟩ := h.refused h.noRecord rfl .loadOpen []
    refine ⟨_, hexec, ht.link, (congrArg TableStore.density htables :),
      (congrArg TableStore.zone htables :), (congrArg TableStore.blade htables :),
      (congrArg TableStore.waiting htables :).trans h.noStall, ht.stream, ht.trimDist, ht.block, ht.prev, ht.contour,
      ht.plannedHeading, ht.held, ht.uncalled, fun hn => absurd hn hl, fun hn => absurd hn hl,
      fun hn => absurd hn hl, fun hn => absurd hn hl,
      fun load hload => ⟨(congrArg TableStore.load htables).trans hload, ?_⟩⟩
    rw [← h.kind]
    exact hresp

end Sys2Proof.Machine

/-! # BLOCK, CONTOUR, MARK and AUX, and a CUT of length 0 (R2, R5, R8, R9, R16 to R19) -/

namespace Sys2Proof.Machine

section
variable {k : Byte} {r : Setup} {p : Packet} {rest : List Packet} {s t u : State}

/-! ## Packets that make a record -/

/-- The Planner has dealt with the head packet of `s`, `rest` standing behind it, and neither refused it nor touched the
tables: links, tables and responses are those after the taking, and the other blocks see no more than `PlannerOnly`. -/
structure Handled (r : Setup) (rest : List Packet) (s u : State) : Prop where
  link : u.link = s.link.left r rest
  tables : u.tables = s.tables
  report : u.report = s.report
  only : PlannerOnly s u

theorem Takes.handled (h : Takes k r p rest s) : Handled r rest s (takeIntake rest s) :=
  ⟨h.takeIntake_link, rfl, rfl, takeIntake_only rest s⟩

theorem Handled.frame (h : Handled r rest s u) (hf : PlanFrame u t) : Handled r rest s t :=
  ⟨hf.link.trans h.link, hf.tables.trans h.tables, hf.report.trans h.report, h.only.trans hf.only⟩

theorem Handled.setPlanner (h : Handled r rest s u) (q : Planner) : Handled r rest s (u.setPlanner q) :=
  ⟨h.link, h.tables, h.report, h.only.trans (setPlanner_only u q)⟩

theorem Handled.moment (h : Handled r rest s u) : Handled r rest s (plannerMoment u) := h.frame (plannerMoment_frame u)

theorem PlanFrame.works (h : PlanFrame s t) (hw : plannerWorks s = true) : plannerWorks t = true := by
  rw [plannerWorks_iff] at hw ⊢
  obtain ⟨hstate, habort⟩ := hw
  refine ⟨?_, h.abortFlag.trans habort⟩
  rcases h.state with he | ⟨-, he⟩
  · rwa [he]
  · exact .inr he

/-! ## BLOCK -/

/-- A part at work is RUNNING once a block is open (R145). -/
theorem runPart_state (h : s.part.state = .parked ∨ s.part.state = .running) :
    (runPart s).part.state = .running := by
  unfold runPart
  split
  · rfl
  · next hne => exact h.resolve_left hne

theorem runPart_frame (s : State) : PlanFrame s (runPart s) := by
  unfold runPart
  split
  · next h => constructor <;> simp [h]
  · exact .rfl' s

theorem runPart_planner (s : State) : (runPart s).planner = s.planner := by
  unfold runPart
  split <;> rfl

theorem runPart_executor (s : State) : (runPart s).executor = s.executor := by
  unfold runPart
  split <;> rfl

/-- The origin and the foam height of a BLOCK are in the ranges of Table 1.1. -/
def blockInRange (height : Nat) (ox oy : Int) : Prop :=
  10000 ≤ height ∧ height ≤ 600000 ∧ -4000000 ≤ ox ∧ ox ≤ 4000000 ∧ -4000000 ≤ oy ∧ oy ≤ 4000000

theorem within_iff (lo hi n : Nat) : within lo hi n = true ↔ lo ≤ n ∧ n ≤ hi := by simp [within]

theorem withinInt_iff (lo hi n : Int) : withinInt lo hi n = true ↔ lo ≤ n ∧ n ≤ hi := by simp [withinInt]

theorem blockRange_iff (p : Packet) :
    (within 10000 600000 (blockHeight p) && withinInt (-coordMax) coordMax (blockOx p) &&
      withinInt (-coordMax) coordMax (blockOy p)) = true ↔ blockInRange (blockHeight p) (blockOx p) (blockOy p) := by
  rw [Bool.and_eq_true, Bool.and_eq_true, within_iff, withinInt_iff, withinInt_iff, and_assoc, and_assoc, and_assoc]
  exact Iff.rfl

/-- The tables that a BLOCK needs are present (R33). -/
theorem blockTables_iff (t : TableStore) :
    (t.density.isEmpty || !zonePresent t.zone || t.blade.isNone) = true ↔
      t.density = [] ∨ zonePresent t.zone = false ∨ t.blade = none := by
  simp [or_assoc]

/-- The checks of R2, R5 and R33 on a BLOCK, one after another. -/
theorem blockRefusal_of_range (hs : u.planner.stream = .noBlock)
    (hr : ¬ blockInRange (blockHeight p) (blockOx p) (blockOy p)) : blockRefusal r p u = some .range := by
  rw [← blockRange_iff, Bool.not_eq_true] at hr
  simp [blockRefusal, hs, hr]

theorem blockRefusal_of_noTable (hs : u.planner.stream = .noBlock)
    (hr : blockInRange (blockHeight p) (blockOx p) (blockOy p))
    (ht : u.tables.density = [] ∨ zonePresent u.tables.zone = false ∨ u.tables.blade = none) :
    blockRefusal r p u = some .noTable := by
  rw [← blockRange_iff] at hr
  rw [← blockTables_iff] at ht
  simp only [blockRefusal, hs, hr, ht, ne_eq, not_true_eq_false, if_false, Bool.not_true, if_true,
    Bool.false_eq_true]

theorem blockRefusal_of_present (hs : u.planner.stream = .noBlock)
    (hr : blockInRange (blockHeight p) (blockOx p) (blockOy p))
    (ht : ¬ (u.tables.density = [] ∨ zonePresent u.tables.zone = false ∨ u.tables.blade = none)) :
    blockRefusal r p u = if r.zMax < blockClear r p then some .limit else none := by
  rw [← blockRange_iff] at hr
  rw [← blockTables_iff] at ht
  simp only [blockRefusal, hs, hr, ht, ne_eq, not_true_eq_false, if_false, Bool.not_true, Bool.false_eq_true]

theorem dealBlock_of_refused {reason : Reason} (h : blockRefusal r p u = some reason) :
    dealBlock r p u = refusePacket p reason [] u := by
  simp only [dealBlock, h]

theorem dealBlock_of_ok (h : blockRefusal r p u = none) : dealBlock r p u = openBlock r p u := by
  simp only [dealBlock, h]

end

/-- Settles O9: an accepted BLOCK is `openBlock`, and a refused one is answered outside a contour. -/
theorem blockIsJudged : Obligations.BlockIsJudged := by
  unfold Obligations.BlockIsJudged
  refine ⟨fun r p rest s height ox oy dry h hp hheight hox hoy hs hd hz hb hlim => ?_,
    fun r p rest s height ox oy dry reason h hheight hox hoy hp hroom hs hcase => ?_⟩
  · obtain ⟨h1, h2, h3, h4⟩ := block_fields hp (by omega) ⟨by omega, by omega⟩ ⟨by omega, by omega⟩
    have hrefusal : blockRefusal r p (takeIntake rest s) = none := by
      rw [blockRefusal_of_present (u := takeIntake rest s) hs (by rw [h1, h2, h3]; exact ⟨hheight.1, hheight.2, hox.1,
        hox.2, hoy⟩) (by simp [hd, hz, hb]), if_neg]
      rw [blockClear, blockTop, h1]
      omega
    let made := makeRecord p.tag (.blockStart (blockTop r p) (blockClear r p) (blockDry p) p.tag) 0 false
      (takeIntake rest s)
    have hmade : PlanFrame (takeIntake rest s) made := makeRecord_frame _ _ _ _ _
    have hworks := (plannerWorks_iff _).1 (hmade.works h.plannerWorks)
    have hactions : made.planner.actions = [] := makeRecord_actions _ _ _ _ _
    have hrun := hmade.trans (runPart_frame made)
    have hopen : plannerMoment (openBlock r p (takeIntake rest s)) =
        applyReleases (openBlock r p (takeIntake rest s)) :=
      plannerMoment_of_noActions (by
        show (runPart made).planner.actions = []
        rw [runPart_planner, hactions])
    have hf := applyReleases_frame (openBlock r p (takeIntake rest s))
    have hhandled := ((h.handled.frame hrun).setPlanner
      { (runPart made).planner with stream := .inBlock, block := some (blockGeometry r p) }).frame hf
    refine ⟨_, (h.deals dealBlock).trans (by rw [dealBlock_of_ok hrefusal, hopen]), hf.stream, hf.block.trans ?_, ?_,
      ?_, ?_, hhandled.link, hhandled.tables, hhandled.report, hf.prev.trans hrun.prev, hf.contour.trans hrun.contour,
      hf.plannedHeading.trans hrun.plannedHeading, hf.trimDist.trans hrun.trimDist, hhandled.only⟩
    · show some (blockGeometry r p) = _
      rw [blockGeometry, blockClear, blockTop, h1, h2, h3, h4]
    · rw [applyReleases_actions]
      show (runPart made).planner.actions = []
      rw [runPart_planner, hactions]
    · rw [applyReleases_part]
      exact runPart_state hworks.1
    · rw [applyReleases_records]
      show (runPart made).executor.queue ++ (runPart made).planner.window.map _ = _
      rw [runPart_planner, runPart_executor]
      refine (makeRecord_records rfl).trans ?_
      rw [blockClear, blockTop, h1, h4]
      rfl
  · obtain ⟨h1, h2, h3, -⟩ := block_fields hp hheight hox hoy
    have hdeal : dealBlock r p (takeIntake rest s) = refusePacket p reason [] (takeIntake rest s) := by
      rcases hcase with ⟨rfl, hi⟩ | ⟨hn, ⟨rfl, hr⟩ | ⟨hr, ⟨rfl, ht⟩ | ⟨rfl, hd, hz, hb, hlim⟩⟩⟩
      · exact dealBlock_of_open (by simp [hi]) r p
      · exact dealBlock_of_refused (blockRefusal_of_range hn (by rw [h1, h2, h3]; exact hr))
      · exact dealBlock_of_refused (blockRefusal_of_noTable hn (by rw [h1, h2, h3]; exact hr) ht)
      · refine dealBlock_of_refused ?_
        rw [blockRefusal_of_present (u := takeIntake rest s) hn (by rw [h1, h2, h3]; exact hr) (by simp [hd, hz, hb]),
          if_pos]
        rw [blockClear, blockTop, h1]
        exact hlim
    obtain ⟨ht, htables, hreport⟩ := h.refused_outside h.noRecord rfl hs reason []
    refine ⟨_, (h.deals dealBlock).trans (by rw [hdeal]), ?_, ht.stream, ht.block, ht.prev, ht.contour,
      ht.plannedHeading, ht.trimDist, ht.link, htables, ht.record,
      fun hc => ⟨(ht.held hc).1, (ht.held hc).2, ht.part hc⟩,
      fun hp hc => ⟨(ht.uncalled hp hc).1, ht.executor hp hc⟩, ht.only⟩
    rw [hreport hroom, h.kind]

/-! ## A CUT of length 0 -/

/-- Settles O12: the packet makes no record. -/
theorem zeroLengthCutIsDiscarded : Obligations.ZeroLengthCutIsDiscarded := by
  unfold Obligations.ZeroLengthCutIsDiscarded
  intro r p rest s x y feed b k h hx hy hfeed hp hs hb hprev hk hxin hyin
  obtain ⟨hpx, hpy⟩ := point_fields hp hx hy
  have hwithin : withinTravel r (machineX b p) (machineY b p) = true := by
    rw [withinTravel_iff, machineX, machineY, hpx, hpy]
    exact ⟨hxin.1, hxin.2, hyin⟩
  have hdeal : dealCut r p (takeIntake rest s) = .ok (takeIntake rest s) := by
    simp only [dealCut, takeIntake_planner, hs, hb, hprev, hk, hwithin, Bool.not_true, Bool.false_eq_true, if_false]
    rw [if_pos]
    rw [machineX, machineY, hpx, hpy]
    exact ⟨rfl, rfl⟩
  have ht := h.noRecord.moment h.window_lt
  have hf := plannerMoment_frame (takeIntake rest s)
  exact ⟨_, h.takeAndTry hdeal, ht.stream.trans hs, ht.block, ht.prev, ht.contour, ht.plannedHeading, ht.trimDist,
    ht.record, hf.report, ht.link, hf.tables, ht.held, ht.only⟩

/-! ## MARK and AUX -/

section
variable {k : Byte} {r : Setup} {p : Packet} {rest : List Packet} {s t u : State}

theorem lastTag_append (as : List Machine.Action) (a : Machine.Action) : lastTag (as ++ [a]) = a.tag := by
  rw [lastTag_eq]
  simp

/-- The pending actions once `a` has joined them (R16, R18). -/
def heldActions (a : Machine.Action) (as : List Machine.Action) : List Machine.Action :=
  if as.length = 4 then [a] else as ++ [a]

/-- The records once `a` has joined the pending actions: a full list became an ACTIONS record first (R18). -/
def recordsWithFull (s : State) : List Record :=
  s.records ++ (if s.planner.actions.length = 4 then
    [⟨(s.planner.actions.getLast?.map Machine.Action.tag).getD 0, s.planner.actions, .actions⟩] else [])

theorem lastTag_heldActions (a : Machine.Action) (as : List Machine.Action) :
    lastTag (heldActions a as) = a.tag := by
  unfold heldActions
  split
  · rfl
  · exact lastTag_append as a

theorem heldActions_ne_nil (a : Machine.Action) (as : List Machine.Action) : heldActions a as ≠ [] := by
  unfold heldActions
  split <;> simp

/-- An action joins the pending list, a full one having become an ACTIONS record. -/
theorem addAction_spec (a : Machine.Action) (h : u.planner.actions.length ≤ 4) :
    PlanFrame u (addAction a u) ∧ (addAction a u).planner.actions = heldActions a u.planner.actions ∧
      (addAction a u).records = recordsWithFull u := by
  have hcap : Config.actionCap = 4 := rfl
  have hjoin : ∀ v : State, PlanFrame v (joinAction a v) := fun v => setActions_frame v _
  unfold addAction heldActions recordsWithFull
  by_cases hfull : u.planner.actions.length = 4
  · rw [if_pos (by rw [hcap, hfull]), if_pos hfull, if_pos hfull, ← lastTag_eq]
    refine ⟨(makeActions_frame u).trans (hjoin _), ?_, makeActions_records u⟩
    show (makeActions u).planner.actions ++ [a] = [a]
    rw [makeActions_actions]
    rfl
  · rw [if_neg (by rw [hcap]; omega), if_neg hfull, if_neg hfull, List.append_nil]
    exact ⟨hjoin u, rfl, rfl⟩

/-- The Planner's moment with actions pending: they stay pending, or they become an ACTIONS record behind all others
(R19). -/
theorem plannerMoment_pending (hw : plannerWorks u = true) (ha : u.planner.actions ≠ []) :
    ((plannerMoment u).planner.actions = u.planner.actions ∧ (plannerMoment u).records = u.records ∧
      (u.link.intake ≠ [] ∨ (plannerMoment u).planner.window ≠ [])) ∨
    (u.link.intake = [] ∧ (plannerMoment u).planner.actions = [] ∧
      (plannerMoment u).records = u.records ++ [⟨lastTag u.planner.actions, u.planner.actions, .actions⟩] ∧
      u.records <+: (plannerMoment u).executor.queue) := by
  have hf := applyReleases_frame u
  unfold plannerMoment
  dsimp only
  split
  · next hdue =>
    obtain ⟨-, hi, -, hwin⟩ := (actionsDue_iff _).1 hdue
    rw [hf.link] at hi
    refine .inr ⟨hi, ?_, ?_, ?_⟩
    · rw [applyReleases_actions, makeActions_actions]
    · rw [applyReleases_records, makeActions_records, applyReleases_records, applyReleases_actions]
    · have hqueue : u.records = (applyReleases u).executor.queue := by
        rw [← applyReleases_records u, State.records, hwin, List.map_nil, List.append_nil]
      rw [hqueue]
      exact (makeActions_prefix _).trans (applyReleases_prefix _)
  · next hdue =>
    rw [actionsDue_iff, hf.link, applyReleases_actions] at hdue
    refine .inl ⟨applyReleases_actions u, applyReleases_records u, ?_⟩
    by_contra hnone
    rw [not_or, not_not, not_not] at hnone
    exact hdue ⟨hf.works hw, hnone.1, ha, hnone.2⟩

/-- The action of an AUX, as its payload spells it (Table 12.2). -/
theorem auxAction_eq {mask values : Byte} (hp : p.payload = [mask, values]) :
    auxAction p = .aux p.tag mask values := by
  simp [auxAction, hp, fieldU, beNat]

end

/-- Settles O14: `addAction` joins the action, and the moment behind it makes the record of R19, if any. -/
theorem markAndAuxArePending : Obligations.MarkAndAuxArePending := by
  unfold Obligations.MarkAndAuxArePending
  intro r p rest s c kind a h hlen hcase
  have hexec : exec c s = .next (plannerMoment (addAction a (takeIntake rest s))) := by
    rcases hcase with ⟨rfl, rfl, rfl⟩ | ⟨mask, values, rfl, rfl, hp, rfl⟩
    · exact h.deals dealMark
    · refine (h.deals dealAux).trans ?_
      rw [dealAux, auxAction_eq hp]
  have htag : a.tag = p.tag := by
    rcases hcase with ⟨-, -, rfl⟩ | ⟨mask, values, -, -, -, rfl⟩ <;> rfl
  obtain ⟨hadd, hactions, hrecords⟩ := addAction_spec (u := takeIntake rest s) a hlen
  have hf := hadd.trans (plannerMoment_frame _)
  have hhandled := (h.handled.frame hadd).moment
  have hmoment := plannerMoment_pending (hadd.works h.plannerWorks)
    (by rw [hactions]; exact heldActions_ne_nil a _)
  rw [hactions, hrecords, lastTag_heldActions, htag, hadd.link] at hmoment
  exact ⟨_, hexec, hmoment.imp id id, hf.stream, hf.block, hf.prev, hf.contour, hf.trimDist, hhandled.link,
    hhandled.tables, hhandled.report, hhandled.only⟩

/-! ## CONTOUR -/

section
variable {k : Byte} {r : Setup} {p : Packet} {rest : List Packet} {s t u : State}

/-- The release rules take records from the head of the window, none beyond the first without its heading (R78). -/
theorem applyReleases_window (s : State) :
    ∃ n, n ≤ (s.planner.window.takeWhile fun w => !w.record.body.headless).length ∧
      (applyReleases s).planner.window = s.planner.window.drop n := by
  cases hw : plannerWorks s with
  | true =>
    refine ⟨s.callsFor s.executor.queue.length, ?_, (applyReleases_released hw).window⟩
    exact (Nat.min_le_right _ _).trans (Nat.min_le_right _ _)
  | false =>
    refine ⟨0, Nat.zero_le _, ?_⟩
    have hstay : applyReleases s = s := by
      unfold applyReleases
      cases s.planner.window.length with
      | zero => rfl
      | succ n => simp [releaseLoop, hw]
    rw [hstay]
    rfl

/-- No more records have their heading, from the head on, than stand before one without. -/
theorem headed_length_le {l tail : List WindowEntry} {w : WindowEntry} (hw : w.record.body.headless = true) :
    ((l ++ w :: tail).takeWhile fun w => !w.record.body.headless).length ≤ l.length := by
  rw [List.takeWhile_append]
  split
  · simp [hw]
  · exact (List.takeWhile_prefix _).length_le

/-- Records from one without its heading on stay in the window. -/
theorem applyReleases_headless {l tail : List WindowEntry} {w : WindowEntry}
    (h : s.planner.window = l ++ w :: tail) (hw : w.record.body.headless = true) :
    ∃ n, (applyReleases s).planner.window = l.drop n ++ w :: tail := by
  obtain ⟨n, hn, hdrop⟩ := applyReleases_window s
  rw [h] at hn hdrop
  exact ⟨n, by rw [hdrop, List.drop_append_of_le_length (hn.trans (headed_length_le hw))]⟩

/-- A memory that is not of a CUT in the window stays as records are released. -/
theorem applyReleases_memory (h : ∀ hd cap, s.planner.memory ≠ .inWindow hd cap) :
    (applyReleases s).planner.memory = s.planner.memory := by
  refine releaseLoop_induct (P := fun t => t.planner.memory = s.planner.memory) (fun t ht _ _ _ => ?_) _ s rfl
  unfold releaseHead
  split
  · exact ht
  · next w rest hwin =>
    show (t.planner.release w rest).memory = _
    unfold Planner.release
    dsimp only
    split
    · next hm _ => exact absurd (ht.symm.trans hm) (h _ _)
    · exact ht

/-- Where no blade table waits, a record that is neither a CUT nor a stop just joins the window. -/
theorem Planner.append_plain {w : WindowEntry} {a : Nat} {q : Planner} (hc : w.record.body.cut? = none)
    (hs : w.record.body.isStop = false) : (q.append a false w).window = q.window ++ [w] := by
  unfold Planner.append
  split
  · next c hb => rw [hb] at hc; cases hc
  · simp [hs]

/-- The window, once such a record without a heading has been made: it stands at the tail, and what precedes it may have
been released. -/
theorem makeRecord_window {tag : Tag} {body : Body} {o : Bool} (ht : u.tables.waiting = none)
    (hc : body.cut? = none) (hs : body.isStop = false) :
    ∃ n, n ≤ ((u.planner.window ++ [(⟨⟨tag, u.planner.actions, body⟩, 0, o⟩ : WindowEntry)]).takeWhile
        fun w => !w.record.body.headless).length ∧
      (makeRecord tag body 0 o u).planner.window =
        (u.planner.window ++ [(⟨⟨tag, u.planner.actions, body⟩, 0, o⟩ : WindowEntry)]).drop n := by
  unfold makeRecord appendRecord
  generalize hv : joinWindow _ _ = v
  have hwin : v.planner.window = u.planner.window ++ [(⟨⟨tag, u.planner.actions, body⟩, 0, o⟩ : WindowEntry)] := by
    rw [← hv, joinWindow, (startsWork_frame _).tables, startsWork_planner]
    show (Planner.append _ u.tables.waiting.isSome _ _).window = _
    rw [ht]
    exact Planner.append_plain hc hs
  unfold releaseFull
  rw [← hwin]
  split
  · exact applyReleases_window v
  · exact ⟨0, Nat.zero_le _, rfl⟩

/-- The two records of a CONTOUR stand at the tail of the window, behind what is left there (R8). -/
theorem openContour_window {x y : Int} {plunge : Nat} (ht : u.tables.waiting = none) (tag : Tag) :
    ∃ (n : Nat) (travel enter : WindowEntry), travel.record.body.headless = true ∧ travel.ofOpenContour = true ∧
      enter.ofOpenContour = true ∧
      (makeRecord tag (.enter x y none plunge) 0 true (makeRecord tag (.travel x y none) 0 true u)).planner.window =
        u.planner.window.drop n ++ [travel, enter] := by
  obtain ⟨n, hn, hfirst⟩ := makeRecord_window (u := u) (tag := tag) (body := .travel x y none) (o := true) ht rfl rfl
  rw [List.drop_append_of_le_length (hn.trans (headed_length_le rfl))] at hfirst
  have ht' : (makeRecord tag (.travel x y none) 0 true u).tables.waiting = none := by
    rw [(makeRecord_frame _ _ _ _ _).tables, ht]
  obtain ⟨m, hm, hsecond⟩ := makeRecord_window (tag := tag) (body := .enter x y none plunge) (o := true) ht' rfl rfl
  rw [hfirst, List.append_assoc, List.singleton_append] at hm hsecond
  rw [List.drop_append_of_le_length (hm.trans (headed_length_le rfl)), List.drop_drop] at hsecond
  exact ⟨_, _, _, rfl, rfl, rfl, hsecond⟩

end

/-- Settles O10: two records are made, and neither can be released before it has its heading. -/
theorem contourOpens : Obligations.ContourOpens := by
  unfold Obligations.ContourOpens
  intro r p rest s x y b snap h hx hy hp hs hb hxin hyin hsnap
  obtain ⟨hpx, hpy⟩ := point_fields (post := []) (by simpa using hp) hx hy
  have hmx : machineX b p = x + b.ox := by rw [machineX, hpx]
  have hmy : machineY b p = y + b.oy := by rw [machineY, hpy]
  have hwithin : withinTravel r (machineX b p) (machineY b p) = true := by
    rw [withinTravel_iff, hmx, hmy]
    exact ⟨hxin.1, hxin.2, hyin⟩
  have hdeal : dealContour r p (takeIntake rest s) = .ok (openContour b p snap (takeIntake rest s)) := by
    simp only [dealContour, takeIntake_planner, takeIntake_tables, hs, hb, hwithin, Bool.not_true, Bool.false_eq_true,
      if_false, hpx, hpy, hsnap]
  generalize hu : openContour b p snap (takeIntake rest s) = u at hdeal
  let first := makeRecord p.tag (.travel (x + b.ox) (y + b.oy) none) 0 true (takeIntake rest s)
  let made := makeRecord p.tag (.enter (x + b.ox) (y + b.oy) none snap.plunge) 0 true first
  have hueq : u = enterContour (x + b.ox) (y + b.oy) snap made := by
    rw [← hu, openContour, hmx, hmy]
  have hmade : PlanFrame (takeIntake rest s) made := (makeRecord_frame _ _ _ _ _).trans (makeRecord_frame _ _ _ _ _)
  have hrecords : made.records = s.records ++ [⟨p.tag, s.planner.actions, .travel (x + b.ox) (y + b.oy) none⟩,
      ⟨p.tag, [], .enter (x + b.ox) (y + b.oy) none snap.plunge⟩] := by
    refine (makeRecord_records rfl).trans ?_
    rw [makeRecord_actions, makeRecord_records rfl, List.append_assoc]
    rfl
  obtain ⟨n, travel, enter, hhead, htravel, henter, hwin⟩ :=
    openContour_window (u := takeIntake rest s) (x := x + b.ox) (y := y + b.oy) (plunge := snap.plunge) h.noStall p.tag
  have hwinu : u.planner.window = s.planner.window.drop n ++ [travel, enter] := by rw [hueq]; exact hwin
  have hactions : u.planner.actions = [] := by rw [hueq]; exact makeRecord_actions _ _ _ _ _
  have hmoment : plannerMoment u = applyReleases u := plannerMoment_of_noActions hactions
  obtain ⟨m, hleft⟩ := applyReleases_headless hwinu hhead
  have hf := applyReleases_frame u
  have hhandled : Handled r rest s (applyReleases u) := by
    rw [hueq]
    exact ((h.handled.frame hmade).setPlanner _).frame (applyReleases_frame _)
  refine ⟨applyReleases u, (h.takeAndTry hdeal).trans (by rw [hmoment]), ?_, ?_, ?_, ?_, ?_, ?_,
    ⟨n + m, travel, enter, ?_, htravel, henter⟩, ?_, ?_, ?_, hhandled.link, hhandled.tables, hhandled.report,
    hhandled.only⟩
  · rw [hf.stream, hueq]; rfl
  · rw [hf.prev, hueq]; rfl
  · rw [hf.contour, hueq]; rfl
  · rw [applyReleases_memory (by rw [hueq]; exact fun _ _ => PrevCut.noConfusion), hueq]; rfl
  · rw [applyReleases_actions, hactions]
  · rw [applyReleases_records, hueq]
    exact hrecords
  · rw [hleft, List.drop_drop]
  · rw [hf.block, hueq]
    exact hmade.block
  · rw [hf.plannedHeading, hueq]
    exact hmade.plannedHeading
  · rw [hf.trimDist, hueq]
    exact hmade.trimDist

end Sys2Proof.Machine

/-! # TABLE-DATA (R37 to R39, Tables 2.1 to 2.3) -/

namespace Sys2Proof.Machine

/-! ## Sets of entries -/

section
variable {α : Type}

theorem lookupKey_insertKey_same (k : Nat) (v : α) (es : List (Nat × α)) :
    lookupKey k (insertKey k v es) = some v := by
  induction es with
  | nil => simp [insertKey, lookupKey]
  | cons e es ih =>
    obtain ⟨j, w⟩ := e
    unfold insertKey
    split
    · simp [lookupKey]
    · split
      · simp [lookupKey]
      · next hne => rw [lookupKey, if_neg (Ne.symm hne), ih]

theorem lookupKey_insertKey_other {j k : Nat} (h : j ≠ k) (v : α) (es : List (Nat × α)) :
    lookupKey j (insertKey k v es) = lookupKey j es := by
  induction es with
  | nil => exact if_neg (Ne.symm h)
  | cons e es ih =>
    obtain ⟨i, w⟩ := e
    unfold insertKey
    split
    · rw [lookupKey, if_neg (Ne.symm h)]
    · split
      · next heq => rw [lookupKey, lookupKey, if_neg (Ne.symm h), if_neg (heq ▸ Ne.symm h)]
      · rw [lookupKey, lookupKey, ih]

theorem keysAscend_cons_cons {i j : Nat} {v w : α} {es : List (Nat × α)} :
    keysAscend ((i, v) :: (j, w) :: es) = true ↔ i < j ∧ keysAscend ((j, w) :: es) = true := by
  simp [keysAscend]

/-- In ascending order an index stands before the head of no list that it precedes. -/
theorem lookupKey_of_lt {k : Nat} : ∀ {es : List (Nat × α)} {j : Nat} {w : α},
    keysAscend ((j, w) :: es) = true → k < j → lookupKey k ((j, w) :: es) = none
  | [], j, w, _, h => by rw [lookupKey, if_neg (by omega), lookupKey]
  | (i, v) :: es, j, w, hasc, h => by
    obtain ⟨hji, hrest⟩ := keysAscend_cons_cons.1 hasc
    rw [lookupKey, if_neg (by omega), lookupKey_of_lt hrest (by omega)]

/-- What is inserted behind a lesser index keeps the order. -/
theorem keysAscend_insertKey_cons {k : Nat} (v : α) : ∀ {es : List (Nat × α)} {j : Nat} {w : α},
    keysAscend ((j, w) :: es) = true → j < k → keysAscend ((j, w) :: insertKey k v es) = true
  | [], j, w, _, h => keysAscend_cons_cons.2 ⟨h, rfl⟩
  | (i, x) :: es, j, w, hasc, h => by
    obtain ⟨hji, hrest⟩ := keysAscend_cons_cons.1 hasc
    unfold insertKey
    split
    · next hki => exact keysAscend_cons_cons.2 ⟨h, keysAscend_cons_cons.2 ⟨hki, hrest⟩⟩
    · split
      · next heq =>
        refine keysAscend_cons_cons.2 ⟨h, ?_⟩
        cases es with
        | nil => rfl
        | cons e es =>
          rw [keysAscend_cons_cons] at hrest ⊢
          rwa [heq]
      · exact keysAscend_cons_cons.2 ⟨hji, keysAscend_insertKey_cons v hrest (by omega)⟩

theorem keysAscend_insertKey {k : Nat} (v : α) {es : List (Nat × α)} (h : keysAscend es = true) :
    keysAscend (insertKey k v es) = true := by
  cases es with
  | nil => rfl
  | cons e es =>
    obtain ⟨j, w⟩ := e
    unfold insertKey
    split
    · next hkj => exact keysAscend_cons_cons.2 ⟨hkj, h⟩
    · split
      · next heq =>
        subst heq
        cases es with
        | nil => rfl
        | cons e es =>
          rw [keysAscend_cons_cons] at h ⊢
          exact h
      · exact keysAscend_insertKey_cons v h (by omega)

theorem keysAscend_tail {e : Nat × α} {es : List (Nat × α)} (h : keysAscend (e :: es) = true) :
    keysAscend es = true := by
  cases es with
  | nil => rfl
  | cons e' es => exact (keysAscend_cons_cons.1 h).2

theorem insertKey_length {k : Nat} (v : α) {es : List (Nat × α)} (h : keysAscend es = true) :
    (insertKey k v es).length = es.length + (if (lookupKey k es).isSome then 0 else 1) := by
  induction es with
  | nil => rfl
  | cons e es ih =>
    obtain ⟨j, w⟩ := e
    unfold insertKey
    split
    · next hkj =>
      rw [lookupKey_of_lt h hkj]
      rfl
    · split
      · next heq =>
        rw [lookupKey, if_pos heq.symm]
        rfl
      · next hne =>
        rw [lookupKey, if_neg (Ne.symm hne), List.length_cons, List.length_cons, ih (keysAscend_tail h)]
        omega

end

/-! ## Reading the fields of an entry -/

/-- A payload that ends before the field `i` in turn is whole gives its number (R38). -/
theorem readFields_of_short : ∀ {ws : List Nat} {i : Nat} (no : Nat) {bytes : List Byte}, i < ws.length →
    (ws.take i).sum ≤ bytes.length → bytes.length < (ws.take (i + 1)).sum → readFields ws no bytes = .error (no + i)
  | [], i, _, _, h, _, _ => absurd h (Nat.not_lt_zero i)
  | w :: ws, 0, no, bytes, _, _, hshort => by
    rw [readFields, if_pos (by simpa using hshort)]
    rfl
  | w :: ws, i + 1, no, bytes, h, hlong, hshort => by
    rw [List.take_succ_cons, List.sum_cons] at hlong hshort
    have hrest := readFields_of_short (ws := ws) (i := i) (no + 1) (bytes := bytes.drop w) (Nat.lt_of_succ_lt_succ h)
      (by rw [List.length_drop]; omega) (by rw [List.length_drop]; omega)
    rw [readFields, if_neg (by omega), hrest]
    show Except.error _ = _
    rw [Nat.add_right_comm, Nat.add_assoc]

/-- The fields of a payload that begins with all of them, whole. -/
theorem readFields_of_chunks (extra : List Byte) : ∀ (chunks : List (List Byte)) (no : Nat),
    readFields (chunks.map List.length) no (chunks.flatten ++ extra) = .ok (chunks.map beNat)
  | [], _ => rfl
  | c :: chunks, no => by
    have hrest := readFields_of_chunks extra chunks (no + 1)
    have hsplit : (c :: chunks).flatten ++ extra = c ++ (chunks.flatten ++ extra) := by simp
    rw [List.map_cons, readFields, hsplit, if_neg (by simp), List.drop_left, hrest, List.take_left]
    rfl

/-- The fields `chunks`, in number order, spell the entry `e`, and `ok` says of a field whether it is in its range. -/
structure Spells {α : Type} (widths : List Nat) (build : List Nat → α) (checks : α → List Bool) (ok : Nat → Prop)
    (chunks : List (List Byte)) (e : α) : Prop where
  sizes : chunks.map List.length = widths
  value : build (chunks.map beNat) = e
  ranges : ∀ n < (checks e).length, ∃ b, (checks e)[n]? = some b ∧ (b = true ↔ ok (n + 1))
  zero : ok 0
  beyond : ∀ n, ok (n + ((checks e).length + 1))

section
variable {α : Type} {widths : List Nat} {build : List Nat → α} {checks : α → List Bool} {ok : Nat → Prop}
  {chunks : List (List Byte)} {e : α} {index n : Nat}

theorem Spells.firstFailing_of_ok (h : Spells widths build checks ok chunks e) (hok : ∀ n, ok n) :
    firstFailing 1 (checks e) = none := by
  refine firstFailing_of_all fun b hb => ?_
  obtain ⟨i, hi, rfl⟩ := List.mem_iff_getElem.1 hb
  obtain ⟨b, hget, hiff⟩ := h.ranges i hi
  rw [List.getElem?_eq_getElem hi, Option.some.injEq] at hget
  rw [hget, hiff]
  exact hok _

theorem Spells.firstFailing_of_first (h : Spells widths build checks ok chunks e) (hbad : ¬ ok n)
    (hbefore : ∀ m, m < n → ok m) : firstFailing 1 (checks e) = some n := by
  have hn : n ≤ (checks e).length := Nat.le_of_not_lt fun hlt => by
    obtain ⟨m, rfl⟩ := Nat.exists_eq_add_of_le' hlt
    exact hbad (h.beyond m)
  cases n with
  | zero => exact absurd h.zero hbad
  | succ i =>
    rw [Nat.add_comm i 1]
    refine firstFailing_of_get ?_ fun j hj => ?_
    · obtain ⟨b, hget, hiff⟩ := h.ranges i hn
      rw [hget, Option.some.injEq, ← Bool.not_eq_true, hiff]
      exact hbad
    · obtain ⟨b, hget, hiff⟩ := h.ranges j (by omega)
      rw [hget, Option.some.injEq, hiff]
      exact hbefore _ (by omega)

theorem Spells.judge_of_ok (h : Spells widths build checks ok chunks e) (hok : ∀ n, ok n) (extra : List Byte) :
    judgeFields index widths build checks (chunks.flatten ++ extra) = .ok e := by
  simp only [judgeFields, ← h.sizes, readFields_of_chunks, h.value, h.firstFailing_of_ok hok]

theorem Spells.judge_of_first (h : Spells widths build checks ok chunks e) (hbad : ¬ ok n)
    (hbefore : ∀ m, m < n → ok m) (extra : List Byte) :
    judgeFields index widths build checks (chunks.flatten ++ extra) = .error (.badField index n) := by
  simp only [judgeFields, ← h.sizes, readFields_of_chunks, h.value, h.firstFailing_of_first hbad hbefore]

theorem judgeFields_of_short {bytes : List Byte} (h : readFields widths 1 bytes = .error n) :
    judgeFields index widths build checks bytes = .error (.badField index n) := by
  simp only [judgeFields, h]

end

/-! ## The three kinds of entry -/

/-- The fields of a density entry, of a zone entry and of the blade entry, in number order (Table 12.3). -/
def DensityEntry.chunks (e : DensityEntry) : List (List Byte) :=
  [u16 e.feedCap, u16 e.pitchTarget, u16 e.pitchMax, u8 e.plunge, u8 e.ceiling]

def ZoneEntry.chunks : ZoneEntry → List (List Byte)
  | .dflt cls => [u8 cls]
  | .rect xLo yLo xHi yHi cls => [s32 xLo, s32 yLo, s32 xHi, s32 yHi, u8 cls]

def BladeEntry.chunks (b : BladeEntry) : List (List Byte) :=
  [u16 b.fMin, u16 b.fMax, u16 b.fPlunge, u16 b.blend, u16 b.swivel, u16 b.swivelRate, u32 b.airRate, u16 b.lead,
    u8 b.trimInterval, u8 b.trimGrace, u16 b.lockTimeout, u16 b.trimTimeout, u16 b.dwellTimeout]

theorem densityImage_eq (index : Nat) (e : DensityEntry) : densityImage index e = u8 index ++ e.chunks.flatten := by
  simp [densityImage, DensityEntry.chunks]

theorem zoneImage_eq (index : Nat) (e : ZoneEntry) : zoneImage index e = u8 index ++ e.chunks.flatten := by
  cases e <;> simp [zoneImage, ZoneEntry.chunks]

theorem bladeImage_eq (index : Nat) (b : BladeEntry) : bladeImage index b = u8 index ++ b.chunks.flatten := by
  simp [bladeImage, BladeEntry.chunks]

theorem DensityEntry.spells {e : DensityEntry} (h : e.fits) :
    Spells densityWidths densityOf densityChecks (densityFieldOk e) e.chunks e where
  sizes := rfl
  value := by
    obtain ⟨h1, h2, h3, h4, h5⟩ := h
    simp [DensityEntry.chunks, densityOf, beNat_u16, beNat_u8, h1, h2, h3, h4, h5]
  ranges n hn := by
    have hn : n < 5 := hn
    interval_cases n <;> exact ⟨_, rfl, within_iff _ _ _⟩
  zero := trivial
  beyond _ := trivial

theorem ZoneEntry.spells_dflt {cls : Nat} (h : cls < 256) :
    Spells [1] (zoneOf 0) zoneChecks (zoneFieldOk (.dflt cls)) (ZoneEntry.chunks (.dflt cls)) (.dflt cls) where
  sizes := rfl
  value := by simp [ZoneEntry.chunks, zoneOf, beNat_u8 _ h]
  ranges n hn := by
    obtain rfl : n = 0 := Nat.lt_one_iff.1 hn
    exact ⟨_, rfl, (within_iff _ _ _).trans (and_iff_right (Nat.zero_le _))⟩
  zero := trivial
  beyond _ := trivial

theorem ZoneEntry.spells_rect {xLo yLo xHi yHi : Int} {cls index : Nat} (hi : index ≠ 0)
    (h : (ZoneEntry.rect xLo yLo xHi yHi cls).fits) :
    Spells rectWidths (zoneOf index) zoneChecks (zoneFieldOk (.rect xLo yLo xHi yHi cls))
      (ZoneEntry.chunks (.rect xLo yLo xHi yHi cls)) (.rect xLo yLo xHi yHi cls) where
  sizes := rfl
  value := by
    obtain ⟨h1, h2, h3, h4, h5⟩ := h
    simp [ZoneEntry.chunks, zoneOf, hi, asS32_s32 _ h1, asS32_s32 _ h2, asS32_s32 _ h3, asS32_s32 _ h4, beNat_u8 _ h5]
  ranges n hn := by
    have hn : n < 5 := hn
    interval_cases n
    · exact ⟨_, rfl, withinInt_iff _ _ _⟩
    · exact ⟨_, rfl, withinInt_iff _ _ _⟩
    · exact ⟨_, rfl, withinInt_iff _ _ _⟩
    · exact ⟨_, rfl, withinInt_iff _ _ _⟩
    · exact ⟨_, rfl, (within_iff _ _ _).trans (and_iff_right (Nat.zero_le _))⟩
  zero := trivial
  beyond _ := trivial

theorem BladeEntry.spells {b : BladeEntry} (h : b.fits) :
    Spells bladeWidths bladeOf bladeChecks (bladeFieldOk b) b.chunks b where
  sizes := rfl
  value := by
    obtain ⟨h1, h2, h3, h4, h5, h6, h7, h8, h9, h10, h11, h12, h13⟩ := h
    simp [BladeEntry.chunks, bladeOf, beNat_u16, beNat_u8, beNat_u32 _ h7, h1, h2, h3, h4, h5, h6, h8, h9, h10, h11,
      h12, h13]
  ranges n hn := by
    have hn : n < 13 := hn
    have atMost : ∀ hi m : Nat, within 0 hi m = true ↔ m ≤ hi := fun hi m =>
      (within_iff 0 hi m).trans (and_iff_right (Nat.zero_le _))
    by_cases hz : n = 7 ∨ n = 9 ∨ n = 12
    · rcases hz with rfl | rfl | rfl <;> exact ⟨_, rfl, atMost _ _⟩
    · interval_cases n <;> simp only [Nat.reduceEqDiff, or_self, or_false, or_true, not_true_eq_false] at hz <;>
        exact ⟨_, rfl, within_iff _ _ _⟩
  zero := trivial
  beyond _ := trivial

/-! ## The load after a TABLE-DATA -/

section
variable {staged : Staged} {index n : Nat} {body : List Byte}

theorem stageEntry_of_badIndex (h : lastIndex staged < index) :
    stageEntry staged index body = ⟨staged, some (.badIndex index)⟩ := by
  cases staged with
  | density es => simp only [stageEntry, judgeDensity, if_pos (show 15 < index from h)]
  | zone es => simp only [stageEntry, judgeZone, if_pos (show 16 < index from h)]
  | blade es => simp only [stageEntry, judgeBlade, if_pos (show 0 < index from h)]

theorem stageEntry_of_short (hi : index ≤ lastIndex staged)
    (h : readFields (fieldWidths staged index) 1 body = .error n) :
    stageEntry staged index body = ⟨staged, some (.badField index n)⟩ := by
  cases staged with
  | density es =>
    have hj : judgeDensity index body = .error (.badField index n) :=
      (if_neg (Nat.not_lt.2 hi)).trans (judgeFields_of_short h)
    simp only [stageEntry, hj]
  | zone es =>
    have hj : judgeZone index body = .error (.badField index n) :=
      (if_neg (Nat.not_lt.2 hi)).trans (judgeFields_of_short h)
    simp only [stageEntry, hj]
  | blade es =>
    have hj : judgeBlade index body = .error (.badField index n) :=
      (if_neg (Nat.not_lt.2 hi)).trans (judgeFields_of_short h)
    simp only [stageEntry, hj]

theorem DensityEntry.stage {e : DensityEntry} {es : List (Nat × DensityEntry)} (hi : index ≤ 15) (h : e.fits)
    (extra : List Byte) :
    ((∀ n, densityFieldOk e n) → stageEntry (.density es) index (e.chunks.flatten ++ extra) =
      ⟨.density (insertKey index e es), none⟩) ∧
    (∀ n, ¬ densityFieldOk e n → (∀ m, m < n → densityFieldOk e m) →
      stageEntry (.density es) index (e.chunks.flatten ++ extra) =
        ⟨.density es, some (.badField index n)⟩) := by
  have hjudge : judgeDensity index (e.chunks.flatten ++ extra) =
      judgeFields index densityWidths densityOf densityChecks (e.chunks.flatten ++ extra) := if_neg (Nat.not_lt.2 hi)
  refine ⟨fun hok => ?_, fun n hbad hbefore => ?_⟩
  · rw [(DensityEntry.spells h).judge_of_ok hok] at hjudge
    simp only [stageEntry, hjudge]
  · rw [(DensityEntry.spells h).judge_of_first hbad hbefore] at hjudge
    simp only [stageEntry, hjudge]

theorem ZoneEntry.stage {e : ZoneEntry} {es : List (Nat × ZoneEntry)} (hi : e.standsAt index) (h : e.fits)
    (extra : List Byte) :
    ((∀ n, zoneFieldOk e n) → stageEntry (.zone es) index (e.chunks.flatten ++ extra) =
      ⟨.zone (insertKey index e es), none⟩) ∧
    (∀ n, ¬ zoneFieldOk e n → (∀ m, m < n → zoneFieldOk e m) →
      stageEntry (.zone es) index (e.chunks.flatten ++ extra) = ⟨.zone es, some (.badField index n)⟩) := by
  obtain ⟨hle, widths, hwidths, hspells⟩ : index ≤ 16 ∧ ∃ widths, (if index = 0 then [1] else rectWidths) = widths ∧
      Spells widths (zoneOf index) zoneChecks (zoneFieldOk e) e.chunks e := by
    cases e with
    | dflt cls =>
      obtain rfl : index = 0 := hi
      exact ⟨Nat.zero_le _, _, rfl, spells_dflt h⟩
    | rect xLo yLo xHi yHi cls =>
      obtain ⟨hpos, hle⟩ : 1 ≤ index ∧ index ≤ 16 := hi
      exact ⟨hle, _, if_neg (by omega), spells_rect (by omega) h⟩
  have hjudge : judgeZone index (e.chunks.flatten ++ extra) =
      judgeFields index widths (zoneOf index) zoneChecks (e.chunks.flatten ++ extra) := by
    rw [← hwidths]
    exact if_neg (Nat.not_lt.2 hle)
  refine ⟨fun hok => ?_, fun n hbad hbefore => ?_⟩
  · rw [hspells.judge_of_ok hok] at hjudge
    simp only [stageEntry, hjudge]
  · rw [hspells.judge_of_first hbad hbefore] at hjudge
    simp only [stageEntry, hjudge]

theorem BladeEntry.stage {b : BladeEntry} {es : List (Nat × BladeEntry)} (h : b.fits) (extra : List Byte) :
    ((∀ n, bladeFieldOk b n) → stageEntry (.blade es) 0 (b.chunks.flatten ++ extra) =
      ⟨.blade (insertKey 0 b es), none⟩) ∧
    (∀ n, ¬ bladeFieldOk b n → (∀ m, m < n → bladeFieldOk b m) →
      stageEntry (.blade es) 0 (b.chunks.flatten ++ extra) = ⟨.blade es, some (.badField 0 n)⟩) := by
  have hjudge : judgeBlade 0 (b.chunks.flatten ++ extra) =
      judgeFields 0 bladeWidths bladeOf bladeChecks (b.chunks.flatten ++ extra) := if_neg (Nat.lt_irrefl 0)
  refine ⟨fun hok => ?_, fun n hbad hbefore => ?_⟩
  · rw [(BladeEntry.spells h).judge_of_ok hok] at hjudge
    simp only [stageEntry, hjudge]
  · rw [(BladeEntry.spells h).judge_of_first hbad hbefore] at hjudge
    simp only [stageEntry, hjudge]

end

/-! ## The obligation -/

section
variable {r : Setup} {p : Packet} {rest : List Packet} {s : State}

/-- What a TABLE-DATA does to an open load that has not failed. -/
theorem dealTableData_of_open {staged : Staged} {u : State} (h : u.tables.load = some ⟨staged, none⟩) (r : Setup)
    (p : Packet) : dealTableData r p u =
      u.setTables { u.tables with load := some (stageEntry staged (fieldU p.payload 0 1) (p.payload.drop 1)) } := by
  simp only [dealTableData, h]

theorem dealTableData_of_failed {load : Load} {f : LoadFailure} {u : State} (h : u.tables.load = some load)
    (hf : load.failure = some f) (r : Setup) (p : Packet) : dealTableData r p u = u := by
  simp only [dealTableData, h, hf]

/-- The index and the rest of a payload that begins with the byte of an index. -/
theorem index_field {index : Nat} {body : List Byte} (hi : index < 256) :
    fieldU (u8 index ++ body) 0 1 = index ∧ (u8 index ++ body).drop 1 = body :=
  ⟨(fieldU_append_of_eq rfl).trans (beNat_u8 index hi), rfl⟩

end

/-- Settles O25: the fields are read and then checked in number order, for each of the three tables. -/
theorem tableDataIsJudged : Obligations.TableDataIsJudged := by
  unfold Obligations.TableDataIsJudged
  refine ⟨fun r p rest s index extra h hindex => ⟨fun load f hload hfail => ?_, fun hnone => ?_,
    fun staged hload => ?_⟩, fun α k v es => ⟨lookupKey_insertKey_same k v es,
      fun j hj => lookupKey_insertKey_other hj v es,
      fun hasc => ⟨keysAscend_insertKey v hasc, insertKey_length v hasc⟩⟩⟩
  · have ht := h.noRecord.moment h.window_lt
    have hf := plannerMoment_frame (takeIntake rest s)
    refine ⟨_, (h.deals dealTableData).trans ?_, hf.tables, hf.report, ht.link, ht.record, ht.only⟩
    rw [dealTableData_of_failed (u := takeIntake rest s) hload hfail]
  · obtain ⟨ht, htables, hresp⟩ := h.refused h.noRecord rfl .noLoad []
    rw [h.kind] at hresp
    refine ⟨_, (h.deals dealTableData).trans ?_, htables, ht.link, hresp⟩
    rw [dealTableData_of_none (u := takeIntake rest s) hnone]
  · let load := stageEntry staged (fieldU p.payload 0 1) (p.payload.drop 1)
    have ht := (h.noRecord.setTables { s.tables with load := some load }).moment h.window_lt
    have hf := plannerMoment_frame ((takeIntake rest s).setTables { s.tables with load := some load })
    have hbegins : ∀ {body : List Byte}, p.payload = u8 index ++ body → load = stageEntry staged index body :=
      fun hp => by
        obtain ⟨h1, h2⟩ := index_field hindex
        show stageEntry staged (fieldU p.payload 0 1) (p.payload.drop 1) = _
        rw [hp, h1, h2]
    refine ⟨_, load, (h.deals dealTableData).trans (by rw [dealTableData_of_open (u := takeIntake rest s) hload]; rfl),
      hf.tables, hf.report, ht.link, ht.only, fun body hp hlast => ?_, fun body n hp hlast hpos hn hlong hshort => ?_,
      fun es e hst hi hfits hp => ?_, fun es e hst hi hfits hp => ?_, fun es e hst hi hfits hp => ?_⟩
    · rw [hbegins hp, stageEntry_of_badIndex hlast]
    · obtain ⟨i, rfl⟩ : ∃ i, n = 1 + i := ⟨n - 1, by omega⟩
      rw [hbegins hp]
      refine stageEntry_of_short hlast (readFields_of_short 1 (by omega) ?_ ?_)
      · rwa [Nat.add_sub_cancel_left] at hlong
      · rwa [Nat.add_comm i 1]
    · subst hst
      rw [densityImage_eq, List.append_assoc] at hp
      rw [hbegins hp]
      exact DensityEntry.stage hi hfits extra
    · subst hst
      rw [zoneImage_eq, List.append_assoc] at hp
      rw [hbegins hp]
      exact ZoneEntry.stage hi hfits extra
    · subst hst hi
      rw [bladeImage_eq, List.append_assoc] at hp
      rw [hbegins hp]
      exact BladeEntry.stage hfits extra

end Sys2Proof.Machine

/-! # TABLE-CLOSE (R40 to R44, Table 3.3) -/

namespace Sys2Proof.Machine

/-! ## The memory of the previous CUT -/

section
variable {s t u : State}

/-- The memory is not that of a CUT in the window. -/
def Settled (m : PrevCut) : Prop := ∀ heading cap, m ≠ .inWindow heading cap

theorem settled_fixed (heading cap exit : Nat) : Settled (.fixed heading cap exit) := fun _ _ => PrevCut.noConfusion

theorem Planner.fixMemory_of_settled {q : Planner} (h : Settled q.memory) : q.fixMemory = q := by
  unfold Planner.fixMemory
  split
  · next hm => exact absurd hm (h _ _)
  · rfl
  · rfl
  · rfl

/-- Such a memory stays as a record that is no CUT is appended. -/
theorem appendRecord_memory {w : WindowEntry} (hw : w.record.body.cut? = none) (h : Settled s.planner.memory) :
    (appendRecord w s).planner.memory = s.planner.memory := by
  have hjoin : (joinWindow w (startsWork s)).planner.memory = s.planner.memory := by
    unfold joinWindow
    rw [startsWork_planner]
    show (Planner.append _ _ w s.planner).memory = _
    unfold Planner.append
    split
    · next c hb => rw [hb] at hw; cases hw
    · split
      · show s.planner.fixMemory.memory = _
        rw [Planner.fixMemory_of_settled h]
      · rfl
  unfold appendRecord releaseFull
  split
  · rw [applyReleases_memory (by rw [hjoin]; exact h), hjoin]
  · exact hjoin

/-- Such a memory stays as the Planner's moment follows. -/
theorem plannerMoment_memory (h : Settled s.planner.memory) :
    (plannerMoment s).planner.memory = s.planner.memory := by
  have hfirst := applyReleases_memory h
  unfold plannerMoment
  dsimp only
  split
  · have hmade : (makeActions (applyReleases s)).planner.memory = s.planner.memory :=
      (appendRecord_memory rfl (by show Settled (applyReleases s).planner.memory; rwa [hfirst])).trans hfirst
    rw [applyReleases_memory (by rw [hmade]; exact h), hmade]
  · exact hfirst

/-- The last CUT of the window, among its records. -/
theorem lastCut_eq (l : List WindowEntry) : lastCut l = (l.filterMap fun w => w.record.body.cut?).getLast? := by
  induction l with
  | nil => rfl
  | cons w l ih =>
    unfold lastCut
    rw [ih, List.filterMap_cons]
    cases hc : w.record.body.cut? with
    | none => cases (l.filterMap fun w => w.record.body.cut?).getLast? <;> rfl
    | some c =>
      rw [List.getLast?_cons]
      cases (l.filterMap fun w => w.record.body.cut?).getLast? <;> rfl

theorem Planner.fixMemory_of_inWindow {q : Planner} {heading cap : Nat} {c : CutRecord}
    (hm : q.memory = .inWindow heading cap) (hc : lastCut q.window = some c) :
    q.fixMemory = { q with memory := .fixed heading cap c.exit } := by
  simp only [Planner.fixMemory, hm, hc]

end

/-! ## The stall of a blade-table commit (R43, R80) -/

section
variable {s t u : State}

theorem beginStall_of_empty (h : s.planner.window = []) : beginStall s = s := by
  simp only [beginStall, h]

theorem beginStall_of_cons {w : WindowEntry} {rest : List WindowEntry} (h : s.planner.window = w :: rest) :
    beginStall s = s.setPlanner { s.planner.fixMemory with releasePoint := some rest.length } := by
  simp only [beginStall, h]

theorem beginStall_window (s : State) : (beginStall s).planner.window = s.planner.window := by
  unfold beginStall
  split
  · rfl
  · exact Planner.fixMemory_window _

theorem beginStall_eq (s : State) : beginStall s = s.setPlanner (beginStall s).planner := by
  unfold beginStall
  split <;> rfl

theorem Planner.fixMemory_actions (q : Planner) : q.fixMemory.actions = q.actions := by
  unfold Planner.fixMemory
  split
  · split <;> rfl
  · rfl
  · rfl
  · rfl

theorem beginStall_actions (s : State) : (beginStall s).planner.actions = s.planner.actions := by
  unfold beginStall
  split
  · rfl
  · exact Planner.fixMemory_actions _

/-- With the whole window due, what is released goes by the room and the headings alone. -/
theorem callsFor_of_allDue {n : Nat} (h : s.planner.window.length ≤ s.planner.dueCount) :
    s.callsFor n = min (32 - n) (s.planner.window.takeWhile fun w => !w.record.body.headless).length := by
  have hle : (s.planner.window.takeWhile fun w => !w.record.body.headless).length ≤ s.planner.window.length :=
    (List.takeWhile_prefix _).length_le
  rw [State.callsFor, min_eq_right]
  exact (Nat.min_le_right _ _).trans ((hle.trans h).trans (Nat.le_max_left _ _))

/-- After a stall has begun the records go to the queue as room allows, up to one without its heading. -/
theorem beginStall_released (hw : plannerWorks s = true) (h : s.link.intake ≠ [] ∨ s.planner.actions = []) :
    let n := min (32 - s.executor.queue.length)
      (s.planner.window.takeWhile fun w => !w.record.body.headless).length
    (plannerMoment (beginStall s)).executor.queue =
        s.executor.queue ++ (s.planner.window.take n).map (fun w => w.record) ∧
      (plannerMoment (beginStall s)).planner.window = s.planner.window.drop n ∧
      (s.planner.window ≠ [] → (plannerMoment (beginStall s)).planner.releasePoint =
        if s.planner.window.length ≤ n then none else some (s.planner.window.length - 1 - n)) := by
  have hworks : plannerWorks (beginStall s) = true := by rw [beginStall_eq]; exact hw
  have hexec : (beginStall s).executor = s.executor := by rw [beginStall_eq]; rfl
  have hlink : (beginStall s).link = s.link := by rw [beginStall_eq]; rfl
  have hreleased := plannerMoment_released hworks (by rwa [hlink, beginStall_actions])
  obtain ⟨hqueue, hwindow, hpoint⟩ := hreleased
  have hwin := beginStall_window s
  cases hs : s.planner.window with
  | nil =>
    rw [hs] at hwin
    rw [hwin] at hqueue hwindow
    rw [hqueue, hwindow, hexec]
    simp
  | cons w rest =>
    have hdue : (beginStall s).planner.dueCount = s.planner.window.length := by
      rw [beginStall_of_cons hs, hs]
      rfl
    rw [hs] at hdue hwin
    rw [callsFor_of_allDue (by rw [hdue, hwin]), hwin, hexec] at hqueue hwindow hpoint
    rw [hdue] at hpoint
    exact ⟨hqueue, hwindow, fun _ => hpoint⟩

end

/-! ## What a close is refused for -/

section
variable {k : Byte} {r : Setup} {p : Packet} {rest : List Packet} {s u : State} {load : Load}

/-- The fields of a close payload (Table 12.2). -/
theorem close_fields {count : Byte} {c : BitVec 16} (hp : p.payload = count :: tagBytes c) :
    closeCount p = count.toNat ∧ closeCrc p = c := by
  have hcount : fieldU ([count] ++ tagBytes c) 0 1 = beNat [count] := fieldU_append_of_eq rfl
  have hcrc : fieldU ([count] ++ tagBytes c) 1 2 = beNat (tagBytes c) := fieldU_self rfl
  rw [closeCount, closeCrc, hp]
  refine ⟨hcount.trans (by simp [beNat]), ?_⟩
  show BitVec.ofNat 16 (fieldU ([count] ++ tagBytes c) 1 2) = c
  rw [hcrc, beNat_tagBytes, BitVec.ofNat_toNat, BitVec.setWidth_eq]

/-- A close whose count and CRC agree with a load that has not failed passes, where the law is kept and no block is open
that its table does not bear. -/
theorem closeRefusal_of_ok (hf : load.failure = none) (hcount : closeCount p = load.staged.count)
    (hcrc : closeCrc p = load.staged.crc) (hlaw : keepsLaw load.staged u.tables = true)
    (hs : load.staged.needsNoBlock = false ∨ u.planner.stream = .noBlock) : closeRefusal load p u = none := by
  have hblock : ¬ (load.staged.needsNoBlock = true ∧ u.planner.stream ≠ .noBlock) := by
    rcases hs with h | h <;> simp [h]
  simp only [closeRefusal, hf, hcount, hcrc, hlaw, ne_eq, not_true_eq_false, if_false, Bool.not_true,
    Bool.false_eq_true, if_neg hblock]

theorem dealTableClose_of_refused {reason : Reason} {data : List Byte} (hl : u.tables.load = some load)
    (h : closeRefusal load p u = some (reason, data)) (r : Setup) :
    dealTableClose r p u = refusePacket p reason data (abandonLoad u) := by
  simp only [dealTableClose, hl, h]

theorem dealTableClose_of_ok (hl : u.tables.load = some load) (h : closeRefusal load p u = none) (r : Setup) :
    dealTableClose r p u = acceptClose load.staged p (abandonLoad u) := by
  simp only [dealTableClose, hl, h]

/-- What a refusal comes to, in a contour and outside one. -/
theorem Takes.refusal_outcome (h : Takes k r p rest s) (hu : NoRecord r rest s u) (hrep : u.report = s.report)
    (hroom : s.report.responses.length < 16) (reason : Reason) (data : List Byte) :
    let t := plannerMoment (refusePacket p reason data u)
    t.report.responses = s.report.responses ++ [.held ⟨k, p.tag, .refused reason, data⟩] ∧
      t.tables = u.tables ∧ t.link = s.link.left r rest ∧ t.planner.stream = s.planner.stream ∧
      t.planner.trimDist = s.planner.trimDist ∧
      (s.planner.stream = .inContour → t.part.state = .fault ∧ t.part.record.cause = some .program) ∧
      (s.planner.stream ≠ .inContour → PlannerOnly s t) := by
  obtain ⟨hstays, htables, hresp⟩ := h.refused hu hrep reason data
  rw [← h.kind]
  refine ⟨hresp hroom, htables, hstays.link, hstays.stream, hstays.trimDist, fun hc => ?_,
    fun hc => (h.refused_outside hu hrep hc reason data).1.only⟩
  obtain ⟨hstill, hfault⟩ := h.refused_inside hu hrep hc reason data
  rw [hstill]
  exact ⟨hfault.state, by rw [hfault.record]⟩

/-- What an accepted close that makes no record comes to: its answer, behind which the rules are applied. -/
theorem Takes.answered (h : Takes k r p rest s) (hroom : s.report.responses.length < 16) (tables : TableStore) :
    let t := plannerMoment (postResponse ⟨k, p.tag, .accepted, []⟩ ((takeIntake rest s).setTables tables))
    t.tables = tables ∧ t.report.responses = s.report.responses ++ [.held ⟨k, p.tag, .accepted, []⟩] ∧
      t.link = s.link.left r rest ∧ PlannerOnly s t := by
  have hf := plannerMoment_frame (postResponse ⟨k, p.tag, .accepted, []⟩ ((takeIntake rest s).setTables tables))
  have ht := ((h.noRecord.setTables tables).post ⟨k, p.tag, .accepted, []⟩).moment h.window_lt
  refine ⟨hf.tables.trans (postResponse_tables _ _), ?_, ht.link, ht.only⟩
  rw [hf.report, postResponse_of_lt (by exact hroom)]
  rfl

end

/-- Settles O26: by the checks of Table 3.3 in order, and the kind of table that passes them. -/
theorem tableCloseIsJudged : Obligations.TableCloseIsJudged := by
  unfold Obligations.TableCloseIsJudged
  refine ⟨fun r p rest s staged h hload hcount hp hroom => ?_,
    fun r p rest s load count c reason data h hload hp hroom hcase => ?_, fun r p rest s h hload hroom => ?_⟩
  · obtain ⟨hfc, hfcrc⟩ := close_fields hp
    rw [BitVec.toNat_ofNat, Nat.mod_eq_of_lt hcount] at hfc
    have hexec : keepsLaw staged s.tables = true → staged.needsNoBlock = false ∨ s.planner.stream = .noBlock →
        exec .tableClose s = .next (plannerMoment (acceptClose staged p (abandonLoad (takeIntake rest s)))) :=
      fun hlaw hs => (h.deals dealTableClose).trans (by
        rw [dealTableClose_of_ok (u := takeIntake rest s) hload (closeRefusal_of_ok rfl hfc hfcrc hlaw hs)])
    refine ⟨fun es hst hlaw => ?_, fun es hst hs hlaw => ?_, fun es hst hs hheld => ?_,
      fun es hst hs hwin hqueue hidle => ?_⟩
    · subst hst
      have ht := h.answered hroom { s.tables with density := es, load := none }
      refine ⟨_, (hexec hlaw (.inl rfl)).trans ?_, ht⟩
      rw [acceptClose, h.kind]
      rfl
    · subst hst
      have ht := h.answered hroom { s.tables with zone := es, load := none }
      refine ⟨_, (hexec ?_ (.inr hs)).trans ?_, ht⟩
      · rcases hlaw with rfl | ⟨hpresent, hclasses⟩
        · rfl
        · simp [keepsLaw, hpresent, hclasses]
      · rw [acceptClose, h.kind]
        rfl
    · subst hst
      let v := (takeIntake rest s).setTables
        { s.tables with load := none, waiting := some ⟨lookupKey 0 es, p.tag⟩ }
      have hdeal : acceptClose (.blade es) p (abandonLoad (takeIntake rest s)) = beginStall v :=
        commitBlade_of_held (s := beginStall v) (by
          rw [beginStall_window, beginStall_eq]
          exact hheld)
      have hf := plannerMoment_frame (beginStall v)
      have honly : PlannerOnly v (plannerMoment (beginStall v)) := by
        refine PlannerOnly.trans (t := beginStall v) ?_ hf.only
        rw [beginStall_eq]
        exact setPlanner_only v _
      have hv : PlannerOnly s v := ⟨rfl, rfl, rfl, rfl, rfl, rfl⟩
      have hkeeps : (beginStall v).tables = v.tables ∧ (beginStall v).report = v.report ∧
          (beginStall v).link = v.link := by
        rw [beginStall_eq]
        exact ⟨rfl, rfl, rfl⟩
      obtain ⟨htables, hreport, hlink⟩ := hkeeps
      refine ⟨plannerMoment (beginStall v), (hexec rfl (.inr hs)).trans (by rw [hdeal]), hf.tables.trans htables,
        hf.report.trans hreport, (hf.link.trans hlink).trans h.takeIntake_link, hv.trans honly,
        fun hacts => beginStall_released (s := v) h.plannerWorks hacts, fun hd cap old hmem hold => ?_⟩
      have hcut : lastCut s.planner.window = some old := (lastCut_eq _).trans hold
      obtain ⟨w, tail, hwin⟩ : ∃ w tail, s.planner.window = w :: tail := by
        cases hs' : s.planner.window with
        | nil => rw [hs'] at hcut; cases hcut
        | cons w tail => exact ⟨w, tail, rfl⟩
      have hfixed : (beginStall v).planner.memory = .fixed hd cap old.exit := by
        rw [beginStall_of_cons (s := v) hwin]
        show v.planner.fixMemory.memory = _
        rw [Planner.fixMemory_of_inWindow (q := v.planner) hmem hcut]
      rw [plannerMoment_memory (by rw [hfixed]; exact settled_fixed _ _ _), hfixed]
    · subst hst
      let v := (takeIntake rest s).setTables
        { s.tables with load := none, waiting := some ⟨lookupKey 0 es, p.tag⟩ }
      have ht := h.answered hroom { s.tables with load := none, blade := lookupKey 0 es }
      refine ⟨_, (hexec rfl (.inr hs)).trans ?_, ht⟩
      show Host.Outcome.next (plannerMoment (commitBlade (beginStall v))) = _
      rw [beginStall_of_empty (s := v) hwin, commitBlade_of_waiting (s := v) rfl hwin hqueue hidle]
      show Host.Outcome.next (plannerMoment (postResponse _ ((takeIntake rest s).setTables
        { s.tables with load := none, blade := lookupKey 0 es, waiting := none }))) = _
      rw [← h.noStall]
  · obtain ⟨hfc, hfcrc⟩ := close_fields hp
    have hrefusal : closeRefusal load p (takeIntake rest s) = some (reason, data) := by
      rcases hcase with ⟨rfl, i, hfail, rfl⟩ | ⟨rfl, i, f, hfail, rfl⟩ | ⟨hfail, rfl, hcase⟩
      · simp only [closeRefusal, hfail, failureBytes]
      · simp only [closeRefusal, hfail, failureBytes]
      · rw [← hfc, ← hfcrc] at hcase
        rcases hcase with ⟨rfl, hcount⟩ | ⟨hcount, ⟨rfl, hcrc⟩ | ⟨hcrc, ⟨rfl, hlaw⟩ | ⟨hlaw, rfl, hneeds, hs⟩⟩⟩
        · simp only [closeRefusal, hfail, hcount, ne_eq, not_false_eq_true, if_true]
        · simp only [closeRefusal, hfail, hcount, hcrc, ne_eq, not_true_eq_false, not_false_eq_true, if_true, if_false]
        · simp only [closeRefusal, hfail, hcount, hcrc, hlaw, takeIntake_tables, ne_eq, not_true_eq_false, if_false,
            Bool.not_false, if_true]
        · simp only [closeRefusal, hfail, hcount, hcrc, hlaw, hneeds, hs, takeIntake_tables, takeIntake_planner, ne_eq,
            not_true_eq_false, not_false_eq_true, and_self, if_false, Bool.not_true, Bool.false_eq_true, if_true]
    have ht := h.refusal_outcome (h.noRecord.setTables { s.tables with load := none }) rfl hroom reason data
    exact ⟨_, (h.deals dealTableClose).trans (by
      rw [dealTableClose_of_refused (u := takeIntake rest s) hload hrefusal]; rfl), ht⟩
  · have ht := h.refusal_outcome h.noRecord rfl hroom .noLoad []
    exact ⟨_, (h.deals dealTableClose).trans (by rw [dealTableClose_of_none (u := takeIntake rest s) hload]), ht⟩

end Sys2Proof.Machine

/-! # CLOSE and BLOCK-END (R12, R13, R15, R64, R80) -/

namespace Sys2Proof.Machine

/-! ## Releasing what is due (R78, R80) -/

/-- How many of the records `due` can go behind the queue `before`: as room allows, up to one without its heading. -/
def releasable (before : List Record) (due : List WindowEntry) : Nat :=
  min (32 - before.length) (due.takeWhile fun w => !w.record.body.headless).length

/-- Of the records `due`, which stood at the head of the window behind the queue `before`, `gone` have been released,
and `behind` stands behind them in the window, not due. -/
structure DueGone (before : List Record) (due behind : List WindowEntry) (gone : Nat) (s : State) : Prop where
  le : gone ≤ releasable before due
  queue : s.executor.queue = before ++ (due.take gone).map fun w => w.record
  window : s.planner.window = due.drop gone ++ behind
  releasePoint : s.planner.releasePoint = if due.length ≤ gone then none else some (due.length - 1 - gone)

section
variable {before : List Record} {due behind : List WindowEntry} {gone : Nat} {s t : State}

theorem releasable_le (before : List Record) (due : List WindowEntry) : releasable before due ≤ due.length :=
  (Nat.min_le_right _ _).trans (List.takeWhile_prefix _).length_le

theorem DueGone.of_same (h : DueGone before due behind gone s) (hq : t.executor.queue = s.executor.queue)
    (hw : t.planner.window = s.planner.window) (hp : t.planner.releasePoint = s.planner.releasePoint) :
    DueGone before due behind gone t :=
  ⟨h.le, hq.trans h.queue, hw.trans h.window, hp.trans h.releasePoint⟩

theorem DueGone.dueCount (h : DueGone before due behind gone s) : s.planner.dueCount = due.length - gone := by
  have hp := h.releasePoint
  split at hp
  · next hle => rw [Planner.dueCount_of_none hp, Nat.sub_eq_zero_of_le hle]
  · next hnot =>
    rw [Planner.dueCount_of_some hp]
    omega

/-- Those of a list that have their heading, up to the first without one, are those of what it begins with, unless that
is passed whole. -/
theorem headed_append (l m : List WindowEntry) :
    min l.length ((l ++ m).takeWhile fun w => !w.record.body.headless).length =
      (l.takeWhile fun w => !w.record.body.headless).length := by
  have hle : (l.takeWhile fun w => !w.record.body.headless).length ≤ l.length := (List.takeWhile_prefix _).length_le
  rw [List.takeWhile_append]
  split
  · next hall =>
    rw [List.length_append]
    omega
  · omega

/-- The release rules release what is due, and no more: what stands behind is at most one record, and a packet waits or
two records and more stand before it. -/
theorem DueGone.releases (h : DueGone before due behind gone s) (hw : plannerWorks s = true)
    (hb : behind = [] ∨ (behind.length = 1 ∧ (s.link.intake ≠ [] ∨ 2 ≤ due.length + before.length))) :
    DueGone before due behind (releasable before due) (applyReleases s) := by
  have hlen : gone ≤ due.length := h.le.trans (releasable_le _ _)
  have hgone : gone ≤ (due.takeWhile fun w => !w.record.body.headless).length := h.le.trans (Nat.min_le_right _ _)
  have hqlen : s.executor.queue.length = before.length + gone := by
    rw [h.queue, List.length_append, List.length_map, List.length_take, Nat.min_eq_left hlen]
  have hcalled : max s.planner.dueCount (max (s.planner.window.length - 23)
      (if s.link.intake = [] then 2 - s.executor.queue.length else 0)) = due.length - gone ∨ behind = [] := by
    rcases hb with hb | ⟨hone, hrule⟩
    · exact .inr hb
    · left
      rw [h.dueCount, h.window, List.length_append, List.length_drop, hone, hqlen]
      split
      · next hi =>
        have := hrule.resolve_left (not_not_intro hi)
        omega
      · omega
  have hheaded : (((due.drop gone)).takeWhile fun w => !w.record.body.headless).length =
      (due.takeWhile fun w => !w.record.body.headless).length - gone := takeWhile_drop_length _ _ hgone
  have hcalls : s.callsFor s.executor.queue.length = releasable before due - gone := by
    rcases hcalled with hcalled | hb
    · rw [State.callsFor, hcalled, h.window, Nat.min_left_comm, ← List.length_drop, headed_append, hheaded, hqlen,
        releasable]
      omega
    · subst hb
      have hall : s.planner.window.length ≤ s.planner.dueCount := by
        rw [h.dueCount, h.window, List.append_nil, List.length_drop]
      rw [callsFor_of_allDue hall, h.window, List.append_nil, hheaded, hqlen, releasable]
      omega
  obtain ⟨hqueue, hwindow, hpoint⟩ := applyReleases_released hw
  have hsum : gone + (releasable before due - gone) = releasable before due := Nat.add_sub_cancel' h.le
  have hfit : releasable before due - gone ≤ (due.drop gone).length := by
    rw [List.length_drop]
    exact Nat.sub_le_sub_right (releasable_le _ _) _
  rw [hcalls, h.window] at hqueue hwindow
  rw [hcalls, h.dueCount] at hpoint
  refine ⟨le_rfl, ?_, ?_, ?_⟩
  · rw [hqueue, h.queue, List.take_append_of_le_length hfit, List.append_assoc, ← List.map_append]
    congr 2
    rw [← List.take_add, hsum]
  · rw [hwindow, List.drop_append_of_le_length hfit, List.drop_drop, hsum]
  · have hle := h.le
    rw [hpoint]
    split
    · rw [if_pos (by omega)]
    · rw [if_neg (by omega)]
      congr 1
      omega

/-- A stop makes the window up to it due as it is appended (R80). -/
theorem joinWindow_stop {w : WindowEntry} (hs : w.record.body.isStop = true) :
    (joinWindow w s).planner = { s.planner.fixMemory with
      window := s.planner.window ++ [w], releasePoint := some s.planner.window.length } := by
  show Planner.append _ _ w s.planner = _
  unfold Planner.append
  split
  · next c hb => rw [hb] at hs; cases hs
  · rw [if_pos (.inl hs)]

theorem appendRecord_stop {w : WindowEntry} (hs : w.record.body.isStop = true) (hw : plannerWorks s = true) :
    ∃ gone, DueGone s.executor.queue (s.planner.window ++ [w]) [] gone (appendRecord w s) := by
  have hframe := (startsWork_frame s).trans (joinWindow_frame w (startsWork s))
  have hplanner := joinWindow_stop (s := startsWork s) hs
  rw [startsWork_planner] at hplanner
  have hjoined : DueGone s.executor.queue (s.planner.window ++ [w]) [] 0 (joinWindow w (startsWork s)) :=
    ⟨Nat.zero_le _, by simp, by rw [hplanner]; simp, by rw [hplanner]; simp⟩
  unfold appendRecord releaseFull
  split
  · exact ⟨_, hjoined.releases (hframe.works hw) (.inl rfl)⟩
  · exact ⟨_, hjoined⟩

/-- The memory of a CUT in the window becomes fixed as a stop is appended, and stays so as records are released. -/
theorem appendRecord_fixes {w : WindowEntry} {heading cap : Nat} {c : CutRecord} (hs : w.record.body.isStop = true)
    (hm : s.planner.memory = .inWindow heading cap) (hc : lastCut s.planner.window = some c) :
    (appendRecord w s).planner.memory = .fixed heading cap c.exit := by
  have hplanner := joinWindow_stop (s := startsWork s) hs
  rw [startsWork_planner, Planner.fixMemory_of_inWindow hm hc] at hplanner
  have hjoined : (joinWindow w (startsWork s)).planner.memory = .fixed heading cap c.exit := by rw [hplanner]
  unfold appendRecord releaseFull
  split
  · rw [applyReleases_memory (by rw [hjoined]; exact settled_fixed _ _ _), hjoined]
  · exact hjoined

end

/-! ## Headings filled in (R11, R13) -/

section
variable {s : State} {w : WindowEntry}

theorem WindowEntry.fill_tag (h : Nat) (w : WindowEntry) : (w.fill h).record.tag = w.record.tag := by
  unfold WindowEntry.fill
  split <;> rfl

theorem WindowEntry.fill_actions (h : Nat) (w : WindowEntry) : (w.fill h).record.actions = w.record.actions := by
  unfold WindowEntry.fill
  split <;> rfl

theorem WindowEntry.fill_travel {h : Nat} {x y : Int} (hb : w.record.body = .travel x y none) :
    (w.fill h).record.body = .travel x y (some h) := by
  simp only [WindowEntry.fill, hb]

theorem WindowEntry.fill_enter {h v : Nat} {x y : Int} (hb : w.record.body = .enter x y none v) :
    (w.fill h).record.body = .enter x y (some h) v := by
  simp only [WindowEntry.fill, hb]

theorem WindowEntry.fill_of_headed {h : Nat} (hb : w.record.body.headless = false) : w.fill h = w := by
  unfold WindowEntry.fill
  split
  · next he => rw [he] at hb; cases hb
  · next he => rw [he] at hb; cases hb
  · rfl

theorem WindowEntry.fill_cut (h : Nat) (w : WindowEntry) : (w.fill h).record.body.cut? = w.record.body.cut? := by
  unfold WindowEntry.fill
  split
  · next he => rw [he]; rfl
  · next he => rw [he]; rfl
  · rfl

/-- An entry of the window with the heading of the open contour, if it is one of its records. -/
def WindowEntry.filled (h : Option Nat) (w : WindowEntry) : WindowEntry :=
  match h with
  | some h => if w.ofOpenContour then w.fill h else w
  | none => w

theorem WindowEntry.filled_of_other (h : Option Nat) (hw : h = none ∨ w.ofOpenContour = false) : w.filled h = w := by
  cases h with
  | none => rfl
  | some h =>
    rw [WindowEntry.filled, hw.resolve_left (Option.some_ne_none h)]
    rfl

theorem WindowEntry.filled_of_open {h : Nat} (hw : w.ofOpenContour = true) : w.filled (some h) = w.fill h := by
  rw [WindowEntry.filled, hw]
  rfl

theorem WindowEntry.filled_tag (h : Option Nat) (w : WindowEntry) : (w.filled h).record.tag = w.record.tag := by
  unfold WindowEntry.filled
  split
  · split
    · exact WindowEntry.fill_tag _ w
    · rfl
  · rfl

theorem WindowEntry.filled_actions (h : Option Nat) (w : WindowEntry) :
    (w.filled h).record.actions = w.record.actions := by
  unfold WindowEntry.filled
  split
  · split
    · exact WindowEntry.fill_actions _ w
    · rfl
  · rfl

theorem WindowEntry.filled_cut (h : Option Nat) (w : WindowEntry) :
    (w.filled h).record.body.cut? = w.record.body.cut? := by
  unfold WindowEntry.filled
  split
  · split
    · exact WindowEntry.fill_cut _ w
    · rfl
  · rfl

theorem lastCut_map {f : WindowEntry → WindowEntry} (hf : ∀ w, (f w).record.body.cut? = w.record.body.cut?)
    (l : List WindowEntry) : lastCut (l.map f) = lastCut l := by
  rw [lastCut_eq, lastCut_eq, List.filterMap_map]
  congr 2
  exact funext hf

/-- The heading that the records of a stab take at its CLOSE, if the contour is one (R13). -/
def ContourRecord.stab (k : ContourRecord) (s : State) : Option Nat :=
  match k.cutPlunge with
  | none => stabHeading s
  | some _ => none

theorem fillStab_window (k : ContourRecord) (s : State) :
    fillStab k s = s.setPlanner { s.planner with window := s.planner.window.map (WindowEntry.filled (k.stab s)) } := by
  unfold fillStab ContourRecord.stab
  cases hk : k.cutPlunge with
  | none =>
    cases hs : stabHeading s with
    | none =>
      show s = _
      rw [show WindowEntry.filled none = id from rfl, List.map_id]
      rfl
    | some h => rfl
  | some v =>
    show s = _
    rw [show WindowEntry.filled none = id from rfl, List.map_id]
    rfl

end

/-! ## CLOSE -/

section
variable {k : ContourRecord} {blade : BladeEntry} {p : Packet} {u : State}

/-- The entries of the window, with the headings of a stab and no longer of an open contour. -/
def closedWindow (k : ContourRecord) (s : State) : List WindowEntry :=
  closeMarks (s.planner.window.map (WindowEntry.filled (k.stab s)))

/-- The LEAVE that a CLOSE makes (R12, R64). -/
def leaveRecord (k : ContourRecord) (blade : BladeEntry) (p : Packet) (s : State) : Record :=
  ⟨p.tag, s.planner.actions, .leave (leaveSpeed k) (trimDue blade s.planner.trimDist)⟩

/-- The state that the LEAVE is appended to: headings filled in, marks dropped, the trim distance and the pending
actions taken. -/
def beforeLeave (k : ContourRecord) (blade : BladeEntry) (s : State) : State :=
  s.setPlanner { s.planner with
    window := closedWindow k s
    trimDist := if trimDue blade s.planner.trimDist then 0 else s.planner.trimDist
    actions := [] }

/-- The LEAVE is made of the pending actions, in a window whose headings are filled in and whose marks are dropped. -/
theorem makeLeave_eq (k : ContourRecord) (tag : Tag) (speed : Nat) (due : Bool) (s : State) :
    makeRecord tag (.leave speed due) 0 false (beginLeave due (fillStab k s)) =
      appendRecord ⟨⟨tag, s.planner.actions, .leave speed due⟩, 0, false⟩ (s.setPlanner { s.planner with
        window := closedWindow k s
        trimDist := if due then 0 else s.planner.trimDist
        actions := [] }) := by
  rw [fillStab_window]
  rfl

theorem closeContour_eq (k : ContourRecord) (blade : BladeEntry) (p : Packet) (s : State) :
    closeContour k blade p s =
      leaveContour (appendRecord ⟨leaveRecord k blade p s, 0, false⟩ (beforeLeave k blade s)) :=
  congrArg leaveContour (makeLeave_eq k p.tag (leaveSpeed k) (trimDue blade s.planner.trimDist) s)

theorem closedWindow_records (k : ContourRecord) (s : State) :
    (closedWindow k s).map (fun w => w.record) =
      s.planner.window.map (fun w => (w.filled (k.stab s)).record) := by
  simp [closedWindow, closeMarks, Function.comp_def]

theorem closedWindow_lastCut (k : ContourRecord) (s : State) :
    lastCut (closedWindow k s) = lastCut s.planner.window := by
  rw [closedWindow, closeMarks, lastCut_map (f := fun w => { w with ofOpenContour := false }) fun _ => rfl,
    lastCut_map (WindowEntry.filled_cut _)]

/-- What a CLOSE comes to, but for the records' own headings: the records, the queue and the release point, the marks
and the memory. -/
structure Closed (k : ContourRecord) (blade : BladeEntry) (p : Packet) (u t : State) : Prop where
  records : t.records = u.executor.queue ++
    u.planner.window.map (fun w => (w.filled (k.stab u)).record) ++ [leaveRecord k blade p u]
  gone : DueGone u.executor.queue (closedWindow k u ++ [⟨leaveRecord k blade p u, 0, false⟩]) []
    (releasable u.executor.queue (closedWindow k u ++ [⟨leaveRecord k blade p u, 0, false⟩])) t
  stream : t.planner.stream = .inBlock
  prev : t.planner.prev = none
  contour : t.planner.contour = none
  actions : t.planner.actions = []
  block : t.planner.block = u.planner.block
  plannedHeading : t.planner.plannedHeading = u.planner.plannedHeading
  trimDist : t.planner.trimDist = if trimDue blade u.planner.trimDist then 0 else u.planner.trimDist
  memory : ∀ heading cap c, u.planner.memory = .inWindow heading cap → lastCut u.planner.window = some c →
    t.planner.memory = .fixed heading cap c.exit

theorem closeContour_closed (k : ContourRecord) (blade : BladeEntry) (p : Packet) (hw : plannerWorks u = true) :
    Closed k blade p u (plannerMoment (closeContour k blade p u)) := by
  rw [closeContour_eq]
  generalize hmade : appendRecord ⟨leaveRecord k blade p u, 0, false⟩ (beforeLeave k blade u) = made
  have hframe : PlanFrame (beforeLeave k blade u) made := hmade ▸ appendRecord_frame _ _
  have hactions : (leaveContour made).planner.actions = [] := by
    show made.planner.actions = []
    rw [← hmade, appendRecord_actions]
    rfl
  rw [plannerMoment_of_noActions hactions]
  have hf := applyReleases_frame (leaveContour made)
  obtain ⟨gone, hgone⟩ := appendRecord_stop (w := ⟨leaveRecord k blade p u, 0, false⟩) (s := beforeLeave k blade u)
    rfl hw
  rw [hmade] at hgone
  exact {
    records := by
      rw [applyReleases_records]
      show made.records = _
      rw [← hmade, appendRecord_records rfl]
      show u.executor.queue ++ (closedWindow k u).map _ ++ _ = _
      rw [closedWindow_records]
    gone := DueGone.releases (s := leaveContour made) (hgone.of_same rfl rfl rfl) (hframe.works hw) (.inl rfl)
    stream := hf.stream
    prev := hf.prev
    contour := hf.contour
    actions := (applyReleases_actions _).trans hactions
    block := hf.block.trans hframe.block
    plannedHeading := hf.plannedHeading.trans hframe.plannedHeading
    trimDist := hf.trimDist.trans hframe.trimDist
    memory := fun heading cap c hm hc => by
      have hfixed : (leaveContour made).planner.memory = .fixed heading cap c.exit := by
        show made.planner.memory = _
        rw [← hmade]
        refine appendRecord_fixes rfl hm ?_
        exact (closedWindow_lastCut k u).trans hc
      rw [applyReleases_memory (by rw [hfixed]; exact settled_fixed _ _ _), hfixed] }

theorem Closed.handled {r : Setup} {rest : List Packet} {s : State} (h : Handled r rest s u) :
    Handled r rest s (plannerMoment (closeContour k blade p u)) := by
  rw [closeContour_eq]
  exact (((h.setPlanner _).frame (appendRecord_frame _ (beforeLeave k blade u))).setPlanner _).moment

/-- What is released at a CLOSE, counted among the records. -/
theorem Closed.queue {t : State} (h : Closed k blade p u t) :
    let n := min (32 - u.executor.queue.length)
      ((t.records.drop u.executor.queue.length).takeWhile fun q => !q.body.headless).length
    t.executor.queue = t.records.take (u.executor.queue.length + n) ∧
      t.planner.releasePoint =
        if u.planner.window.length < n then none else some (u.planner.window.length - n) := by
  have hbehind : t.records.drop u.executor.queue.length =
      (closedWindow k u ++ [(⟨leaveRecord k blade p u, 0, false⟩ : WindowEntry)]).map fun w => w.record := by
    rw [h.records, List.append_assoc, List.drop_left, List.map_append, closedWindow_records]
    rfl
  have hlen : (closedWindow k u).length = u.planner.window.length := by simp [closedWindow, closeMarks]
  have hcount : releasable u.executor.queue (closedWindow k u ++ [⟨leaveRecord k blade p u, 0, false⟩]) =
      min (32 - u.executor.queue.length)
        ((t.records.drop u.executor.queue.length).takeWhile fun q => !q.body.headless).length := by
    rw [hbehind, List.takeWhile_map, List.length_map]
    rfl
  have hgone := h.gone
  rw [hcount] at hgone
  dsimp only
  generalize min (32 - u.executor.queue.length)
    ((t.records.drop u.executor.queue.length).takeWhile fun q => !q.body.headless).length = n at hgone
  refine ⟨?_, ?_⟩
  · rw [hgone.queue, List.map_take, ← hbehind]
    conv_rhs => rw [← List.take_append_drop u.executor.queue.length t.records]
    have hfront : t.records.take u.executor.queue.length = u.executor.queue := by
      rw [h.records, List.append_assoc, List.take_left]
    rw [hfront, List.take_append, List.take_of_length_le (Nat.le_add_right _ _), Nat.add_sub_cancel_left]
  · rw [hgone.releasePoint, List.length_append, List.length_singleton, hlen]
    split
    · rw [if_pos (by omega)]
    · rw [if_neg (by omega), Nat.add_sub_cancel]

end

/-- Settles O13: `Closed` says what a CLOSE comes to, and a BLOCK-END makes one record. -/
theorem closeAndBlockEnd : Obligations.CloseAndBlockEnd := by
  unfold Obligations.CloseAndBlockEnd
  refine ⟨fun r p rest s k blade h hs hk hblade => ?_, fun r p rest s b h hs hb => ?_⟩
  · have hdeal : dealClose r p (takeIntake rest s) = .ok (closeContour k blade p (takeIntake rest s)) := by
      simp only [dealClose, takeIntake_planner, takeIntake_tables, hs, hk, hblade]
    have hc := closeContour_closed (u := takeIntake rest s) k blade p h.plannerWorks
    have hhandled := Closed.handled (k := k) (blade := blade) (p := p) h.handled
    have hexec := h.takeAndTry hdeal
    have hprefix : s.executor.queue <+: (plannerMoment (closeContour k blade p (takeIntake rest s))).records := by
      rw [hc.records, List.append_assoc]
      exact List.prefix_append _ _
    have hdue : trimDue blade s.planner.trimDist = decide (blade.trimInterval * 1000000 ≤ s.planner.trimDist) := rfl
    obtain ⟨hqueue, hpoint⟩ := hc.queue
    refine ⟨_, hexec, ?_, ?_, hprefix, fun v hv => ?_, fun i w hw => ?_, fun w hw => ?_, ?_, hc.stream, hc.prev,
      hc.contour, hc.actions, hc.block, hc.plannedHeading, hhandled.link, hhandled.tables, hhandled.report,
      hhandled.only, ⟨hqueue, hpoint⟩, fun hd cap old hm hold => hc.memory hd cap old hm ((lastCut_eq _).trans hold)⟩
    · rw [hc.records, List.getLast?_append, List.getLast?_singleton]
      exact congrArg (fun due => some (Record.mk p.tag s.planner.actions (.leave _ due))) hdue
    · rw [hc.records, State.records]
      simp [Nat.add_assoc]
    · rw [hc.records, List.dropLast_concat, ContourRecord.stab, hv]
      rfl
    · intro stab
      have hstab : stab = stabHeading (takeIntake rest s) := by
        simp only [stab, stabHeading, takeIntake_planner, takeIntake_executor]
        cases s.planner.plannedHeading <;> cases s.executor.position <;> rfl
      rw [hstab]
      refine ⟨(w.filled (k.stab (takeIntake rest s))).record, ?_, WindowEntry.filled_tag _ _,
        WindowEntry.filled_actions _ _, fun hnone hopen hd hheading => ?_, fun hother => ?_⟩
      · have hi : i < s.planner.window.length := (List.getElem?_eq_some_iff.1 hw).1
        rw [hc.records, List.append_assoc, takeIntake_executor, takeIntake_planner,
          List.getElem?_append_right (Nat.le_add_right _ _), Nat.add_sub_cancel_left,
          List.getElem?_append_left (by simpa using hi), List.getElem?_map, hw]
        rfl
      · have hfilled : k.stab (takeIntake rest s) = some hd := by
          rw [ContourRecord.stab, hnone]
          exact hheading
        rw [hfilled, WindowEntry.filled_of_open hopen]
        exact ⟨fun x y => WindowEntry.fill_travel, fun x y v => WindowEntry.fill_enter⟩
      · rw [WindowEntry.filled_of_other _ (hother.imp_left fun hnone => ?_)]
        rw [ContourRecord.stab, hnone]
        cases k.cutPlunge <;> rfl
    · rw [hc.gone.window, List.append_nil] at hw
      rcases List.mem_append.1 (List.mem_of_mem_drop hw) with hold | hnew
      · obtain ⟨v, -, rfl⟩ := List.mem_map.1 hold
        rfl
      · rw [List.mem_singleton.1 hnew]
    · rw [hc.trimDist, takeIntake_planner, hdue]
      simp only [decide_eq_true_eq]
  · have hdeal : dealBlockEnd r p (takeIntake rest s) =
        leaveBlock (makeRecord p.tag (.blockDone b.tag) 0 false (takeIntake rest s)) := by
      simp only [dealBlockEnd, takeIntake_planner, hs, hb]
    have hframe := makeRecord_frame p.tag (.blockDone b.tag) 0 false (takeIntake rest s)
    have hactions := makeRecord_actions p.tag (.blockDone b.tag) 0 false (takeIntake rest s)
    have hrecords : (makeRecord p.tag (.blockDone b.tag) 0 false (takeIntake rest s)).records =
        s.records ++ [⟨p.tag, s.planner.actions, .blockDone b.tag⟩] := makeRecord_records rfl
    generalize makeRecord p.tag (.blockDone b.tag) 0 false (takeIntake rest s) = made
      at hdeal hframe hactions hrecords
    have hf := applyReleases_frame (leaveBlock made)
    have hleft : Handled r rest s (leaveBlock made) := (h.handled.frame hframe).setPlanner _
    have hhandled := hleft.frame hf
    refine ⟨applyReleases (leaveBlock made), (h.deals dealBlockEnd).trans ?_, (applyReleases_records _).trans hrecords,
      hf.stream, hf.block, (applyReleases_actions _).trans hactions, hf.prev.trans hframe.prev,
      hf.contour.trans hframe.contour, hf.plannedHeading.trans hframe.plannedHeading,
      hf.trimDist.trans hframe.trimDist, hhandled.link, hhandled.tables, hhandled.report, hhandled.only⟩
    rw [hdeal, plannerMoment_of_noActions (s := leaveBlock made) hactions]

end Sys2Proof.Machine

/-! # CUT (R10, R11, R53, R67 to R73, R76, R80) -/

namespace Sys2Proof.Machine

/-! ## Records but for their planned speeds -/

/-- The record `q` is the record `w` but for the planned speeds of a CUT. -/
theorem Record.of_unplanned_eq {q w : Record} (h : q.unplanned = w.unplanned) :
    q.tag = w.tag ∧ q.actions = w.actions ∧ (w.body.cut? = none → q = w) ∧
      (∀ old, w.body = .cut old → ∃ en ex, q.body = .cut { old with entry := en, exit := ex }) := by
  refine ⟨?_, ?_, fun hw => ?_, fun old hold => ?_⟩
  · rw [← Record.unplanned_tag q, h, Record.unplanned_tag]
  · rw [← Record.unplanned_actions q, h, Record.unplanned_actions]
  · rw [Record.unplanned_of_cut? hw] at h
    exact Record.eq_of_unplanned h hw
  · have hbody : q.unplanned.body = .cut { old with entry := 0, exit := 0 } := by
      rw [h, Record.unplanned, hold]
    cases hq : q.body with
    | cut c =>
      rw [Record.unplanned, hq] at hbody
      simp only [Body.cut.injEq] at hbody
      refine ⟨c.entry, c.exit, ?_⟩
      rw [Body.cut.injEq]
      cases c
      cases old
      simp_all
    | _ =>
      rw [Record.unplanned_of_cut? (by rw [hq]; rfl), hq] at hbody
      cases hbody

/-! ## The heading of the contour's first CUT -/

section
variable {k : ContourRecord} {blade : BladeEntry} {b : PlannedBlock} {c : CutRecord} {p : Packet} {v t : State}

/-- The heading that the open contour's TRAVEL and ENTER take from a CUT, if it is the contour's first (R11). -/
def ContourRecord.first (k : ContourRecord) (heading : Nat) : Option Nat :=
  match k.cutPlunge with
  | none => some heading
  | some _ => none

theorem filled_none (l : List WindowEntry) : l.map (WindowEntry.filled none) = l := by
  rw [show WindowEntry.filled none = id from rfl, List.map_id]

theorem fillFirst_window (k : ContourRecord) (heading : Nat) (s : State) :
    fillFirst k heading s = s.setPlanner
      { s.planner with window := s.planner.window.map (WindowEntry.filled (k.first heading)) } := by
  unfold fillFirst ContourRecord.first
  cases k.cutPlunge with
  | none => rfl
  | some v =>
    show s = _
    rw [filled_none]
    rfl

/-! ## The junction -/

theorem junctionOf_speed {h1 c1 h2 c2 d : Nat} {snap : Snapshot}
    (h : (junctionOf blade h1 c1 h2 c2 snap d).pivot ≠ none) : (junctionOf blade h1 c1 h2 c2 snap d).speed = 0 := by
  unfold junctionOf at h ⊢
  split
  · rfl
  · next hover =>
    rw [if_neg hover] at h
    split
    · next hclass => rw [hclass] at h; exact absurd rfl h
    · rfl
    · rfl

/-- The first CUT of a contour forms no junction; another takes heading and cap of the CUT before it from the memory. -/
theorem junctionFor_cases (cutMade : Bool) (memory : PrevCut) (h2 c2 : Nat) (snap : Snapshot) (d : Nat) :
    junctionFor blade cutMade memory h2 c2 snap d = ⟨none, 0, d⟩ ∨ (cutMade = true ∧ ∃ h1 c1,
      junctionFor blade cutMade memory h2 c2 snap d = junctionOf blade h1 c1 h2 c2 snap d) := by
  unfold junctionFor
  split
  · exact .inr ⟨rfl, _, _, rfl⟩
  · exact .inr ⟨rfl, _, _, rfl⟩
  · exact .inl rfl

/-- Only a CUT that is not its contour's first has a PIVOT before it, and the junction speed is then 0 (R53, R57). -/
theorem cutJunction_pivot (h : (cutJunction k blade c v).pivot ≠ none) :
    k.cutPlunge ≠ none ∧ (cutJunction k blade c v).speed = 0 := by
  unfold cutJunction at h ⊢
  rcases junctionFor_cases (blade := blade) k.cutPlunge.isSome v.planner.memory c.heading c.cap c.snap
    v.planner.trimDist with hnone | ⟨hmade, h1, c1, hjunction⟩
  · rw [hnone] at h
    exact absurd rfl h
  · rw [hjunction] at h ⊢
    exact ⟨Option.isSome_iff_ne_none.1 hmade, junctionOf_speed h⟩

/-! ## The records -/

/-- The state in which a CUT's own record is made: the PIVOT of its junction made, headings filled in. -/
def beforeCut (k : ContourRecord) (blade : BladeEntry) (c : CutRecord) (tag : Tag) (s : State) : State :=
  fillFirst k c.heading (makePivot tag (cutJunction k blade c s).pivot
    (setTrimDist (cutJunction k blade c s).trimDist s))

/-- The state with the CUT's record made. -/
def withCut (k : ContourRecord) (blade : BladeEntry) (c : CutRecord) (tag : Tag) (s : State) : State :=
  makeRecord tag (.cut c) (cutJunction k blade c s).speed false (beforeCut k blade c tag s)

/-- What of the Planner a CUT leaves alone until its context is set, and the trim distance that its junction leaves. -/
structure CutContext (d : Nat) (s t : State) : Prop where
  stream : t.planner.stream = s.planner.stream
  block : t.planner.block = s.planner.block
  trimDist : t.planner.trimDist = d
  works : plannerWorks s = true → plannerWorks t = true
  link : t.link = s.link
  setup : t.part.setup = s.part.setup

theorem CutContext.frame {d : Nat} {s t u : State} (h : CutContext d s t) (hf : PlanFrame t u) : CutContext d s u where
  stream := hf.stream.trans h.stream
  block := hf.block.trans h.block
  trimDist := hf.trimDist.trans h.trimDist
  works hw := hf.works (h.works hw)
  link := hf.link.trans h.link
  setup := hf.setup.trans h.setup

theorem beforeCut_context (k : ContourRecord) (blade : BladeEntry) (c : CutRecord) (tag : Tag) (s : State) :
    CutContext (cutJunction k blade c s).trimDist s (beforeCut k blade c tag s) := by
  have hset : CutContext (cutJunction k blade c s).trimDist s (setTrimDist (cutJunction k blade c s).trimDist s) :=
    ⟨rfl, rfl, rfl, id, rfl, rfl⟩
  have hpivot := hset.frame (makePivot_frame tag (cutJunction k blade c s).pivot _)
  unfold beforeCut
  rw [fillFirst_window]
  exact ⟨hpivot.stream, hpivot.block, hpivot.trimDist, hpivot.works, hpivot.link, hpivot.setup⟩

theorem beforeCut_handled {r : Setup} {rest : List Packet} {s : State} (h : Handled r rest s v) (tag : Tag) :
    Handled r rest s (beforeCut k blade c tag v) := by
  unfold beforeCut
  rw [fillFirst_window]
  exact ((h.setPlanner { v.planner with trimDist := _ }).frame (makePivot_frame tag _ _)).setPlanner _

theorem beforeCut_actions (tag : Tag) : (beforeCut k blade c tag v).planner.actions =
    if (cutJunction k blade c v).pivot.isSome then [] else v.planner.actions := by
  unfold beforeCut
  rw [fillFirst_window]
  exact makePivot_actions _ _ _

/-- The PIVOT that the junction makes, as a record. -/
def pivotRecords (tag : Tag) (actions : List Machine.Action) (pivot : Option PivotRecord) : List Record :=
  match pivot with
  | some pv => [⟨tag, actions, .pivot pv⟩]
  | none => []

/-- The records before the CUT's own: those held, with the heading of the contour's first CUT, and the PIVOT. -/
theorem beforeCut_records (tag : Tag) : (beforeCut k blade c tag v).records =
    v.executor.queue ++ v.planner.window.map (fun w => (w.filled (k.first c.heading)).record) ++
      pivotRecords tag v.planner.actions (cutJunction k blade c v).pivot := by
  unfold beforeCut
  rw [fillFirst_window]
  cases hpv : (cutJunction k blade c v).pivot with
  | none =>
    simp only [makePivot, State.records, State.setPlanner_executor, State.setPlanner_planner, List.map_map, setTrimDist,
      pivotRecords, List.append_nil]
    rfl
  | some pv =>
    have hk : k.first c.heading = none := by
      obtain ⟨hmade, -⟩ := cutJunction_pivot (k := k) (blade := blade) (c := c) (v := v) (by simp [hpv])
      unfold ContourRecord.first
      split
      · next hn => exact absurd hn hmade
      · rfl
    rw [hk, filled_none]
    exact makePivot_records tag (some pv) (setTrimDist (cutJunction k blade c v).trimDist v)

/-- The CUT's record stands behind the others, which keep all but the planned speeds of CUTs. -/
theorem withCut_records (tag : Tag) (h0 : c.entry = 0) (hx : c.exit = 0) :
    ∃ l entry, entry ≤ c.cap ∧ (withCut k blade c tag v).records = l ++
      [⟨tag, if (cutJunction k blade c v).pivot.isSome then [] else v.planner.actions,
        .cut { c with entry := entry, exit := 0 }⟩] ∧
      l.map Record.unplanned = (v.executor.queue ++
        v.planner.window.map (fun w => (w.filled (k.first c.heading)).record) ++
        pivotRecords tag v.planner.actions (cutJunction k blade c v).pivot).map Record.unplanned := by
  obtain ⟨l, entry, he, hrecords, hl⟩ := makeRecord_cut (tag := tag) (c := c)
    (j := (cutJunction k blade c v).speed) (o := false) (s := beforeCut k blade c tag v) h0 hx
  rw [beforeCut_actions] at hrecords
  rw [beforeCut_records] at hl
  exact ⟨l, entry, he, hrecords, hl⟩

/-! ## The memory -/

/-- The newest CUT, of heading and cap `c`'s and exit 0, is the memory's: in the window as long as it stands there, at
its tail, and fixed once it has been released (R70). -/
def RemembersCut (c : CutRecord) (s : State) : Prop :=
  (s.planner.window = [] ∧ s.planner.memory = .fixed c.heading c.cap 0) ∨
    (∃ l w k, s.planner.window = l ++ [w] ∧ w.record.body = .cut k ∧ k.exit = 0 ∧
      s.planner.memory = .inWindow c.heading c.cap)

theorem lastCut_append_cut {l : List WindowEntry} {w : WindowEntry} {k : CutRecord} (h : w.record.body = .cut k) :
    lastCut (l ++ [w]) = some k := by
  rw [lastCut_eq, List.filterMap_append, List.filterMap_cons, h]
  simp [Body.cut?]

theorem RemembersCut.releaseHead {s : State} (h : RemembersCut c s) : RemembersCut c (releaseHead s) := by
  rcases h with ⟨hwin, hm⟩ | ⟨l, w, q, hwin, hb, hx, hm⟩
  · left
    unfold Machine.releaseHead
    rw [hwin]
    exact ⟨hwin, hm⟩
  · cases l with
    | nil =>
      left
      unfold Machine.releaseHead
      rw [hwin]
      refine ⟨rfl, ?_⟩
      show (s.planner.release w []).memory = _
      simp only [Planner.release, hb, hm, Body.cut?, lastCut, hx]
    | cons w0 l =>
      right
      unfold Machine.releaseHead
      rw [hwin]
      refine ⟨l, w, q, rfl, hb, hx, ?_⟩
      show (s.planner.release w0 (l ++ [w])).memory = _
      rw [Planner.release, lastCut_append_cut hb, hm]
      cases w0.record.body.cut? <;> rfl

theorem RemembersCut.releases {s : State} (h : RemembersCut c s) : RemembersCut c (applyReleases s) :=
  releaseLoop_induct (P := RemembersCut c) (fun _ hu _ _ _ => hu.releaseHead) _ s h

/-- A CUT appended is the memory's (R70). -/
theorem joinWindow_remembers {w : WindowEntry} {s : State} (hb : w.record.body = .cut c) (h0 : c.entry = 0)
    (hx : c.exit = 0) : RemembersCut c (joinWindow w s) := by
  right
  unfold joinWindow Planner.append
  simp only [hb]
  obtain ⟨l, e, -, hwin⟩ := Planner.replan_snoc s.accel (p := { s.planner with
      window := s.planner.window ++ [w]
      memory := .inWindow c.heading c.cap
      boundary := if (lastCut (s.planner.window.drop s.planner.dueCount)).isNone then s.planner.memory.boundary
        else s.planner.boundary }) (l := s.planner.window) rfl hb h0 hx
  exact ⟨l, _, _, hwin, rfl, rfl, rfl⟩

theorem withCut_remembers (tag : Tag) (h0 : c.entry = 0) (hx : c.exit = 0) :
    RemembersCut c (withCut k blade c tag v) := by
  unfold withCut makeRecord appendRecord releaseFull
  generalize hj : joinWindow _ _ = u
  have hu : RemembersCut c u := hj ▸ joinWindow_remembers rfl h0 hx
  split
  · exact hu.releases
  · exact hu

end

end Sys2Proof.Machine

/-! # What a CUT comes to (R10, R11, R71 to R73, R80) -/

namespace Sys2Proof.Machine

section
variable {k : ContourRecord} {blade : BladeEntry} {b : PlannedBlock} {c : CutRecord} {p : Packet} {v s t : State}

/-! ## A CUT behind a PIVOT -/

/-- Behind records that are all due, a CUT of junction speed 0 begins a run of its own, with speeds 0. -/
theorem Planner.append_cut_of_allDue {w : WindowEntry} {a : Nat} {stalled : Bool} {q : Planner}
    (hb : w.record.body = .cut c) (h0 : c.entry = 0) (hx : c.exit = 0) (hj : w.junction = 0)
    (hdue : q.dueCount = q.window.length) :
    (q.append a stalled w).window = q.window ++ [w] ∧ (q.append a stalled w).releasePoint = q.releasePoint := by
  have hw : w.withCut { c with entry := 0, exit := 0 } = w := by
    obtain ⟨⟨tag, actions, body⟩, junction, o⟩ := w
    obtain rfl : body = .cut c := hb
    have hc : { c with entry := 0, exit := 0 } = c := by
      cases c
      subst h0 hx
      rfl
    exact congrArg (fun c => WindowEntry.mk ⟨tag, actions, .cut c⟩ junction o) hc
  have hback : (planBackward a [w]).1 = [w] := by
    rw [planBackward, hb]
    show [w.withCut { c with entry := min c.cap (min w.junction _), exit := 0 }] = [w]
    rw [hj, Nat.zero_min, Nat.min_zero, hw]
  have hplan : ∀ boundary, planForward a boundary [w] = [w] := fun boundary => by
    rw [planForward, hb]
    show [w.withCut { c with entry := min c.entry boundary, exit := min c.exit _ }] = [w]
    rw [h0, hx, Nat.zero_min, Nat.zero_min, hw]
  unfold Planner.append
  simp only [hb]
  refine ⟨?_, rfl⟩
  show (q.window ++ [w]).take q.dueCount ++ planForward a _ (planBackward a ((q.window ++ [w]).drop q.dueCount)).1 = _
  rw [hdue, List.take_left, List.drop_left, hback, hplan]

/-- Behind a PIVOT the CUT is appended to records that are due, and what is due is released. -/
theorem DueGone.appendCut {before : List Record} {due : List WindowEntry} {gone : Nat} {w : WindowEntry}
    (h : DueGone before due [] gone s) (hw : plannerWorks s = true) (hb : w.record.body = .cut c) (h0 : c.entry = 0)
    (hx : c.exit = 0) (hj : w.junction = 0) (hrule : s.link.intake ≠ [] ∨ 2 ≤ due.length + before.length) :
    ∃ gone', DueGone before due [w] gone' (appendRecord w s) := by
  have hframe := (startsWork_frame s).trans (joinWindow_frame w (startsWork s))
  have hdue : s.planner.dueCount = s.planner.window.length := by
    rw [h.dueCount, h.window, List.append_nil, List.length_drop]
  have hjoined : DueGone before due [w] gone (joinWindow w (startsWork s)) := by
    obtain ⟨hwin, hpoint⟩ := Planner.append_cut_of_allDue (a := (startsWork s).accel)
      (stalled := (startsWork s).tables.waiting.isSome) hb h0 hx hj hdue
    refine ⟨h.le, (congrArg Executor.queue (startsWork_executor s)).trans h.queue, ?_, ?_⟩
    · show (Planner.append _ _ w (startsWork s).planner).window = _
      rw [startsWork_planner, hwin, h.window, List.append_nil]
    · show (Planner.append _ _ w (startsWork s).planner).releasePoint = _
      rw [startsWork_planner, hpoint, h.releasePoint]
  unfold appendRecord releaseFull
  split
  · exact ⟨_, hjoined.releases (hframe.works hw) (.inr ⟨rfl, by rwa [hframe.link]⟩)⟩
  · exact ⟨_, hjoined⟩

/-- The CUT's record as the window holds it. -/
def cutEntry (tag : Tag) (actions : List Machine.Action) (c : CutRecord) (speed : Nat) : WindowEntry :=
  ⟨⟨tag, actions, .cut c⟩, speed, false⟩

/-- The PIVOT makes the window up to it due, and the CUT begins a new run behind it. -/
theorem withCut_dueGone {pv : PivotRecord} (tag : Tag) (hw : plannerWorks v = true)
    (hpv : (cutJunction k blade c v).pivot = some pv) (h0 : c.entry = 0) (hx : c.exit = 0)
    (hrule : v.link.intake ≠ [] ∨ 2 ≤ v.planner.window.length + 1 + v.executor.queue.length) :
    ∃ gone, DueGone v.executor.queue (v.planner.window ++ [⟨⟨tag, v.planner.actions, .pivot pv⟩, 0, false⟩])
      [cutEntry tag [] c 0] gone (withCut k blade c tag v) := by
  obtain ⟨hmade, hspeed⟩ := cutJunction_pivot (k := k) (blade := blade) (c := c) (v := v) (by simp [hpv])
  have hk : k.first c.heading = none := by
    unfold ContourRecord.first
    split
    · next hn => exact absurd hn hmade
    · rfl
  have hcontext := beforeCut_context k blade c tag v
  have hactions := beforeCut_actions (k := k) (blade := blade) (c := c) (v := v) tag
  rw [hpv] at hactions
  obtain ⟨gone, hgone⟩ := appendRecord_stop (w := ⟨⟨tag, v.planner.actions, .pivot pv⟩, 0, false⟩)
    (s := (setTrimDist (cutJunction k blade c v).trimDist v).setPlanner
      { (setTrimDist (cutJunction k blade c v).trimDist v).planner with actions := [] }) rfl hw
  have hbefore : DueGone v.executor.queue (v.planner.window ++ [⟨⟨tag, v.planner.actions, .pivot pv⟩, 0, false⟩]) []
      gone (beforeCut k blade c tag v) := by
    unfold beforeCut
    rw [fillFirst_window, hk, filled_none, hpv]
    exact hgone.of_same rfl rfl rfl
  unfold withCut makeRecord
  rw [hactions, hspeed]
  refine DueGone.appendCut (s := (beforeCut k blade c tag v).setPlanner _)
    (hbefore.of_same rfl rfl rfl) (hcontext.works hw) rfl h0 hx rfl ?_
  show (beforeCut k blade c tag v).link.intake ≠ [] ∨ _
  rw [hcontext.link, List.length_append]
  exact hrule

/-! ## A CUT without a PIVOT -/

/-- The run with the new CUT, replanned from its boundary speed (R71 to R73). -/
theorem joinWindow_cut {w : WindowEntry} (hb : w.record.body = .cut c) :
    (joinWindow w s).planner = { s.planner with
      memory := .inWindow c.heading c.cap
      boundary := if (lastCut (s.planner.window.drop s.planner.dueCount)).isNone then s.planner.memory.boundary
        else s.planner.boundary
      window := (s.planner.window ++ [w]).take s.planner.dueCount ++
        planForward s.accel (if (lastCut (s.planner.window.drop s.planner.dueCount)).isNone
            then s.planner.memory.boundary else s.planner.boundary)
          (planBackward s.accel ((s.planner.window ++ [w]).drop s.planner.dueCount)).1 } := by
  show Planner.append _ _ w s.planner = _
  unfold Planner.append
  simp only [hb]
  rfl

/-- A record appended in a contour to a window with room for more than one just joins it. -/
theorem appendRecord_of_room {w : WindowEntry} (hs : s.planner.stream = .inContour)
    (hlen : s.planner.window.length ≤ 22) : appendRecord w s = joinWindow w s := by
  have hstart : startsWork s = s := by
    unfold startsWork
    rw [if_neg]
    rintro ⟨-, hno, -⟩
    rw [hs] at hno
    cases hno
  have hlen' : (joinWindow w s).planner.window.length = s.planner.window.length + 1 :=
    Planner.append_window_length _ _ _ _
  unfold appendRecord releaseFull
  rw [hstart, if_neg]
  rw [hlen']
  exact Nat.not_le.2 (Nat.lt_succ_of_le (by omega : s.planner.window.length + 1 ≤ 23))

/-! ## The whole taking -/

theorem makeCut_eq (b : PlannedBlock) (k : ContourRecord) (blade : BladeEntry) (c : CutRecord) (p : Packet)
    (s : State) : makeCut b k blade c p s = afterCut b k c (withCut k blade c p.tag s) := rfl

theorem withCut_actions (tag : Tag) : (withCut k blade c tag v).planner.actions = [] := makeRecord_actions _ _ _ _ _

theorem withCut_context (tag : Tag) : CutContext (cutJunction k blade c v).trimDist v (withCut k blade c tag v) :=
  (beforeCut_context k blade c tag v).frame (makeRecord_frame _ _ _ _ _)

theorem makeCut_handled {r : Setup} {rest : List Packet} (h : Handled r rest s v) :
    Handled r rest s (makeCut b k blade c p v) := by
  rw [makeCut_eq]
  exact ((beforeCut_handled h p.tag).frame (makeRecord_frame _ _ _ _ _)).setPlanner _

/-- The stream context once an accepted CUT has been made and the release rules applied. -/
structure CutDone (b : PlannedBlock) (k : ContourRecord) (c : CutRecord) (d : Nat) (s t : State) : Prop where
  prev : t.planner.prev = some (c.x1, c.y1)
  plannedHeading : t.planner.plannedHeading = some c.heading
  contour : t.planner.contour = some { k with cutPlunge := some c.snap.plunge }
  actions : t.planner.actions = []
  trimDist : t.planner.trimDist = d + if b.dry then 0 else c.len
  stream : t.planner.stream = s.planner.stream
  block : t.planner.block = s.planner.block
  remembers : RemembersCut c t

theorem plannerMoment_makeCut (b : PlannedBlock) (k : ContourRecord) (blade : BladeEntry) (c : CutRecord) (p : Packet)
    (s : State) :
    plannerMoment (makeCut b k blade c p s) = applyReleases (afterCut b k c (withCut k blade c p.tag s)) :=
  plannerMoment_of_noActions (s := makeCut b k blade c p s) (withCut_actions p.tag)

theorem makeCut_done (h0 : c.entry = 0) (hx : c.exit = 0) :
    CutDone b k c (cutJunction k blade c v).trimDist v (plannerMoment (makeCut b k blade c p v)) := by
  rw [plannerMoment_makeCut]
  have hcontext := withCut_context (k := k) (blade := blade) (c := c) (v := v) p.tag
  have hremembers := withCut_remembers (k := k) (blade := blade) (v := v) p.tag h0 hx
  have hactions := withCut_actions (k := k) (blade := blade) (c := c) (v := v) p.tag
  generalize withCut k blade c p.tag v = made at hcontext hremembers hactions
  have hf := applyReleases_frame (afterCut b k c made)
  refine ⟨hf.prev, hf.plannedHeading, hf.contour, (applyReleases_actions _).trans hactions, hf.trimDist.trans ?_,
    hf.stream.trans hcontext.stream, hf.block.trans hcontext.block,
    RemembersCut.releases (s := afterCut b k c made) hremembers⟩
  show (if b.dry then made.planner.trimDist else made.planner.trimDist + c.len) = _
  rw [hcontext.trimDist]
  cases b.dry <;> rfl

/-- Where no record is to be released, the window is the due records and the run with the new CUT. -/
theorem makeCut_replanned {r : Setup} {filled : List WindowEntry} {boundary : Nat}
    (hpv : (cutJunction k blade c v).pivot = none)
    (hs : v.planner.stream = .inContour) (hsetup : v.part.setup = some r) (hlen : v.planner.window.length ≤ 22)
    (hstuck : 32 ≤ v.executor.queue.length ∨
      (v.planner.releasePoint = none ∧ (v.link.intake ≠ [] ∨ 2 ≤ v.executor.queue.length)))
    (hfilled : filled = v.planner.window.map (WindowEntry.filled (k.first c.heading)))
    (hboundary : boundary = if (lastCut (filled.drop v.planner.dueCount)).isNone then v.planner.memory.boundary
      else v.planner.boundary) :
    let entry := cutEntry p.tag v.planner.actions c (cutJunction k blade c v).speed
    let t := plannerMoment (makeCut b k blade c p v)
    t.planner.window = (filled ++ [entry]).take v.planner.dueCount ++
        planForward r.accel boundary (planBackward r.accel ((filled ++ [entry]).drop v.planner.dueCount)).1 ∧
      t.planner.boundary = boundary ∧ t.planner.releasePoint = v.planner.releasePoint ∧ t.executor = v.executor := by
  subst hfilled hboundary
  have hbefore : beforeCut k blade c p.tag v = v.setPlanner { v.planner with
      trimDist := (cutJunction k blade c v).trimDist
      window := v.planner.window.map (WindowEntry.filled (k.first c.heading)) } := by
    unfold beforeCut
    rw [fillFirst_window, hpv]
    rfl
  let base := v.setPlanner { v.planner with
      trimDist := (cutJunction k blade c v).trimDist
      window := v.planner.window.map (WindowEntry.filled (k.first c.heading))
      actions := [] }
  have hmade : withCut k blade c p.tag v =
      joinWindow (cutEntry p.tag v.planner.actions c (cutJunction k blade c v).speed) base := by
    unfold withCut makeRecord
    rw [hbefore]
    exact appendRecord_of_room (s := base) hs (by simpa [base] using hlen)
  have hplanner := joinWindow_cut (s := base) (w := cutEntry p.tag v.planner.actions c (cutJunction k blade c v).speed)
    (c := c) rfl
  have haccel : base.accel = r.accel := by
    show (match v.part.setup with
      | some r => r.accel
      | none => 0) = _
    rw [hsetup]
  rw [haccel] at hplanner
  have hstill : plannerMoment (makeCut b k blade c p v) = afterCut b k c (withCut k blade c p.tag v) := by
    rw [plannerMoment_makeCut, applyReleases_of_stuck]
    rw [hmade]
    rcases hstuck with hfull | ⟨hpoint, hrule⟩
    · refine .inl ?_
      rw [← Bool.not_eq_true, headReleasable_iff]
      rintro ⟨hlt, -⟩
      exact absurd hlt (Nat.not_lt.2 hfull)
    · refine .inr (releaseCalled_of_none ?_ ?_ hrule)
      · show (joinWindow _ base).planner.releasePoint = none
        rw [hplanner]
        exact hpoint
      · show (joinWindow _ base).planner.window.length < 24
        refine (Planner.append_window_length _ _ _ _).trans_lt ?_
        simp [base]
        omega
  dsimp only
  rw [hstill, hmade]
  refine ⟨?_, ?_, ?_, rfl⟩
  · show (joinWindow _ base).planner.window = _
    rw [hplanner]
    rfl
  · show (joinWindow _ base).planner.boundary = _
    rw [hplanner]
    rfl
  · show (joinWindow _ base).planner.releasePoint = _
    rw [hplanner]
    rfl

/-- A PIVOT makes the window up to it due, and it is released as room allows; the CUT begins a new run. -/
theorem makeCut_pivot {pv : PivotRecord} (hw : plannerWorks v = true)
    (hpv : (cutJunction k blade c v).pivot = some pv) (h0 : c.entry = 0) (hx : c.exit = 0)
    (hrule : v.link.intake ≠ [] ∨ 2 ≤ v.planner.window.length + 1 + v.executor.queue.length) :
    let due := v.planner.window ++ [⟨⟨p.tag, v.planner.actions, .pivot pv⟩, 0, false⟩]
    DueGone v.executor.queue due [cutEntry p.tag [] c 0] (releasable v.executor.queue due)
      (plannerMoment (makeCut b k blade c p v)) := by
  obtain ⟨gone, hgone⟩ := withCut_dueGone p.tag hw hpv h0 hx hrule
  have hcontext := withCut_context (k := k) (blade := blade) (c := c) (v := v) p.tag
  dsimp only
  rw [plannerMoment_makeCut]
  refine DueGone.releases (s := afterCut b k c (withCut k blade c p.tag v)) (hgone.of_same rfl rfl rfl)
    (hcontext.works hw) (.inr ⟨rfl, ?_⟩)
  show (withCut k blade c p.tag v).link.intake ≠ [] ∨ _
  rw [hcontext.link, List.length_append]
  exact hrule

end

end Sys2Proof.Machine

/-! # An accepted CUT (R10, R11, R17, R51 to R53, R61, R67 to R73, R76, R80) -/

namespace Sys2Proof.Machine

section
variable {k : ContourRecord} {blade : BladeEntry} {b : PlannedBlock} {c : CutRecord} {p : Packet} {v s t : State}

theorem makePivot_prefix (tag : Tag) (pivot : Option PivotRecord) (s : State) :
    s.executor.queue <+: (makePivot tag pivot s).executor.queue := by
  cases pivot with
  | none => exact List.prefix_refl _
  | some pv => exact appendRecord_prefix _ (s.setPlanner { s.planner with actions := [] })

/-- The queue as it was stands before all other records. -/
theorem makeCut_prefix : v.executor.queue <+: (plannerMoment (makeCut b k blade c p v)).records := by
  have hbefore : v.executor.queue <+: (beforeCut k blade c p.tag v).executor.queue := by
    unfold beforeCut
    rw [fillFirst_window]
    exact makePivot_prefix _ _ (setTrimDist (cutJunction k blade c v).trimDist v)
  have hmade : v.executor.queue <+: (withCut k blade c p.tag v).executor.queue :=
    hbefore.trans (appendRecord_prefix _ ((beforeCut k blade c p.tag v).setPlanner
      { (beforeCut k blade c p.tag v).planner with actions := [] }))
  rw [plannerMoment_makeCut]
  exact (hmade.trans (applyReleases_prefix (afterCut b k c (withCut k blade c p.tag v)))).trans
    (List.prefix_append _ _)

/-- The records of the plan once a CUT has been made. -/
theorem makeCut_records (h0 : c.entry = 0) (hx : c.exit = 0) :
    ∃ l entry, entry ≤ c.cap ∧ (plannerMoment (makeCut b k blade c p v)).records = l ++
      [⟨p.tag, if (cutJunction k blade c v).pivot.isSome then [] else v.planner.actions,
        .cut { c with entry := entry, exit := 0 }⟩] ∧
      l.map Record.unplanned = (v.executor.queue ++
        v.planner.window.map (fun w => (w.filled (k.first c.heading)).record) ++
        pivotRecords p.tag v.planner.actions (cutJunction k blade c v).pivot).map Record.unplanned := by
  rw [plannerMoment_makeCut, applyReleases_records]
  exact withCut_records p.tag h0 hx

/-- The record at place `i`, where the records are known but for planned speeds. -/
theorem getElem?_of_unplanned {l m : List Record} {i : Nat} {w : Record}
    (h : l.map Record.unplanned = m.map Record.unplanned) (hw : m[i]? = some w) :
    ∃ q, l[i]? = some q ∧ q.unplanned = w.unplanned := by
  have hi : (l.map Record.unplanned)[i]? = some w.unplanned := by rw [h, List.getElem?_map, hw]; rfl
  rw [List.getElem?_map, Option.map_eq_some_iff] at hi
  exact hi

/-- What of the window entry `w` stays in its record as a CUT of heading `heading` is made. -/
theorem Record.of_filled {q : Record} {w : WindowEntry} {heading : Nat}
    (h : q.unplanned = (w.filled (k.first heading)).record.unplanned) :
    q.tag = w.record.tag ∧ q.actions = w.record.actions ∧
      (k.cutPlunge = none → w.ofOpenContour = true →
        (∀ x y, w.record.body = .travel x y none → q.body = .travel x y (some heading)) ∧
        (∀ x y speed, w.record.body = .enter x y none speed → q.body = .enter x y (some heading) speed)) ∧
      (∀ old, w.record.body = .cut old → ∃ en ex, q.body = .cut { old with entry := en, exit := ex }) ∧
      (w.record.body.cut? = none → k.cutPlunge ≠ none ∨ w.ofOpenContour = false → q = w.record) := by
  obtain ⟨htag, hactions, hsame, hcut⟩ := Record.of_unplanned_eq h
  rw [WindowEntry.filled_cut] at hsame
  refine ⟨htag.trans (WindowEntry.filled_tag _ _), hactions.trans (WindowEntry.filled_actions _ _),
    fun hnone hopen => ?_, fun old hold => hcut old ?_, fun hother hkept => ?_⟩
  · have hfilled : w.filled (k.first heading) = w.fill heading := by
      rw [ContourRecord.first, hnone]
      exact WindowEntry.filled_of_open hopen
    rw [hfilled] at hsame
    refine ⟨fun x y hb => ?_, fun x y speed hb => ?_⟩
    · rw [hsame (by rw [hb]; rfl), WindowEntry.fill_travel hb]
    · rw [hsame (by rw [hb]; rfl), WindowEntry.fill_enter hb]
  · have hheaded : w.filled (k.first heading) = w := by
      cases hf : k.first heading with
      | none => rfl
      | some h =>
        unfold WindowEntry.filled
        dsimp only
        split
        · exact WindowEntry.fill_of_headed (by rw [hold]; rfl)
        · rfl
    rw [hheaded]
    exact hold
  · rw [hsame hother, WindowEntry.filled_of_other]
    refine hkept.imp_left fun hmade => ?_
    unfold ContourRecord.first
    split
    · next hn => exact absurd hn hmade
    · rfl

theorem lastCut_isNone (l : List WindowEntry) :
    (lastCut l).isNone = true ↔ (l.filterMap fun w => w.record.body.cut?) = [] := by
  rw [lastCut_eq, Option.isNone_iff_eq_none, List.getLast?_eq_none_iff]

theorem RemembersCut.inWindow (h : RemembersCut c t) (hw : t.planner.window ≠ []) :
    t.planner.memory = .inWindow c.heading c.cap := by
  rcases h with ⟨hnil, -⟩ | ⟨l, w, q, -, -, -, hm⟩
  · exact absurd hnil hw
  · exact hm

theorem RemembersCut.fixed (h : RemembersCut c t) (hw : t.planner.window = []) :
    t.planner.memory = .fixed c.heading c.cap 0 := by
  rcases h with ⟨-, hm⟩ | ⟨l, w, q, hl, -, -, -⟩
  · exact hm
  · rw [hl] at hw
    exact absurd hw (by simp)

/-- What a PIVOT has released, told by the records that were due. -/
theorem DueGone.records_due {before : List Record} {due behind : List WindowEntry} {gone : Nat}
    (h : DueGone before due behind gone t) :
    t.executor.queue = before ++ (due.map fun w => w.record).take gone ∧
      t.planner.window.map (fun w => w.record) =
        (due.map fun w => w.record).drop gone ++ behind.map (fun w => w.record) := by
  rw [h.queue, h.window, List.map_append, List.map_take, List.map_drop]
  exact ⟨rfl, rfl⟩

theorem releasable_eq (before : List Record) (due : List WindowEntry) : releasable before due =
    min (32 - before.length) ((due.map fun w => w.record).takeWhile fun q => !q.body.headless).length := by
  rw [List.takeWhile_map, List.length_map]
  rfl

end

/-- A CUT that ends within the travel, of length above 0, whose class is `snap`, is made. -/
theorem dealCut_of_accepted {r : Setup} {p : Packet} {u : State} {x y x0 y0 : Int} {feed : Nat} {b : PlannedBlock}
    {k : ContourRecord} {blade : BladeEntry} {snap : Snapshot} (hx : -2 ^ 31 ≤ x ∧ x < 2 ^ 31)
    (hy : -2 ^ 31 ≤ y ∧ y < 2 ^ 31) (hfeed : feed < 65536) (hp : p.payload = s32 x ++ s32 y ++ u16 feed)
    (hs : u.planner.stream = .inContour) (hb : u.planner.block = some b) (hprev : u.planner.prev = some (x0, y0))
    (hk : u.planner.contour = some k) (hblade : u.tables.blade = some blade)
    (hin : 0 ≤ x + b.ox ∧ x + b.ox ≤ r.xMax ∧ 0 ≤ y + b.oy ∧ y + b.oy ≤ r.yMax)
    (hlen : ¬ (x + b.ox = x0 ∧ y + b.oy = y0))
    (hsnap : governingClass u.tables (boxOf (x0 - b.ox) (y0 - b.oy) x y) = some snap) :
    dealCut r p u = .ok (makeCut b k blade (cutRecord x0 y0 (x + b.ox) (y + b.oy) feed snap blade) p u) := by
  obtain ⟨hpx, hpy⟩ := point_fields hp hx hy
  have hpf := feed_field hp hfeed
  have hmx : machineX b p = x + b.ox := by rw [machineX, hpx]
  have hmy : machineY b p = y + b.oy := by rw [machineY, hpy]
  have hwithin : withinTravel r (x + b.ox) (y + b.oy) = true := (withinTravel_iff _ _ _).2 hin
  simp only [dealCut, hs, hb, hprev, hk, hmx, hmy, hwithin, Bool.not_true, Bool.false_eq_true, if_false, if_neg hlen,
    hblade, hpx, hpy, hsnap, hpf]

/-- Settles O11: the records by `makeCut_records`, the run by `makeCut_replanned`, what a PIVOT releases by
`makeCut_pivot`. -/
theorem cutMakesItsRecord : Obligations.CutMakesItsRecord := by
  unfold Obligations.CutMakesItsRecord
  intro r p rest s x y x0 y0 feed b k blade snap h hx hy hfeed hp hs hb hprev hk hblade hxin hyin hlen hsnap
  have hdeal := dealCut_of_accepted (u := takeIntake rest s) hx hy hfeed hp hs hb hprev hk hblade
    ⟨hxin.1, hxin.2, hyin⟩ hlen hsnap
  let c := cutRecord x0 y0 (x + b.ox) (y + b.oy) feed snap blade
  obtain ⟨l, entry, hentry, hrecords, hl⟩ :=
    makeCut_records (k := k) (blade := blade) (b := b) (c := c) (p := p) (v := takeIntake rest s) rfl rfl
  have hdone := makeCut_done (k := k) (blade := blade) (b := b) (c := c) (p := p) (v := takeIntake rest s) rfl rfl
  have hhandled := (makeCut_handled (k := k) (blade := blade) (b := b) (c := c) (p := p) h.handled).moment
  have hprefix := makeCut_prefix (k := k) (blade := blade) (b := b) (c := c) (p := p) (v := takeIntake rest s)
  have hplain := fun filled boundary => makeCut_replanned (k := k) (blade := blade) (b := b) (c := c) (p := p)
    (v := takeIntake rest s) (r := r) (filled := filled) (boundary := boundary)
  have hturned := fun pv => makeCut_pivot (k := k) (blade := blade) (b := b) (c := c) (p := p) (v := takeIntake rest s)
    (pv := pv) h.plannerWorks
  have hexec := h.takeAndTry hdeal
  refine ⟨_, entry, hexec, ?_⟩
  intro heading len cap j
  have hj : j = cutJunction k blade c (takeIntake rest s) := rfl
  rw [← hj] at hrecords hl hdone hplain hturned
  generalize plannerMoment _ = t at hrecords hdone hhandled hprefix hplain hturned ⊢
  have hlength : l.length = s.records.length + if j.pivot.isSome then 1 else 0 := by
    have := congrArg List.length hl
    cases hpv : j.pivot <;> simpa [hpv, pivotRecords, State.records, Nat.add_assoc] using this
  refine ⟨?_, hentry, ?_, fun pv hpv => ?_, hprefix, fun i w hw => ?_, hdone.prev, hdone.plannedHeading, hdone.contour,
    hdone.actions, hdone.trimDist, hdone.stream.trans hs, hdone.block, hhandled.link, hhandled.tables, hhandled.report,
    hhandled.only, hdone.remembers.inWindow, hdone.remembers.fixed, fun hpv hlen hstuck => ?_,
    fun pv hpv hmade hrule => ?_⟩
  · rw [hrecords, List.getLast?_append, List.getLast?_singleton]
    rfl
  · rw [hrecords, List.length_append, List.length_singleton, hlength]
    cases j.pivot <;> rfl
  · rw [hpv] at hl
    obtain ⟨q, hq, hsame⟩ := getElem?_of_unplanned (i := s.records.length) hl
      (w := ⟨p.tag, s.planner.actions, .pivot pv⟩)
      (by rw [List.getElem?_append_right (by simp [State.records])]; simp [State.records, pivotRecords])
    rw [hrecords, List.getElem?_append_left (List.getElem?_eq_some_iff.1 hq).1, hq,
      (Record.of_unplanned_eq hsame).2.2.1 rfl]
  · have hi : i < s.planner.window.length := (List.getElem?_eq_some_iff.1 hw).1
    obtain ⟨q, hq, hsame⟩ := getElem?_of_unplanned (i := s.executor.queue.length + i) hl
      (w := (w.filled (k.first heading)).record) (by
        rw [List.append_assoc, takeIntake_executor, takeIntake_planner,
          List.getElem?_append_right (Nat.le_add_right _ _), Nat.add_sub_cancel_left,
          List.getElem?_append_left (by simpa using hi), List.getElem?_map, hw]
        rfl)
    refine ⟨q, ?_, Record.of_filled hsame⟩
    rw [hrecords, List.getElem?_append_left (List.getElem?_eq_some_iff.1 hq).1, hq]
  · intro filled due boundary made
    have hfilled : filled = s.planner.window.map (WindowEntry.filled (k.first heading)) := by
      simp only [filled, ContourRecord.first]
      cases k.cutPlunge with
      | none => rfl
      | some plunge => exact (filled_none _).symm
    have hboundary : boundary = if (lastCut (filled.drop s.planner.dueCount)).isNone then s.planner.memory.boundary
        else s.planner.boundary := by
      have hmemory : s.planner.memory.boundary = match s.planner.memory with
          | .fixed _ _ exit => exit
          | _ => 0 := by cases s.planner.memory <;> rfl
      rw [hmemory]
      exact if_congr (lastCut_isNone _).symm rfl rfl
    exact hplain _ _ hpv hs h.setup hlen hstuck hfilled hboundary
  · have hwaits : rest ≠ [] ∨ 2 ≤ s.planner.window.length + 1 + s.executor.queue.length := by
      refine hrule.imp_right fun hheld => ?_
      rw [← List.length_pos_iff, ← List.length_pos_iff] at hheld
      omega
    have hgone := hturned pv hpv rfl rfl hwaits
    obtain ⟨hqueue, hwindow⟩ := hgone.records_due
    have hpoint := hgone.releasePoint
    have hlast := congrArg (fun l => l.getLast?.map fun w : WindowEntry => w.junction) hgone.window
    rw [List.length_append, ← List.length_map (as := (takeIntake rest s).planner.window) (fun w => w.record)] at hpoint
    rw [releasable_eq, List.map_append] at hqueue hwindow hpoint
    refine ⟨hqueue, hwindow, ?_, ?_⟩
    · rw [show (t.planner.window.getLast?.map fun w => w.junction) = _ from hlast, List.getLast?_append]
      rfl
    · rw [List.length_append]
      exact hpoint

end Sys2Proof.Machine

/-! # Lengths and headings of segments (R51, R52) -/

namespace Sys2Proof.Machine

/-! ## Lengths -/

/-- The nearest root lies within a half of the root: its square is compared with four times the number, doubled and
moved by one. -/
theorem rootNearest_nearest (n : Nat) :
    4 * n < (2 * rootNearest n + 1) * (2 * rootNearest n + 1) ∧
      (0 < rootNearest n → (2 * rootNearest n - 1) * (2 * rootNearest n - 1) < 4 * n) := by
  have hle : isqrt n * isqrt n ≤ n := by
    rw [isqrt_eq_sqrt]
    exact Nat.sqrt_le n
  have hlt : n < (isqrt n + 1) * (isqrt n + 1) := by
    rw [isqrt_eq_sqrt]
    exact Nat.lt_succ_sqrt n
  unfold rootNearest
  generalize isqrt n = root at hle hlt
  split
  · have hodd : 2 * (root + 1) - 1 = 2 * root + 1 := by omega
    rw [hodd]
    refine ⟨by nlinarith, fun _ => by nlinarith⟩
  · refine ⟨by nlinarith, fun hpos => ?_⟩
    obtain ⟨m, rfl⟩ : ∃ m, root = m + 1 := ⟨root - 1, by omega⟩
    have hodd : 2 * (m + 1) - 1 = 2 * m + 1 := by omega
    rw [hodd]
    nlinarith

theorem vecLength_nearest (dx dy : Int) :
    4 * (dx * dx + dy * dy) < (2 * (vecLength dx dy : Int) + 1) ^ 2 ∧
      (0 < vecLength dx dy → (2 * (vecLength dx dy : Int) - 1) ^ 2 < 4 * (dx * dx + dy * dy)) := by
  have hsq : dx * dx + dy * dy = ((dx.natAbs * dx.natAbs + dy.natAbs * dy.natAbs : Nat) : Int) := by
    rw [Nat.cast_add, Nat.cast_mul, Nat.cast_mul, Int.natAbs_mul_self', Int.natAbs_mul_self']
  obtain ⟨hbelow, habove⟩ := rootNearest_nearest (dx.natAbs * dx.natAbs + dy.natAbs * dy.natAbs)
  rw [hsq]
  unfold vecLength
  generalize dx.natAbs * dx.natAbs + dy.natAbs * dy.natAbs = n at hbelow habove
  generalize rootNearest n = root at hbelow habove
  refine ⟨?_, fun hpos => ?_⟩
  · rw [sq]
    exact_mod_cast hbelow
  · obtain ⟨m, rfl⟩ : ∃ m, root = m + 1 := ⟨root - 1, by omega⟩
    have hodd : 2 * (m + 1) - 1 = 2 * m + 1 := by omega
    have h := habove hpos
    rw [hodd] at h
    have hcast : 2 * ((m + 1 : Nat) : Int) - 1 = ((2 * m + 1 : Nat) : Int) := by push_cast; ring
    rw [hcast, sq]
    exact_mod_cast h

/-! ## Headings -/

/-- One centidegree as a fixed-point number. -/
abbrev oneCd : Nat := 2 ^ fixBits

theorem oneCd_pos : 0 < oneCd := Nat.two_pow_pos fixBits

/-- The whole centidegree nearest to a fixed-point number, a half up. -/
def nearestCd (d : Nat) : Nat := (d + 2 ^ (fixBits - 1)) / oneCd

theorem headingOf_eq (dx dy : Int) : headingOf dx dy = nearestCd (direction dx dy) % 36000 := rfl

theorem nearestCd_add (n d : Nat) : nearestCd (n * oneCd + d) = n + nearestCd d := by
  rw [nearestCd, Nat.add_assoc, Nat.mul_comm, Nat.mul_add_div oneCd_pos]
  rfl

theorem nearestCd_zero : nearestCd 0 = 0 := by
  rw [nearestCd, Nat.zero_add]
  exact Nat.div_eq_of_lt (Nat.pow_lt_pow_right (by decide) (by decide))

/-- The direction in each of the four quadrants, each with the axis that it begins at (R52). -/
theorem direction_of_first {dx dy : Int} (hx : 0 < dx) (hy : 0 ≤ dy) :
    direction dx dy = atanQuadrant dx.toNat dy.toNat := if_pos ⟨hx, hy⟩

theorem direction_of_second {dx dy : Int} (hx : dx ≤ 0) (hy : 0 < dy) :
    direction dx dy = 9000 * oneCd + atanQuadrant dy.toNat (-dx).toNat := by
  rw [direction, if_neg (fun h => absurd h.1 (Int.not_lt.2 hx)), if_pos ⟨hx, hy⟩]

theorem direction_of_third {dx dy : Int} (hx : dx < 0) (hy : dy ≤ 0) :
    direction dx dy = 18000 * oneCd + atanQuadrant (-dx).toNat (-dy).toNat := by
  rw [direction, if_neg (fun h => absurd h.1 (Int.not_lt.2 hx.le)),
    if_neg (fun h => absurd h.2 (Int.not_lt.2 hy)), if_pos hx]

theorem direction_of_fourth {dx dy : Int} (hx : 0 ≤ dx) (hy : dy < 0) :
    direction dx dy = 27000 * oneCd + atanQuadrant (-dy).toNat dx.toNat := by
  rw [direction, if_neg (fun h => absurd h.2 (Int.not_le.2 hy)),
    if_neg (fun h => absurd h.2 (Int.not_lt.2 hy.le)), if_neg (Int.not_lt.2 hx)]

/-- The quadrant of a segment. -/
theorem quadrants {dx dy : Int} (h : ¬ (dx = 0 ∧ dy = 0)) :
    (0 < dx ∧ 0 ≤ dy) ∨ (dx ≤ 0 ∧ 0 < dy) ∨ (dx < 0 ∧ dy ≤ 0) ∨ (0 ≤ dx ∧ dy < 0) := by omega

/-- A quarter turn takes each quadrant to the next. -/
theorem headingOf_quarterTurn {dx dy : Int} (h : ¬ (dx = 0 ∧ dy = 0)) :
    headingOf (-dy) dx = (headingOf dx dy + 9000) % 36000 := by
  rw [headingOf_eq, headingOf_eq]
  rcases quadrants h with ⟨hx, hy⟩ | ⟨hx, hy⟩ | ⟨hx, hy⟩ | ⟨hx, hy⟩
  · rw [direction_of_first hx hy, direction_of_second (by omega) hx, Int.neg_neg, nearestCd_add]
    omega
  · rw [direction_of_second hx hy, direction_of_third (by omega) hx, Int.neg_neg, nearestCd_add, nearestCd_add]
    omega
  · rw [direction_of_third hx hy, direction_of_fourth (by omega) hx, nearestCd_add, nearestCd_add]
    omega
  · rw [direction_of_fourth hx hy, direction_of_first (by omega) hx, nearestCd_add]
    omega

/-- Along an axis and along a diagonal the first quadrant gives 0 and 4500 cd exactly. -/
theorem atanSmall_zero (x : Nat) : atanSmall x 0 = 0 := by
  rw [atanSmall, Nat.zero_mul, Nat.zero_div]
  decide

theorem atanQuadrant_axis (x : Nat) : atanQuadrant x 0 = 0 := by
  rw [atanQuadrant, if_pos (Nat.zero_le x), atanOctant, if_pos (Nat.zero_le _), atanSmall_zero]

theorem atanQuadrant_diagonal {x : Nat} (hx : 0 < x) : atanQuadrant x x = 4500 * oneCd := by
  rw [atanQuadrant, if_pos le_rfl, atanOctant, if_neg (by omega), Nat.sub_self, atanSmall_zero, Nat.sub_zero]

/-- What the headings along the axes and the diagonals turn on. -/
theorem headingOf_axis {k : Int} (hk : 0 < k) : headingOf k 0 = 0 := by
  rw [headingOf_eq, direction_of_first hk le_rfl, Int.toNat_zero, atanQuadrant_axis, nearestCd_zero]

theorem headingOf_diagonal {k : Int} (hk : 0 < k) : headingOf k k = 4500 := by
  rw [headingOf_eq, direction_of_first hk hk.le, atanQuadrant_diagonal (by omega),
    ← Nat.add_zero (4500 * oneCd), nearestCd_add, nearestCd_zero]

/-- Settles O16: the axes and diagonals follow from those of the first quadrant by quarter turns. -/
theorem segmentLengthAndHeading : Obligations.SegmentLengthAndHeading := by
  unfold Obligations.SegmentLengthAndHeading
  refine ⟨vecLength_nearest, fun dx dy => ?_, fun k hk => ?_, fun dx dy h => headingOf_quarterTurn h⟩
  · rw [headingOf_eq]
    exact Nat.mod_lt _ (by decide)
  · have h1 := headingOf_axis hk
    have h2 := headingOf_diagonal hk
    have h3 := headingOf_quarterTurn (dx := k) (dy := 0) (by omega)
    have h4 := headingOf_quarterTurn (dx := k) (dy := k) (by omega)
    have h5 := headingOf_quarterTurn (dx := 0) (dy := k) (by omega)
    have h6 := headingOf_quarterTurn (dx := -k) (dy := k) (by omega)
    have h7 := headingOf_quarterTurn (dx := -k) (dy := 0) (by omega)
    have h8 := headingOf_quarterTurn (dx := -k) (dy := -k) (by omega)
    rw [Int.neg_zero] at h3 h7
    rw [Int.neg_neg] at h8
    rw [h1] at h3
    rw [h2] at h4
    rw [h3] at h5
    rw [h4] at h6
    rw [h5] at h7
    rw [h6] at h8
    exact ⟨h1, h2, h3, h4, h5, h6, h7, h8⟩

end Sys2Proof.Machine

/-! # The arctangent in fixed point (R52, log 9)

The series of `atanSeries` is followed term by term against that of the arctangent: every term and every division is
rounded down by a few units of the last place, and what the series leaves out is less than its next term. -/

namespace Sys2Proof.Machine

/-! ## The series -/

/-- The first `n` terms of the arctangent series of `u` from the power `odd` on, the first of them negative if `neg`. -/
noncomputable def atanSum (u : ℝ) : Nat → Nat → Bool → ℝ
  | 0, _, _ => 0
  | n + 1, odd, neg => (if neg then -1 else 1) * (u ^ odd / odd) + atanSum u n (odd + 2) (!neg)

theorem atanSum_eq (u : ℝ) (n i : Nat) (neg : Bool) (h : (if neg then (-1 : ℝ) else 1) = (-1) ^ i) :
    atanSum u n (2 * i + 1) neg =
      ∑ j ∈ Finset.range n, (-1) ^ (i + j) * (u ^ (2 * (i + j) + 1) / (2 * (i + j) + 1 : Nat)) := by
  induction n generalizing i neg with
  | zero => rfl
  | succ n ih =>
    have hnext : (if !neg then (-1 : ℝ) else 1) = (-1) ^ (i + 1) := by
      rw [pow_succ, ← h]
      cases neg <;> simp
    rw [atanSum, h, show 2 * i + 1 + 2 = 2 * (i + 1) + 1 by ring, ih (i + 1) (!neg) hnext, Finset.sum_range_succ',
      Nat.add_zero, add_comm]
    congr 1
    refine Finset.sum_congr rfl fun j _ => ?_
    rw [show i + 1 + j = i + (j + 1) by ring]

section
variable {u : ℝ}

/-- The terms of the series without their signs fall. -/
theorem atanTerms_antitone (h0 : 0 ≤ u) (h1 : u ≤ 1) :
    Antitone fun j : Nat => u ^ (2 * j + 1) / (2 * j + 1 : Nat) := by
  refine antitone_nat_of_succ_le fun j => ?_
  have hpow : u ^ (2 * (j + 1) + 1) ≤ u ^ (2 * j + 1) := pow_le_pow_of_le_one h0 h1 (by omega)
  have hden : ((2 * j + 1 : Nat) : ℝ) ≤ (2 * (j + 1) + 1 : Nat) := by
    exact_mod_cast (by omega : 2 * j + 1 ≤ 2 * (j + 1) + 1)
  have hpos : (0 : ℝ) < (2 * j + 1 : Nat) := by exact_mod_cast Nat.succ_pos _
  exact div_le_div₀ (pow_nonneg h0 _) hpow hpos hden

theorem atanSums_tendsto (h0 : 0 ≤ u) (h1 : u < 1) :
    Filter.Tendsto (fun n => ∑ j ∈ Finset.range n, (-1 : ℝ) ^ j * (u ^ (2 * j + 1) / (2 * j + 1 : Nat))) Filter.atTop
      (nhds (Real.arctan u)) := by
  have hsum := (Real.hasSum_arctan (x := u) (by rwa [Real.norm_eq_abs, abs_of_nonneg h0])).tendsto_sum_nat
  simpa only [mul_div_assoc] using hsum

/-- Forty-two terms give the arctangent but for less than the next power. -/
theorem arctan_sub_atanSum (h0 : 0 ≤ u) (h1 : u ≤ 1 / 2) :
    |Real.arctan u - atanSum u 42 1 false| ≤ 1 / 2 ^ 85 := by
  have hanti := atanTerms_antitone h0 (by linarith)
  have htends := atanSums_tendsto h0 (by linarith)
  have hbelow := hanti.alternating_series_le_tendsto htends 21
  have habove := hanti.tendsto_le_alternating_series htends 21
  have hsum := atanSum_eq u 42 0 false (by simp)
  simp only [Nat.mul_zero, Nat.zero_add] at hsum
  rw [Finset.sum_range_succ, show (-1 : ℝ) ^ (2 * 21) = 1 by norm_num, one_mul] at habove
  rw [show 2 * 21 = 42 from rfl, ← hsum] at hbelow habove
  have hpow : u ^ (2 * 42 + 1) ≤ (1 / 2) ^ 85 := pow_le_pow_left₀ h0 h1 _
  have hterm : u ^ (2 * 42 + 1) / (2 * 42 + 1 : Nat) ≤ 1 / 2 ^ 85 := by
    refine (div_le_self (pow_nonneg h0 _) ?_).trans ?_
    · norm_num
    · rwa [one_div_pow] at hpow
  rw [abs_of_nonneg (by linarith)]
  linarith

theorem arctan_le (h0 : 0 ≤ u) (h1 : u < 1) : Real.arctan u ≤ u := by
  simpa using (atanTerms_antitone h0 h1.le).tendsto_le_alternating_series (atanSums_tendsto h0 h1) 0

/-! ## Rounding down -/

theorem natDiv_near (a : Nat) {b : Nat} (hb : 0 < b) :
    ((a / b : Nat) : ℝ) ≤ (a : ℝ) / b ∧ (a : ℝ) / b ≤ ((a / b : Nat) : ℝ) + 1 := by
  have hb' : (0 : ℝ) < b := by exact_mod_cast hb
  refine ⟨Nat.cast_div_le, ?_⟩
  rw [div_le_iff₀ hb']
  have h : a ≤ b * (a / b + 1) := (Nat.lt_mul_div_succ a hb).le
  have h' : (a : ℝ) ≤ b * ((a / b : Nat) + 1) := by exact_mod_cast h
  linarith

/-- The fixed-point unit. -/
noncomputable def fixUnit : ℝ := 2 ^ 96

theorem fixUnit_pos : 0 < fixUnit := by
  unfold fixUnit
  positivity

theorem oneCd_cast : ((2 ^ fixBits : Nat) : ℝ) = fixUnit := by
  unfold fixUnit
  norm_num [fixBits]

/-- A product of two numbers that are a few units short, rounded down, is a few units short of the product. -/
theorem mulDiv_near {a b : Nat} {p q d e : ℝ} (hp : 0 ≤ p) (hq : 0 ≤ q) (ha : (a : ℝ) ≤ fixUnit * p)
    (ha' : fixUnit * p - d ≤ a) (hb : (b : ℝ) ≤ fixUnit * q) (hb' : fixUnit * q - e ≤ b) :
    ((a * b / 2 ^ fixBits : Nat) : ℝ) ≤ fixUnit * (p * q) ∧
      fixUnit * (p * q) - (p * e + q * d + 1) ≤ (a * b / 2 ^ fixBits : Nat) := by
  obtain ⟨hfloor, hfloor'⟩ := natDiv_near (a * b) (Nat.two_pow_pos fixBits)
  rw [oneCd_cast, Nat.cast_mul] at hfloor hfloor'
  have hunit := fixUnit_pos
  have ha0 : (0 : ℝ) ≤ a := Nat.cast_nonneg a
  have hb0 : (0 : ℝ) ≤ b := Nat.cast_nonneg b
  have hmul : (a : ℝ) * b / fixUnit ≤ fixUnit * (p * q) := by
    rw [div_le_iff₀ hunit]
    nlinarith [mul_le_mul ha hb hb0 (mul_nonneg hunit.le hp)]
  have hmul' : fixUnit * (p * q) - (p * e + q * d) ≤ (a : ℝ) * b / fixUnit := by
    rw [le_div_iff₀ hunit]
    have h1 : fixUnit * p * (fixUnit * q - b) ≤ fixUnit * p * e :=
      mul_le_mul_of_nonneg_left (by linarith) (mul_nonneg hunit.le hp)
    have h2 : b * (fixUnit * p - a) ≤ fixUnit * q * d :=
      mul_le_mul hb (by linarith) (by linarith) (mul_nonneg hunit.le hq)
    nlinarith
  exact ⟨hfloor.trans hmul, by linarith⟩

/-! ## The series in fixed point -/

/-- The term `term` is that of the power `odd`, three units short at most. -/
theorem atanSeries_near {sq : Nat} (h0 : 0 ≤ u) (h1 : u ≤ 1 / 2) (hsq : (sq : ℝ) ≤ fixUnit * u ^ 2)
    (hsq' : fixUnit * u ^ 2 - 2 ≤ sq) (n : Nat) : ∀ (odd term acc : Nat) (neg : Bool), 1 ≤ odd →
    (term : ℝ) ≤ fixUnit * u ^ odd → fixUnit * u ^ odd - 3 ≤ term → (neg = true → term / odd ≤ acc) →
    |(atanSeries n odd term sq neg acc : ℝ) - (acc + fixUnit * atanSum u n odd neg)| ≤ 4 * n := by
  induction n with
  | zero => intro odd term acc neg _ _ _ _; simp [atanSeries, atanSum]
  | succ n ih =>
    intro odd term acc neg hodd hterm hterm' hacc
    have hunit := fixUnit_pos
    have hu : u ^ odd ≤ 1 / 2 := (pow_le_of_le_one h0 (by linarith) (by omega)).trans h1
    have hu2 : u ^ 2 ≤ 1 / 4 := (pow_le_pow_left₀ h0 h1 2).trans (by norm_num)
    have hodd' : (1 : ℝ) ≤ odd := by exact_mod_cast hodd
    -- the next term
    obtain ⟨hnext, hnext'⟩ := mulDiv_near (pow_nonneg h0 odd) (pow_nonneg h0 2) hterm hterm' hsq hsq'
    rw [← pow_add] at hnext hnext'
    have hsmaller : term * sq / 2 ^ fixBits ≤ term := by
      have hle : sq ≤ 2 ^ fixBits := by
        have h : (sq : ℝ) ≤ (2 ^ fixBits : Nat) := by
          rw [oneCd_cast]
          nlinarith
        exact_mod_cast h
      exact Nat.div_le_of_le_mul (by rw [Nat.mul_comm]; exact Nat.mul_le_mul_right _ hle)
    -- the term added or taken away
    obtain ⟨hpart, hpart'⟩ := natDiv_near term (show 0 < odd by omega)
    have hshort : |((term / odd : Nat) : ℝ) - fixUnit * (u ^ odd / odd)| ≤ 4 := by
      have hupper : (term : ℝ) / odd ≤ fixUnit * (u ^ odd / odd) := by
        rw [← mul_div_assoc]
        exact div_le_div_of_nonneg_right hterm (by linarith)
      have hlower : fixUnit * (u ^ odd / odd) - 3 ≤ (term : ℝ) / odd := by
        rw [← mul_div_assoc, le_div_iff₀ (by linarith), sub_mul, div_mul_cancel₀ _ (by linarith)]
        linarith
      rw [abs_le]
      exact ⟨by linarith, by linarith⟩
    have hrest : ∀ acc' : Nat, (neg = false → term / odd ≤ acc') →
        |(atanSeries n (odd + 2) (term * sq / 2 ^ fixBits) sq (!neg) acc' : ℝ) -
          (acc' + fixUnit * atanSum u n (odd + 2) (!neg))| ≤ 4 * n := fun acc' hle => by
      refine ih (odd + 2) _ acc' (!neg) (by omega) hnext (by linarith) fun hneg => ?_
      have hneg' : neg = false := by simpa using hneg
      exact (Nat.div_le_div hsmaller (by omega) (by omega)).trans (hle hneg')
    rw [atanSeries, atanSum, Nat.cast_add_one]
    rw [abs_le] at hshort ⊢
    cases neg with
    | false =>
      have h := abs_le.1 (hrest (acc + term / odd) fun _ => Nat.le_add_left _ _)
      rw [Nat.cast_add] at h
      simp only [Bool.false_eq_true, if_false, Bool.not_false] at h ⊢
      exact ⟨by linarith, by linarith⟩
    | true =>
      have h := abs_le.1 (hrest (acc - term / odd) fun hf => absurd hf (by decide))
      rw [Nat.cast_sub (hacc rfl)] at h
      simp only [if_true, Bool.not_true] at h ⊢
      exact ⟨by linarith, by linarith⟩

end

end Sys2Proof.Machine

/-! # The heading is the angle of the segment (R52, log 9) -/

namespace Sys2Proof.Machine

/-! ## Fixed-point centidegrees -/

/-- The fixed-point number `d` of centidegrees is the angle `angle`, in radians, but for a ten-billionth of a
centidegree. -/
def NearAngle (d : Nat) (angle : ℝ) : Prop := |(d : ℝ) / fixUnit - angle * 18000 / Real.pi| ≤ 1 / 10 ^ 10

/-- The centidegrees of a radian as the model holds them. -/
theorem cdPerRadian_near : |(cdPerRadian : ℝ) / fixUnit - 18000 / Real.pi| ≤ 1 / 10 ^ 14 := by
  have hlo := Real.pi_gt_d20
  have hhi := Real.pi_lt_d20
  have hpos : (0 : ℝ) < Real.pi := Real.pi_pos
  have hvalue : (cdPerRadian : ℝ) / fixUnit = 453943933064394333596397213281620 / 2 ^ 96 := by
    unfold fixUnit cdPerRadian
    norm_num
  rw [hvalue, abs_le]
  refine ⟨?_, ?_⟩
  · rw [neg_le_sub_iff_le_add, div_le_iff₀ hpos]
    nlinarith
  · rw [sub_le_comm, le_div_iff₀ hpos]
    nlinarith

section
variable {d : Nat} {angle : ℝ}

theorem NearAngle.add (h : NearAngle d angle) (n : Nat) :
    NearAngle (n * 2 ^ fixBits + d) (n * Real.pi / 18000 + angle) := by
  have hpi := Real.pi_ne_zero
  have hunit := fixUnit_pos.ne'
  have heq : ((n * 2 ^ fixBits + d : Nat) : ℝ) / fixUnit - (n * Real.pi / 18000 + angle) * 18000 / Real.pi =
      (d : ℝ) / fixUnit - angle * 18000 / Real.pi := by
    rw [Nat.cast_add, Nat.cast_mul, oneCd_cast]
    field_simp
    ring
  rw [NearAngle, heq]
  exact h

theorem NearAngle.sub {n : Nat} (h : NearAngle d angle) (hle : angle * 18000 / Real.pi + 1 / 10 ^ 10 ≤ n) :
    NearAngle (n * 2 ^ fixBits - d) (n * Real.pi / 18000 - angle) := by
  have hpi := Real.pi_ne_zero
  have hunit := fixUnit_pos.ne'
  have hfits : d ≤ n * 2 ^ fixBits := by
    have hd : (d : ℝ) / fixUnit ≤ n := by
      have := (abs_le.1 h).2
      linarith
    rw [div_le_iff₀ fixUnit_pos, ← oneCd_cast] at hd
    exact_mod_cast hd
  have heq : ((n * 2 ^ fixBits - d : Nat) : ℝ) / fixUnit - (n * Real.pi / 18000 - angle) * 18000 / Real.pi =
      -((d : ℝ) / fixUnit - angle * 18000 / Real.pi) := by
    rw [Nat.cast_sub hfits, Nat.cast_mul, oneCd_cast]
    field_simp
    ring
  rw [NearAngle, heq, abs_neg]
  exact h

end

/-! ## The first quadrant -/

/-- The arctangent of a ratio up to a half. -/
theorem atanSmall_near {x y : Nat} (hx : 0 < x) (hy : 2 * y ≤ x) :
    NearAngle (atanSmall x y) (Real.arctan ((y : ℝ) / x)) := by
  have hxr : (0 : ℝ) < x := by exact_mod_cast hx
  have hyr : 2 * (y : ℝ) ≤ x := by exact_mod_cast hy
  have hunit := fixUnit_pos
  let u : ℝ := (y : ℝ) / x
  have h0 : 0 ≤ u := div_nonneg (Nat.cast_nonneg y) hxr.le
  have h1 : u ≤ 1 / 2 := by
    rw [div_le_iff₀ hxr]
    linarith
  -- the argument and its square
  have hargument : ((y * 2 ^ fixBits : Nat) : ℝ) / x = fixUnit * u := by
    rw [Nat.cast_mul, oneCd_cast, mul_comm, mul_div_assoc]
  obtain ⟨hterm, hterm'⟩ := natDiv_near (y * 2 ^ fixBits) hx
  rw [hargument] at hterm hterm'
  obtain ⟨hsq, hsq'⟩ := mulDiv_near (d := 1) (e := 1) h0 h0 hterm (by linarith) hterm (by linarith)
  rw [← sq u] at hsq hsq'
  -- the sum of the series
  have hseries := atanSeries_near h0 h1 hsq (by linarith) 42 1 _ 0 false le_rfl (by rw [pow_one]; exact hterm)
    (by rw [pow_one]; linarith) (fun h => absurd h (by decide))
  have harctan := arctan_sub_atanSum h0 h1
  have hsmall : Real.arctan u ≤ 1 / 2 := (arctan_le h0 (by linarith)).trans h1
  have hnonneg : 0 ≤ Real.arctan u := Real.arctan_nonneg.2 h0
  unfold NearAngle atanSmall
  generalize atanSeries 42 1 (y * 2 ^ fixBits / x) (y * 2 ^ fixBits / x * (y * 2 ^ fixBits / x) / 2 ^ fixBits) false 0 =
    total at hseries
  have htotal : |(total : ℝ) / fixUnit - Real.arctan u| ≤ 1 / 2 ^ 84 := by
    have hsum : |(total : ℝ) / fixUnit - atanSum u 42 1 false| ≤ 168 / fixUnit := by
      have heq : (total : ℝ) / fixUnit - atanSum u 42 1 false =
          ((total : ℝ) - ((0 : Nat) + fixUnit * atanSum u 42 1 false)) / fixUnit := by
        field_simp
        push_cast
        ring
      rw [heq, abs_div, abs_of_pos fixUnit_pos]
      refine div_le_div_of_nonneg_right (hseries.trans ?_) hunit.le
      norm_num
    have hlast : (168 : ℝ) / fixUnit ≤ 1 / 2 ^ 85 := by
      unfold fixUnit
      norm_num
    have hpow : (1 : ℝ) / 2 ^ 84 = 1 / 2 ^ 85 + 1 / 2 ^ 85 := by norm_num
    rw [abs_sub_comm] at harctan
    rw [hpow]
    exact (abs_sub_le _ (atanSum u 42 1 false) _).trans (add_le_add (hsum.trans hlast) harctan)
  -- and the centidegrees of a radian
  have hcd := cdPerRadian_near
  have hcdle : (cdPerRadian : ℝ) / fixUnit ≤ 5730 := by
    unfold fixUnit cdPerRadian
    norm_num
  have hcdpos : 0 ≤ (cdPerRadian : ℝ) / fixUnit := div_nonneg (Nat.cast_nonneg _) hunit.le
  have hproduct : |(total : ℝ) / fixUnit * (cdPerRadian / fixUnit) - Real.arctan u * 18000 / Real.pi| ≤
      1 / 2 ^ 84 * 5730 + 1 / 2 * (1 / 10 ^ 14) := by
    have heq : (total : ℝ) / fixUnit * (cdPerRadian / fixUnit) - Real.arctan u * 18000 / Real.pi =
        ((total : ℝ) / fixUnit - Real.arctan u) * (cdPerRadian / fixUnit) +
          Real.arctan u * (cdPerRadian / fixUnit - 18000 / Real.pi) := by ring
    rw [heq]
    refine (abs_add_le _ _).trans (add_le_add ?_ ?_)
    · rw [abs_mul, abs_of_nonneg hcdpos]
      exact mul_le_mul htotal hcdle hcdpos (by positivity)
    · rw [abs_mul, abs_of_nonneg hnonneg]
      exact mul_le_mul hsmall hcd (abs_nonneg _) (by norm_num)
  have hfloor : |((total * cdPerRadian / 2 ^ fixBits : Nat) : ℝ) / fixUnit -
      total / fixUnit * (cdPerRadian / fixUnit)| ≤ 1 / 2 ^ 96 := by
    obtain ⟨hbelow, habove⟩ := natDiv_near (total * cdPerRadian) (Nat.two_pow_pos fixBits)
    rw [Nat.cast_mul, oneCd_cast] at hbelow habove
    have heq : ((total * cdPerRadian / 2 ^ fixBits : Nat) : ℝ) / fixUnit - total / fixUnit * (cdPerRadian / fixUnit) =
        (((total * cdPerRadian / 2 ^ fixBits : Nat) : ℝ) - total * cdPerRadian / fixUnit) / fixUnit := by
      field_simp
    rw [heq, abs_div, abs_of_pos hunit]
    refine div_le_div_of_nonneg_right ?_ hunit.le
    rw [abs_le]
    exact ⟨by linarith, by linarith⟩
  refine (abs_sub_le _ (total / fixUnit * (cdPerRadian / fixUnit)) _).trans ((add_le_add hfloor hproduct).trans ?_)
  norm_num

/-- Such an angle is well below an eighth of a turn. -/
theorem arctan_cd_le {u : ℝ} (h0 : 0 ≤ u) (h1 : u ≤ 1 / 2) : Real.arctan u * 18000 / Real.pi ≤ 3000 := by
  have harctan : Real.arctan u ≤ 1 / 2 := (arctan_le h0 (by linarith)).trans h1
  have hpi := Real.pi_gt_three
  rw [div_le_iff₀ Real.pi_pos]
  linarith

/-- The first octant: directly, or from the diagonal. -/
theorem atanOctant_near {x y : Nat} (hx : 0 < x) (hy : y ≤ x) :
    NearAngle (atanOctant x y) (Real.arctan ((y : ℝ) / x)) := by
  have hxr : (0 : ℝ) < x := by exact_mod_cast hx
  have hyr : (0 : ℝ) ≤ y := Nat.cast_nonneg y
  unfold atanOctant
  split
  · exact atanSmall_near hx (by omega)
  · next hsteep =>
    have hsum : (0 : ℝ) < (x + y : Nat) := by exact_mod_cast Nat.add_pos_left hx y
    have hdiff : ((x - y : Nat) : ℝ) = x - y := Nat.cast_sub hy
    have hsum' : ((x + y : Nat) : ℝ) = x + y := Nat.cast_add x y
    have hratio : ((x - y : Nat) : ℝ) / (x + y : Nat) ≤ 1 / 2 := by
      rw [div_le_iff₀ hsum]
      have : 2 * (x - y) ≤ x + y := by omega
      have : 2 * ((x - y : Nat) : ℝ) ≤ (x + y : Nat) := by exact_mod_cast this
      linarith
    have hnonneg : (0 : ℝ) ≤ ((x - y : Nat) : ℝ) / (x + y : Nat) := div_nonneg (Nat.cast_nonneg _) hsum.le
    have hnear := (atanSmall_near (x := x + y) (y := x - y) (by omega) (by omega)).sub (n := 4500) (by
      have := arctan_cd_le hnonneg hratio
      norm_num at this ⊢
      linarith)
    have hangle : (4500 : Nat) * Real.pi / 18000 - Real.arctan (((x - y : Nat) : ℝ) / (x + y : Nat)) =
        Real.arctan ((y : ℝ) / x) := by
      have hprod : (y : ℝ) / x * (((x - y : Nat) : ℝ) / (x + y : Nat)) < 1 := by
        have hle : (y : ℝ) / x ≤ 1 := by
          rw [div_le_one hxr]
          exact_mod_cast hy
        have hpos : 0 ≤ (y : ℝ) / x := div_nonneg hyr hxr.le
        nlinarith
      have hone : ((y : ℝ) / x + ((x - y : Nat) : ℝ) / (x + y : Nat)) /
          (1 - (y : ℝ) / x * (((x - y : Nat) : ℝ) / (x + y : Nat))) = 1 := by
        rw [div_eq_one_iff_eq (by linarith), hdiff, hsum']
        rw [hsum'] at hsum
        field_simp
        ring
      have hadd := Real.arctan_add hprod
      rw [hone, Real.arctan_one] at hadd
      push_cast
      push_cast at hadd
      linarith
    rwa [hangle] at hnear

/-- The first quadrant: directly, or from its other axis. -/
theorem atanQuadrant_near {x y : Nat} (hx : 0 < x) : NearAngle (atanQuadrant x y) (Real.arctan ((y : ℝ) / x)) := by
  have hxr : (0 : ℝ) < x := by exact_mod_cast hx
  unfold atanQuadrant
  split
  · next hy => exact atanOctant_near hx hy
  · next hy =>
    have hlt : x < y := Nat.lt_of_not_le hy
    have hyr : (0 : ℝ) < y := by exact_mod_cast hx.trans hlt
    have hle : Real.arctan ((x : ℝ) / y) ≤ Real.pi / 4 := by
      rw [← Real.arctan_one]
      refine Real.arctan_mono ?_
      rw [div_le_one hyr]
      exact_mod_cast hlt.le
    have hnear := (atanOctant_near (hx.trans hlt) hlt.le).sub (n := 9000) (by
      have h : Real.arctan ((x : ℝ) / y) * 18000 / Real.pi ≤ 4500 := by
        rw [div_le_iff₀ Real.pi_pos]
        linarith
      norm_num at h ⊢
      linarith)
    have hangle : (9000 : Nat) * Real.pi / 18000 - Real.arctan ((x : ℝ) / y) = Real.arctan ((y : ℝ) / x) := by
      rw [← inv_div (x : ℝ) y, Real.arctan_inv_of_pos (div_pos hxr hyr)]
      push_cast
      ring
    rwa [hangle] at hnear

/-! ## The four quadrants -/

/-- To the right of the Y axis the angle is the arctangent of the slope. -/
theorem arg_of_re_pos {a b : ℝ} (ha : 0 < a) : Complex.arg ⟨a, b⟩ = Real.arctan (b / a) := by
  have hrange := abs_lt.1 (Complex.abs_arg_lt_pi_div_two_iff.2 (.inl ha : 0 < (⟨a, b⟩ : ℂ).re ∨ (⟨a, b⟩ : ℂ) = 0))
  rw [← Real.arctan_tan hrange.1 hrange.2, Complex.tan_arg]

/-- The direction of a segment is its angle, but for whole turns. -/
def NearDirection (d : Nat) (z : ℂ) : Prop := ∃ k : ℤ, NearAngle d (Complex.arg z + 2 * Real.pi * k)

/-- A segment turned from the first quadrant by the angle of `c`. -/
theorem nearDirection_of_turn {n d : Nat} {c w z : ℂ} (hc : c ≠ 0) (hw : w ≠ 0) (hz : z = c * w)
    (hd : NearAngle d (Complex.arg w)) (hn : ((n * Real.pi / 18000 : ℝ) : Real.Angle) = Complex.arg c) :
    NearDirection (n * 2 ^ fixBits + d) z := by
  have hangle : ((n * Real.pi / 18000 + Complex.arg w : ℝ) : Real.Angle) = Complex.arg z := by
    rw [hz, Complex.arg_mul_coe_angle hc hw, Real.Angle.coe_add, hn]
  obtain ⟨k, hk⟩ := Real.Angle.angle_eq_iff_two_pi_dvd_sub.1 hangle
  refine ⟨k, ?_⟩
  rw [← hk, add_sub_cancel]
  exact hd.add n

/-- A vector of the first quadrant, its components whole. -/
theorem atanQuadrant_nearArg {a b : Int} (ha : 0 < a) (hb : 0 ≤ b) :
    NearAngle (atanQuadrant a.toNat b.toNat) (Complex.arg ⟨a, b⟩) := by
  have har : (0 : ℝ) < a := by exact_mod_cast ha
  have hacast : ((a.toNat : Nat) : ℝ) = a := by exact_mod_cast Int.toNat_of_nonneg ha.le
  have hbcast : ((b.toNat : Nat) : ℝ) = b := by exact_mod_cast Int.toNat_of_nonneg hb
  have hnear := atanQuadrant_near (x := a.toNat) (y := b.toNat) (by omega)
  rwa [hacast, hbcast, ← arg_of_re_pos har] at hnear

theorem ne_zero_of_re_pos {a b : Int} (ha : 0 < a) : (⟨a, b⟩ : ℂ) ≠ 0 := fun h => by
  have hre : (a : ℝ) = 0 := congrArg Complex.re h
  exact ha.ne' (by exact_mod_cast hre)

theorem direction_near {dx dy : Int} (h : ¬ (dx = 0 ∧ dy = 0)) : NearDirection (direction dx dy) ⟨dx, dy⟩ := by
  rcases quadrants h with ⟨hx, hy⟩ | ⟨hx, hy⟩ | ⟨hx, hy⟩ | ⟨hx, hy⟩
  · rw [direction_of_first hx hy]
    exact ⟨0, by simpa using atanQuadrant_nearArg hx hy⟩
  · rw [direction_of_second hx hy]
    refine nearDirection_of_turn (n := 9000) (c := Complex.I) (w := ⟨dy, (-dx : Int)⟩) Complex.I_ne_zero
      (ne_zero_of_re_pos hy) ?_ (atanQuadrant_nearArg hy (by omega)) ?_
    · apply Complex.ext <;> simp
    · rw [Complex.arg_I]
      congr 1
      push_cast
      ring
  · rw [direction_of_third hx hy]
    refine nearDirection_of_turn (n := 18000) (c := -1) (w := ⟨(-dx : Int), (-dy : Int)⟩) (by norm_num)
      (ne_zero_of_re_pos (by omega)) ?_ (atanQuadrant_nearArg (by omega) (by omega)) ?_
    · apply Complex.ext <;> simp
    · rw [Complex.arg_neg_one]
      congr 1
      push_cast
      ring
  · rw [direction_of_fourth hx hy]
    refine nearDirection_of_turn (n := 27000) (c := -Complex.I) (w := ⟨(-dy : Int), dx⟩)
      (neg_ne_zero.2 Complex.I_ne_zero) (ne_zero_of_re_pos (by omega)) ?_ (atanQuadrant_nearArg (by omega) hx) ?_
    · apply Complex.ext <;> simp
    · rw [Complex.arg_neg_I, Real.Angle.angle_eq_iff_two_pi_dvd_sub]
      refine ⟨1, ?_⟩
      push_cast
      ring

/-! ## Rounding to the nearest centidegree -/

theorem nearestCd_near (d : Nat) : |(nearestCd d : ℝ) - (d : ℝ) / fixUnit| ≤ 1 / 2 := by
  obtain ⟨hbelow, habove⟩ := natDiv_near (d + 2 ^ (fixBits - 1)) oneCd_pos
  have hhalf : ((d + 2 ^ (fixBits - 1) : Nat) : ℝ) / oneCd = (d : ℝ) / fixUnit + 1 / 2 := by
    rw [Nat.cast_add, add_div, oneCd_cast]
    congr 1
    unfold fixUnit
    norm_num [fixBits]
  rw [hhalf] at hbelow habove
  rw [abs_le, nearestCd]
  exact ⟨by linarith, by linarith⟩

/-- Settles O17: the direction is the angle but for a ten-billionth of a centidegree, and the rounding adds a half. -/
theorem headingIsTheAngle : Obligations.HeadingIsTheAngle := by
  unfold Obligations.HeadingIsTheAngle
  intro dx dy h _ _
  obtain ⟨k, hk⟩ := direction_near h
  have hround := nearestCd_near (direction dx dy)
  obtain ⟨turns, hturns⟩ : ∃ turns : Nat, headingOf dx dy + 36000 * turns = nearestCd (direction dx dy) :=
    ⟨_, Nat.mod_add_div (nearestCd (direction dx dy)) 36000⟩
  refine ⟨k - turns, ?_⟩
  have heq : (headingOf dx dy : ℝ) - (Complex.arg ⟨dx, dy⟩ * 18000 / Real.pi + 36000 * ((k - turns : ℤ) : ℝ)) =
      ((nearestCd (direction dx dy) : ℝ) - (direction dx dy : ℝ) / fixUnit) +
        ((direction dx dy : ℝ) / fixUnit - (Complex.arg ⟨dx, dy⟩ + 2 * Real.pi * k) * 18000 / Real.pi) := by
    have hpi := Real.pi_ne_zero
    rw [← hturns]
    push_cast
    field_simp
    ring
  rw [heq]
  refine (abs_add_le _ _).trans ((add_le_add hround hk).trans ?_)
  norm_num

end Sys2Proof.Machine
